-- ==== Sys2Proof/Word.lean ====
section
/-! DEFINITION. The word types of the Gyroken and their plainest arithmetic (R5, R6). -/

namespace Sys2Proof

/-- The smallest addressable unit of memory (R6). -/
abbrev Byte := BitVec 8

/-- One lane slot of a register (R2). -/
abbrev Word := BitVec 32

/-- An instruction word, a virtual address, a 64-bit register (R90, R339). -/
abbrev DWord := BitVec 64

end Sys2Proof
end

