-- ==== Sys2Proof/Machine/FMap.lean ====
section
/-! DEFINITION. Sparse storage: a list of (key, value) pairs in one canonical form (keys strictly rising, no entry
that holds the default), which memory and the register files use. -/

namespace Sys2Proof

/-- Sparse data by key. -/
abbrev FMap (α : Type) := List (Nat × α)

/-- What is held at a key; the default where nothing is listed. -/
def FMap.get {α : Type} (d : α) : FMap α → Nat → α
  | [], _ => d
  | (a, x) :: t, k => if a = k then x else FMap.get d t k

/-- The map with a key's entry replaced or inserted in its place. -/
def FMap.put {α : Type} : FMap α → Nat → α → FMap α
  | [], k, x => [(k, x)]
  | (a, y) :: t, k, x =>
    if k < a then (k, x) :: (a, y) :: t
    else if a = k then (k, x) :: t
    else (a, y) :: FMap.put t k x

/-- The map without a key. -/
def FMap.del {α : Type} : FMap α → Nat → FMap α
  | [], _ => []
  | (a, y) :: t, k => if a = k then FMap.del t k else (a, y) :: FMap.del t k

/-- A write that keeps the canonical form: writing the default removes the entry. -/
def FMap.set {α : Type} [DecidableEq α] (d : α) (m : FMap α) (k : Nat) (x : α) : FMap α :=
  if x = d then FMap.del m k else FMap.put m k x

/-- The canonical form above a bound: keys rise strictly from `lo`, and no entry holds the default. -/
def FMap.wfFrom {α : Type} [DecidableEq α] (d : α) : Nat → FMap α → Bool
  | _, [] => true
  | lo, (a, x) :: t => lo ≤ a && x ≠ d && FMap.wfFrom d (a + 1) t

/-- The canonical form. -/
def FMap.wf {α : Type} [DecidableEq α] (d : α) (m : FMap α) : Bool := FMap.wfFrom d 0 m

/-- Memory: bytes by key, in the canonical form of `FMap`. -/
abbrev Memory := List Host.Cell

/-- What an unlisted address reads as (log entry 4). -/
def Memory.unlisted : Byte := 0

/-- One byte. -/
def Memory.byte (m : Memory) (k : Nat) : Byte := FMap.get Memory.unlisted m k

/-- Stores one byte. -/
def Memory.setByte (m : Memory) (k : Nat) (b : Byte) : Memory := FMap.set Memory.unlisted m k b

/-- Memory is in its canonical form. -/
abbrev Memory.wf (m : Memory) : Prop := FMap.wf Memory.unlisted m = true

/-- n bytes from a key up. -/
def Memory.bytes (m : Memory) : Nat → Nat → List Byte
  | _, 0 => []
  | k, n + 1 => m.byte k :: Memory.bytes m (k + 1) n

/-- Stores bytes from a key up, in rising order. -/
def Memory.setBytes (m : Memory) : Nat → List Byte → Memory
  | _, [] => m
  | k, b :: bs => Memory.setBytes (m.setByte k b) (k + 1) bs

/-- Puts an entry behind those whose number is not larger. -/
def insertOn {α : Type} (f : α → Nat) (x : α) : List α → List α
  | [] => [x]
  | y :: ys => if f x < f y then x :: y :: ys else y :: insertOn f x ys

/-- A list in rising order of a number, equal ones as they stood. -/
def sortOn {α : Type} (f : α → Nat) (xs : List α) : List α := xs.foldl (fun ys x => insertOn f x ys) []

/-- The number little-endian bytes stand for (R6). -/
def natOfBytes : List Byte → Nat
  | [] => 0
  | b :: bs => b.toNat + 256 * natOfBytes bs

/-- A little-endian number of n bytes in memory (R6). -/
def Memory.num (m : Memory) (k n : Nat) : Nat := natOfBytes (m.bytes k n)

/-- The n little-endian bytes of a number (R6). -/
def bytesLE : Nat → Nat → List Byte
  | 0, _ => []
  | n + 1, x => BitVec.ofNat 8 x :: bytesLE n (x / 256)

/-- Stores a little-endian number of n bytes. -/
def Memory.setNum (m : Memory) (k n x : Nat) : Memory := m.setBytes k (bytesLE n x)

end Sys2Proof
end

