-- ==== Sys2Proof/Syntax.lean ====
section
/-! DEFINITION. The whole syntax of the machine's steps: one constructor of `Instr` for every row of the table of
operations and events. A Dreoth instruction carries the fields of its words (R342, R345, R347, R348). Every other
step of the machine (an event) has no words: which unit it befalls and what arrives with it stand in `Input`, which
the machine's state holds while the event is taken. -/

namespace Sys2Proof

/-- The element types of R352; code 12 (`.F64`) is no type of any form. -/
inductive Ty where
  | none | i8 | i16 | i32 | i64 | n8 | n16 | n32 | n64 | f16 | bf16 | f32
  | e4m3 | e5m2 | e3m2 | e2m3 | e2m1 | f16x2 | bf16x2 | e4m3x4 | e5m2x4
  deriving DecidableEq, Repr

/-- What follows the base word (R339, R345, R347, R348). -/
inductive Ext where
  /-- nothing: LEN 0b00 -/
  | one
  /-- a face word (R345): the enables and face Y's operand set -/
  | face (xen yen : Bool) (d a b c : BitVec 8) (imm : BitVec 16)
  /-- an extension word (R347): tile predicate and PARAM -/
  | extn (tpe : Bool) (treg : BitVec 3) (tbit : BitVec 6) (param : BitVec 50)
  /-- three payload words (R348): the 180-bit payload -/
  | quad (p : BitVec 180)
  deriving DecidableEq, Repr

/-- The fields of one Dreoth instruction (R342). Operand fields hold register numbers (R351); fields B and C
together are IMM16 in an immediate form. MOD is read by family (R354). -/
structure Op where
  seam : BitVec 2
  gp   : BitVec 3
  gi   : Bool
  ty   : Ty
  d    : BitVec 8
  a    : BitVec 8
  b    : BitVec 8
  c    : BitVec 8
  mod  : BitVec 9
  ext  : Ext
  deriving DecidableEq, Repr

/-- The parties a register access comes from (R66). -/
inductive Party where
  | portA | portB | firmware
  deriving DecidableEq, Repr

/-- The device registers named by the spec. A register of which the device has several is indexed. -/
inductive RegName where
  | pwrVcl | pwrVtail | clkClf | pwrCstat | cxaCad | pwrPlim | pwrGatecnt | pwrRstat | clkRefstat
  | clkGtctl | clkGtstat
  | hbmTctl | hbmTstat | hbmCecnt
  | uciPctl | uciPstat | uciSbdrop | uciBadop
  | cxlReqto | cxlLate
  | cplrPctl | cplrPstat | cplrVlthr | cplrBadft | cplrBadop | cplrOvfl | cplrLate | cplrE2eto
  | fwcBstat | fwcBgo | fwcWdog | fwcMext | fwcMextgo | fwcSem | fwcSemrel | fwcSemerr
  | queCtl | queIstat | queQuant | queHead | queGo | queBase | queCbase
  | dspLmap | hbmShort
  | xltRootl | xltRoots | xltRoot5 | xltRoot6 | xltHring | xltHvec | xltHhead | xltPfto | xltSlstat | xltStat
  | xltEpoch | xltQcnt
  | dspStallto | dspRsvto | dspLead | dspFragcnt | dspSpbase | dspSpsize
  | fwcElog | fwcElvec | fwcElhead | fwcEllost
  | fidErr | fidInj
  | dbgLclo | dbgLchi | dbgLca | dbgLcd | dbgLcp | dbgLcx | dbgLcidle
  | evcSel | evcCnt | evcStat
  | dbgWpa | dbgWpm | dbgWctl | dbgWpv | dbgWpvm | dbgWstat | dbgWhpc | dbgWhid | dbgWhgt | dbgWhd
  | dbgTrbase | dbgTrsz | dbgTrctl | dbgTrhead | dbgTrlost
  | dbgStopc | dbgStopt
  | fwcMeas | clkVfmin
  /-- row n of the power table (R45, log entry 15) -/
  | pwrTable
  deriving DecidableEq, Repr

/-- What a host RD or WR names (R17): a device register, or the device-memory window by VA. -/
inductive HostTarget where
  | reg (r : RegName) (i : Nat)
  | mem (va : DWord)
  deriving DecidableEq, Repr

/-- The temperature sensors of R53. Cores and arrays are numbered over the package. -/
inductive Sensor where
  | core (n : Nat) | array (cl : Nat) | stack (n : Nat) | bank (die b : Nat)
  deriving DecidableEq, Repr

/-- One sensor reading in degrees Celsius. -/
structure Reading where
  sensor  : Sensor
  celsius : Nat
  deriving DecidableEq, Repr

/-- A launch is known pod-wide by its pod relay's package and sequence number there (R143). -/
structure LaunchId where
  pod : Nat
  seq : Nat
  deriving DecidableEq, Repr

/-- The 128-byte launch record (R123), word by word. -/
structure LaunchRec where
  ctl    : DWord
  dims   : List Word
  span   : Word
  lbase  : DWord
  feat   : DWord
  res    : DWord
  wsmask : DWord
  entry  : DWord
  arg    : DWord
  cblk   : DWord
  graph  : Word
  phase  : Word
  job    : Word
  place  : Word
  seed   : DWord
  clist  : DWord
  rsvd   : BitVec 64
  deriving DecidableEq, Repr

/-- The reasons of a no at reserve, highest rank first (R136). -/
inductive NoReason where
  | perm | noplace | nogang
  deriving DecidableEq, Repr

/-- The statuses a LAUNCH returns (R141). -/
inductive LaunchStatus where
  | committed | nogang | badrec | perm | noplace | cancelled
  deriving DecidableEq, Repr

/-- Reserve, from the pod relay to a package relay (R134, R135). -/
structure ReserveMsg where
  key   : LaunchId
  record : LaunchRec
  rsvto : Nat
  prevS : Nat
  deriving DecidableEq, Repr

/-- A package relay's answer to the pod relay (R134, R136). -/
structure AnswerMsg where
  key   : LaunchId
  pkg   : Nat
  cores : Nat
  no    : Option NoReason
  deriving DecidableEq, Repr

/-- Commit, with the start tick and the range dealt to the package (R137, R140). -/
structure CommitMsg where
  key : LaunchId
  s   : Nat
  lo  : Nat
  hi  : Nat
  deriving DecidableEq, Repr

/-- The levels of the relay chain (R133). -/
inductive RelayLevel where
  | die | package | pod
  deriving DecidableEq, Repr

/-- Accounted tiles by their end state (R151). -/
structure TileCounts where
  retired   : Nat
  never     : Nat
  cancelled : Nat
  deriving DecidableEq, Repr

/-- The 64-byte fault record, field by field (R188). -/
structure FaultRecord where
  code   : BitVec 8
  flags  : BitVec 8
  mdepth : BitVec 8
  stat   : BitVec 8
  gid    : BitVec 16
  depth  : BitVec 16
  pc     : DWord
  lanes  : Word
  aux    : Word
  addr   : DWord
  gtick  : DWord
  tile   : DWord
  die    : BitVec 8
  lcore  : BitVec 8
  pcore  : BitVec 8
  engine : BitVec 16
  job    : Word
  deriving DecidableEq, Repr

/-- The two ports of a cluster array (R269). -/
inductive ArrayPort where
  | load | stream
  deriving DecidableEq, Repr

/-- What a watchpoint hit records (R305). -/
structure WatchHit where
  srck  : BitVec 3
  lanes : Word
  pc    : DWord
  hid   : DWord
  gtick : DWord
  value : DWord
  deriving DecidableEq, Repr

/-- The fuses a command may blow (R63). -/
inductive Fuse where
  | revoke (slot : Nat)
  | svn (bit : Nat)
  deriving DecidableEq, Repr

/-- What arrives with an event that its plain slots do not hold. -/
inductive Msg where
  | none
  | writers (ps : List Party)
  | readings (rs : List Reading)
  | bandwidth (avail : List Nat) (demand : List (List Nat))
  | target (t : HostTarget)
  | reserve (m : ReserveMsg)
  | answer (m : AnswerMsg)
  | commit (m : CommitMsg)
  | level (l : RelayLevel)
  | counts (c : TileCounts)
  | fault (r : FaultRecord)
  | hit (h : WatchHit)
  | fuse (f : Fuse)
  | banks (mask : DWord)
  /-- another package's cancel by kind and identifier, within a job where one is given; the answer to such a question, and the end of
  that cancel (R150; log entry 106) -/
  | cancelBy (token kind ident : Nat) (job : Option Nat)
  | cancelled (token never : Nat)
  | cancelOver (token : Nat)
  deriving DecidableEq, Repr

/-- The operands of an event: who acts, up to three numbers (the unit it befalls first), a value, a choice, bytes,
a register name, a launch, an array port, and what else arrives. Each event's docstring says which slots it reads. -/
structure Input where
  who   : Party := .firmware
  n     : Nat := 0
  m     : Nat := 0
  k     : Nat := 0
  v     : DWord := 0
  on    : Bool := false
  bytes : List Byte := []
  reg   : RegName := .pwrVcl
  key   : LaunchId := { pod := 0, seq := 0 }
  port  : ArrayPort := .load
  msg   : Msg := .none
  deriving DecidableEq, Repr

/-- The steps of the machine: the Dreoth instructions first, each with its fields, then the events, whose operands
stand in `Input`. -/
inductive Instr where
  /-- NOP (R364): No operation; only LEN and SEAM are decoded. -/
  | nop (o : Op)
  /-- BRA (R372): Uniform branch to PC + 8 × IMM16 when every lane is guarded in. -/
  | bra (o : Op)
  /-- BRA_D (R373): Divergent branch pushing a kind-0 frame when lanes disagree. -/
  | braD (o : Op)
  /-- JMPI (R375): Uniform indirect jump to a PAD with a matching tag. -/
  | jmpi (o : Op)
  /-- JOIN (R374): The path reaches J of a kind-0 top frame. -/
  | join (o : Op)
  /-- CALL (R378): Call with per-face targets, melded or unmelding. -/
  | call (o : Op)
  /-- CALLI (R378): Indirect call with PAD check per face. -/
  | calli (o : Op)
  /-- RET (R379): Return by popping a return entry or reaching J of an unmeld frame. -/
  | ret (o : Op)
  /-- PAD (R376): Landing pad declaring a tag; executes as NOP. -/
  | pad (o : Op)
  /-- EXIT (R389): Ends the active lanes, and the group exits when no path remains. -/
  | exit (o : Op)
  /-- LOOP (R386): Enters a counted loop with a kind-6 frame, or skips it. -/
  | loop (o : Op)
  /-- LEND (R386): Ends one trip of a counted loop. -/
  | lend (o : Op)
  /-- MELD (R381): Opens a nested meld region splitting lanes into faces. -/
  | meld (o : Op)
  /-- ENDM (R382): Closes the innermost meld region. -/
  | endm (o : Op)
  /-- MLOOP (R384): Opens a meld loop with a kind-3 frame. -/
  | mloop (o : Op)
  /-- MNEXT (R385): Ends one trip of a meld loop per face. -/
  | mnext (o : Op)
  /-- PAND (R387): Predicate AND. -/
  | pand (o : Op)
  /-- POR (R387): Predicate OR. -/
  | por (o : Op)
  /-- PXOR (R387): Predicate XOR. -/
  | pxor (o : Op)
  /-- PANDN (R387): Predicate AND NOT. -/
  | pandn (o : Op)
  /-- PNOT (R387): Predicate NOT. -/
  | pnot (o : Op)
  /-- PMOV (R387): Predicate move. -/
  | pmov (o : Op)
  /-- PFROM (R387): Predicate from non-zero lane values. -/
  | pfrom (o : Op)
  /-- PTO (R387): Predicate to 0 or 1 lane values. -/
  | pto (o : Op)
  /-- VOTE_ALL (R388): All-lanes vote within each face. -/
  | voteAll (o : Op)
  /-- VOTE_ANY (R388): Any-lane vote within each face. -/
  | voteAny (o : Op)
  /-- VOTE_UNI (R388): Uniformity vote within each face. -/
  | voteUni (o : Op)
  /-- BALLOT (R388): Mask of lanes with the predicate set, per face. -/
  | ballot (o : Op)
  /-- PCNT (R388): Count of lanes with the predicate set, per face. -/
  | pcnt (o : Op)
  /-- PFIRST (R388): Lowest lane with the predicate set, or 32. -/
  | pfirst (o : Op)
  /-- TRAP (R390): Raises the TRAP fault with AUX n in any guarded-in lane. -/
  | trap (o : Op)
  /-- YIELD (R390): Ends the path slot's turn. -/
  | yield (o : Op)
  /-- SLEEP (R390): Parks the group for n REFTICKs. -/
  | sleep (o : Op)
  /-- BRK (R310): Sets the stop target to GTICK + 4,096 when armed, otherwise raises BREAK. -/
  | brk (o : Op)
  /-- ADD (R400): Integer add with WRAP or SAT; affine forms allowed. -/
  | add (o : Op)
  /-- SUB (R400): Integer subtract. -/
  | sub (o : Op)
  /-- MUL (R400): Integer multiply. -/
  | mul (o : Op)
  /-- MULH (R400): Upper half of the integer product. -/
  | mulh (o : Op)
  /-- MAD (R400): Integer multiply-add, rounded once. -/
  | mad (o : Op)
  /-- SHA (R400): Shift right by k and add. -/
  | sha (o : Op)
  /-- DIV (R401): Integer divide truncating towards zero. -/
  | div (o : Op)
  /-- REM (R401): Integer remainder with the sign of x. -/
  | rem (o : Op)
  /-- MIN (R400): Integer minimum. -/
  | min (o : Op)
  /-- MAX (R400): Integer maximum. -/
  | max (o : Op)
  /-- ABS (R400): Integer absolute value. -/
  | abs (o : Op)
  /-- NEG (R400): Integer negation. -/
  | neg (o : Op)
  /-- CLAMP (R400): Integer clamp between y and z. -/
  | clamp (o : Op)
  /-- AND (R400): Bitwise AND. -/
  | andd (o : Op)
  /-- OR (R400): Bitwise OR. -/
  | orr (o : Op)
  /-- XOR (R400): Bitwise XOR. -/
  | xorr (o : Op)
  /-- NOT (R400): Bitwise NOT. -/
  | nott (o : Op)
  /-- ANDN (R400): Bitwise AND NOT. -/
  | andn (o : Op)
  /-- SHL (R402): Shift left by K or a register count. -/
  | shl (o : Op)
  /-- SHR (R402): Logical shift right. -/
  | shr (o : Op)
  /-- SAR (R402): Arithmetic shift right. -/
  | sar (o : Op)
  /-- ROL (R402): Rotate left. -/
  | rol (o : Op)
  /-- BFX (R403): Bit-field extract. -/
  | bfx (o : Op)
  /-- BFI (R403): Bit-field insert. -/
  | bfi (o : Op)
  /-- POPC (R403): Population count. -/
  | popc (o : Op)
  /-- CLZ (R403): Count leading zeros. -/
  | clz (o : Op)
  /-- BREV (R403): Bit reverse. -/
  | brev (o : Op)
  /-- CMP (R404): Integer compare to a predicate. -/
  | cmp (o : Op)
  /-- SEL (R404): Select by predicate. -/
  | sel (o : Op)
  /-- MOV (R404): Move a register or immediate. -/
  | mov (o : Op)
  /-- SHFL_IDX (R405): Shuffle by index within the face. -/
  | shflIdx (o : Op)
  /-- SHFL_UP (R405): Shuffle up by n. -/
  | shflUp (o : Op)
  /-- SHFL_DN (R405): Shuffle down by n. -/
  | shflDn (o : Op)
  /-- SHFL_XOR (R405): Butterfly shuffle by XOR. -/
  | shflXor (o : Op)
  /-- BCAST (R405): Broadcast the lowest active lane of each face. -/
  | bcast (o : Op)
  /-- PRMT (R405): Byte permute. -/
  | prmt (o : Op)
  /-- DOT4 (R405): Four-way 8-bit dot product with accumulate. -/
  | dot4 (o : Op)
  /-- LANE (R405): Writes A + l × B per lane, or an affine register. -/
  | lane (o : Op)
  /-- RDLANE (R405): Reads a fixed lane into every active lane. -/
  | rdlane (o : Op)
  /-- WRLANE (R405): Writes only lane k if active. -/
  | wrlane (o : Op)
  /-- FADD (R407): Float add. -/
  | fadd (o : Op)
  /-- FSUB (R407): Float subtract. -/
  | fsub (o : Op)
  /-- FMUL (R407): Float multiply. -/
  | fmul (o : Op)
  /-- FMA (R407): Fused multiply-add. -/
  | fma (o : Op)
  /-- FMIN (R408): Float minimum. -/
  | fmin (o : Op)
  /-- FMAX (R408): Float maximum. -/
  | fmax (o : Op)
  /-- FABS (R408): Float absolute value. -/
  | fabs (o : Op)
  /-- FNEG (R408): Float negation. -/
  | fneg (o : Op)
  /-- FCMP (R408): Float compare to a predicate. -/
  | fcmp (o : Op)
  /-- FCLASS (R408): Float classification. -/
  | fclass (o : Op)
  /-- FSGN (R408): Magnitude of x with the sign of y. -/
  | fsgn (o : Op)
  /-- FLDX (R407): Multiply by 2^n. -/
  | fldx (o : Op)
  /-- FRND (R407): Round to an integral float. -/
  | frnd (o : Op)
  /-- FDOT2 (R407): Two-element dot product with F32 accumulate. -/
  | fdot2 (o : Op)
  /-- RCP (R409): Correctly rounded reciprocal. -/
  | rcp (o : Op)
  /-- RSQ (R409): Correctly rounded reciprocal square root. -/
  | rsq (o : Op)
  /-- SQRT (R409): Correctly rounded square root. -/
  | sqrt (o : Op)
  /-- EXP2 (R409): Correctly rounded 2^x. -/
  | exp2 (o : Op)
  /-- LOG2 (R409): Correctly rounded log2. -/
  | log2 (o : Op)
  /-- TANH (R409): Correctly rounded tanh. -/
  | tanh (o : Op)
  /-- CVT (R411): Float-to-float conversion, unscaled. -/
  | cvt (o : Op)
  /-- CVTI (R411): Conversion to integer. -/
  | cvti (o : Op)
  /-- CVTF (R411): Integer-to-float conversion. -/
  | cvtf (o : Op)
  /-- CVTS (R411): Scaled conversion to a narrow format. -/
  | cvts (o : Op)
  /-- CVTD (R411): Decoding conversion from a narrow format with metadata. -/
  | cvtd (o : Op)
  /-- PACK (R413): Packs rounded elements. -/
  | pack (o : Op)
  /-- UNPK (R413): Unpacks one element to F32. -/
  | unpk (o : Op)
  /-- SCALE (R414): Computes a block metadata word from a maximum magnitude. -/
  | scale (o : Op)
  /-- VAMAX (R417): Largest magnitude over each face. -/
  | vamax (o : Op)
  /-- SPSEL (R415): Places the E2M1 spare code where it is nearer. -/
  | spsel (o : Op)
  /-- REDADD (R416): Fixed-tree add reduction per face. -/
  | redadd (o : Op)
  /-- REDMIN (R416): Minimum reduction per face. -/
  | redmin (o : Op)
  /-- REDMAX (R416): Maximum reduction per face. -/
  | redmax (o : Op)
  /-- REDAND (R416): AND reduction per face. -/
  | redand (o : Op)
  /-- REDOR (R416): OR reduction per face. -/
  | redor (o : Op)
  /-- REDXOR (R416): XOR reduction per face. -/
  | redxor (o : Op)
  /-- LD (R424): Load from global memory or scratch, optionally acquire. -/
  | ld (o : Op)
  /-- ST (R425): Store to global memory or scratch, optionally release. -/
  | st (o : Op)
  /-- GATH (R424): Per-lane gather through the depot. -/
  | gath (o : Op)
  /-- SCAT (R425): Per-lane scatter through the depot. -/
  | scat (o : Op)
  /-- PRF (R428): Prefetch lines into the L1. -/
  | prf (o : Op)
  /-- LDU (R424): Uniform load at one address. -/
  | ldu (o : Op)
  /-- LDT (R427): Loads n whole registers from scratch. -/
  | ldt (o : Op)
  /-- STT (R427): Stores n whole registers to scratch. -/
  | stt (o : Op)
  /-- AADD (R430): Atomic add at the home. -/
  | aadd (o : Op)
  /-- AMIN (R430): Atomic minimum. -/
  | amin (o : Op)
  /-- AMAX (R430): Atomic maximum. -/
  | amax (o : Op)
  /-- AAND (R430): Atomic AND. -/
  | aand (o : Op)
  /-- AOR (R430): Atomic OR. -/
  | aor (o : Op)
  /-- AXOR (R430): Atomic XOR. -/
  | axor (o : Op)
  /-- AXCH (R430): Atomic exchange. -/
  | axch (o : Op)
  /-- ACAS (R430): Atomic compare-and-swap. -/
  | acas (o : Op)
  /-- AMAXR (R433): Atomic read-and-reset of a maximum. -/
  | amaxr (o : Op)
  /-- FENCE (R434): Release then acquire at the named scope. -/
  | fence (o : Op)
  /-- CBAR (R437): Initialises a barrier object as a release. -/
  | cbar (o : Op)
  /-- ARRIVE (R437): One release arrival on a barrier object. -/
  | arrive (o : Op)
  /-- WAITP (R437): Waits for a phase completion of a barrier object, then acquires. -/
  | waitp (o : Op)
  /-- ARWT (R437): Arrives and waits on a barrier object. -/
  | arwt (o : Op)
  /-- BAR_BLK (R439): Hardware barrier of every live group of the block. -/
  | barBlk (o : Op)
  /-- BAR_CLU (R440): Counted cluster barrier k of the launch. -/
  | barClu (o : Op)
  /-- WAITN (R435): Parks until an engine class counter is at most n. -/
  | waitn (o : Op)
  /-- WAITMEM (R441): Waits until a memory word meets its condition. -/
  | waitmem (o : Op)
  /-- MILE (R442): Reads a copy channel milestone with a blk acquire. -/
  | mile (o : Op)
  /-- INVL1 (R443): Invalidates the core's L1. -/
  | invl1 (o : Op)
  /-- MSTAT (R452): Loads the SHADOW plane from scratch or the weight store. -/
  | mstat (o : Op)
  /-- MSWAP (R453): Swaps planes when the block owns SHADOW. -/
  | mswap (o : Op)
  /-- MSWAP_REL (R453): Frees every plane the block owns. -/
  | mswapRel (o : Op)
  /-- MSTREAM (R454): Streams A rows through the ACTIVE plane into an accumulator tile. -/
  | mstream (o : Op)
  /-- MDRAIN (R455): Drains rounded accumulators to scratch or registers. -/
  | mdrain (o : Op)
  /-- MDRAIN_FOLD (R455): Folds tails, then drains. -/
  | mdrainFold (o : Op)
  /-- MFOLD (R455): Folds tails into accumulators over a range. -/
  | mfold (o : Op)
  /-- MZERO (R455): Zeroes accumulators and tails over a range. -/
  | mzero (o : Op)
  /-- QMMA (R457): Quarter matrix multiply-accumulate into an m register. -/
  | qmma (o : Op)
  /-- QMOV (R458): Moves rounded m accumulators to general registers. -/
  | qmov (o : Op)
  /-- QZERO (R458): Zeroes an m register in the acting quarters. -/
  | qzero (o : Op)
  /-- QFOLD (R458): Folds an m register's tails. -/
  | qfold (o : Op)
  /-- COPY (R461): Queues a fetch, spill, neighbour or weight copy descriptor on a channel. -/
  | copy (o : Op)
  /-- COPYR (R462): Spill copy reducing into global memory at the home. -/
  | copyr (o : Op)
  /-- NEST (R464): Runs an element-wise operation over a nested scratch iteration space. -/
  | nest (o : Op)
  /-- LBUF (R466): Executes the following body trip times with register renaming. -/
  | lbuf (o : Op)
  /-- MPATH (R469): Starts the merge-path unit on a CSR row pointer. -/
  | mpath (o : Op)
  /-- BMAP (R471): Decodes a bitmap tile into dense scratch rows. -/
  | bmap (o : Op)
  /-- BPACK (R472): Packs dense rows into a bitmap tile. -/
  | bpack (o : Op)
  /-- TSET (R473): Sets a tile predicate from an s pair. -/
  | tset (o : Op)
  /-- TAND (R473): Tile predicate AND. -/
  | tand (o : Op)
  /-- TOR (R473): Tile predicate OR. -/
  | tor (o : Op)
  /-- TNOT (R473): Tile predicate NOT. -/
  | tnot (o : Op)
  /-- TMOV (R473): Tile predicate move. -/
  | tmov (o : Op)
  /-- LAUNCH (R474): Issues a launch from a group after a pkg release and parks until commit or end. -/
  | launch (o : Op)
  /-- LWAIT (R476): Waits for or polls a completion block's DONE bit. -/
  | lwait (o : Op)
  /-- LCANCEL (R477): Cancels launches of the issuing job by record or identifier. -/
  | lcancel (o : Op)
  /-- HITCH (R478): Register-donation rendezvous between two groups. -/
  | hitch (o : Op)
  /-- RDSR (R479): Reads a named control value. -/
  | rdsr (o : Op)
  /-- WRSR (R479): Writes a named control value, such as LWIN. -/
  | wrsr (o : Op)
  /-- FEAT (R481): Reads the die's feature mask. -/
  | feat (o : Op)
  /-- POWER_ON_RESET (R61): Power-on reset releases the control core into the boot ROM, which measures the ROM, trains the UCIe ports and reads or waits for the firmware image. -/
  | powerOnReset
  /-- BOOT_GO (R61): A host write of 1 to FWC_BGO in host-load mode makes the ROM check the host-loaded image. Operands: who, v. -/
  | bootGo
  /-- MEASUREMENT_EXTEND (R64): A control-core write to FWC_MEXTGO replaces measurement register n with SHA-512 of its old value and the 64 bytes in FWC_MEXT. Operands: who, n in v. -/
  | measurementExtend
  /-- FWC_WDOG_WRITE (R60): A write to a firmware watchdog reloads its REFTICK count, or disables it with zero. Operands: who, n, v. -/
  | fwcWdogWrite
  /-- SERVICE_WATCHDOG_EXPIRY (R60): A service-core watchdog expires, so that core alone is reset and restarts while the control core is interrupted. Operands: n. -/
  | serviceWatchdogExpiry
  /-- CONTROL_WATCHDOG_EXPIRY (R60): The control-core watchdog expires, so the firmware complex stops taking commands, sets WDOG and PHASE 15, and interrupts both control ports. -/
  | controlWatchdogExpiry
  /-- SEMAPHORE_ACQUIRE (R66): A write of ACQ = 1 to FWC_SEMn gives the semaphore to the writer if it is free and acquisition is allowed, using the cyclic tie-break of R67. Operands: n, writers in msg. -/
  | semaphoreAcquire
  /-- SEMAPHORE_RELEASE (R66): A write to FWC_SEMREL frees each named semaphore that the writer owns, and sets NOTOWN for a release by anyone else. Operands: who, mask in v. -/
  | semaphoreRelease
  /-- REGISTER_WRITE (R7): A write to a device register that has no row of its own sets its RW fields, clears its W1C bits and is checked against semaphore guards. Operands: who, r in reg, i in n, v. -/
  | registerWrite
  /-- REGISTER_READ_CLEAR (R7): A read of an RC field returns its value and clears it to zero in the same access. Operands: who, r in reg, i in n. -/
  | registerReadClear
  /-- PWR_VCL_WRITE (R41): A write of the cluster VCL target is accepted only while the cluster is idle and R39, R40 and CLK_VFMIN allow it, and otherwise sets CFGERR; equal tail targets follow it. Operands: who, cl in n, v. -/
  | pwrVclWrite
  /-- PWR_VTAIL_WRITE (R41): A write of the three tail-rail targets is accepted only while idle and within R39 and R40, and otherwise sets CFGERR. Operands: who, cl in n, v. -/
  | pwrVtailWrite
  /-- CLK_CLF_WRITE (R43): A write of FMUL while idle, in range and above CLK_VFMIN stops the cluster clock for relock; any other write sets CFGERR. Operands: who, cl in n, v. -/
  | clkClfWrite
  /-- PWR_CSTAT_HOLD_WRITE (R44): A write of HOLD stops or allows new placement on the cluster. Operands: who, cl in n, v. -/
  | pwrCstatHoldWrite
  /-- CXA_CAD_WRITE (R50): A write of the firmware cadence takes effect at the next A-row boundary, or sets CFGERR when it is out of range. Operands: who, cl in n, v. -/
  | cxaCadWrite
  /-- PWR_PLIM_WRITE (R52): A write of the die power limit acts from the limiter's next comparison, or sets CFGERR in every cluster of the die when it is out of range. Operands: who, die in n, v. -/
  | pwrPlimWrite
  /-- GTICK_START (R49): Writing RUN = 1 to CLK_GTCTL starts the package GTICK counter; later writes have no effect. Operands: who, v. -/
  | gtickStart
  /-- REGULATOR_SLEW_DONE (R42): The rails of a cluster reach their targets after slewing at 0.5 mV per REFTICK, and BUSY clears. Operands: cl in n. -/
  | regulatorSlewDone
  /-- PLL_LOCK (R44): The cluster PLL locks at the new FMUL, LOCK is set and the cluster clock runs again. Operands: cl in n. -/
  | pllLock
  /-- POWER_LIMITER_TICK (R51): Every 10 REFTICKs the die limiter compares estimated power with PWR_PLIM and raises or lowers LIM in the busy clusters. Operands: die in n, estimate in m. -/
  | powerLimiterTick
  /-- SUPPLY_DROOP (R51): A supply droop detected on a cluster's VCL sets that cluster's LIM to 16 at once. Operands: cl in n. -/
  | supplyDroop
  /-- SENSOR_SAMPLE (R53): Every 100 REFTICKs the temperature sensors are sampled and compared with the thermal thresholds. Operands: readings in msg. -/
  | sensorSample
  /-- MIGRATION_RETRY (R54): A pending migration request with no target is retried every 1,000 REFTICKs. Operands: core in n. -/
  | migrationRetry
  /-- BANDWIDTH_INTERVAL (R86): Every 10,000 REFTICKs the firmware computes AVAIL for each stack, scales the partition shares and counts shortfalls in HBM_SHORTj. Operands: avail in msg, demand in msg. -/
  | bandwidthInterval
  /-- HBM_STACK_RESET (R70): A write of HBM_TCTL with RSTN takes the stack out of reset, and RSTDONE is set when it is done. Operands: who, st in n, v. -/
  | hbmStackReset
  /-- HBM_CA_TRAINING (R70): GO with MODE 1 starts command/address training of the stack. Operands: who, st in n. -/
  | hbmCaTraining
  /-- HBM_LANE_REPAIR (R70): GO with MODE 2 starts the lane test and repairs lanes with redundant lanes. Operands: who, st in n. -/
  | hbmLaneRepair
  /-- HBM_READ_TRAINING (R70): GO with MODE 3 starts read DQ and read-strobe training. Operands: who, st in n. -/
  | hbmReadTraining
  /-- HBM_WRITE_TRAINING (R70): GO with MODE 4 starts write DQ and write-strobe training. Operands: who, st in n. -/
  | hbmWriteTraining
  /-- HBM_VREF_SWEEP (R70): GO with MODE 5 starts the VREF sweep. Operands: who, st in n. -/
  | hbmVrefSweep
  /-- HBM_OPERATIONAL (R70): GO with MODE 8 makes the stack operational and READY is set; any other mode is refused with BADMODE. Operands: who, st in n, mode in v. -/
  | hbmOperational
  /-- HBM_TRAINING_STEP_DONE (R70): A training step ends, BUSY clears and PASS records its outcome. Operands: st in n, pass in on, repaired in m. -/
  | hbmTrainingStepDone
  /-- UCIE_PORT_ENABLE (R72): A firmware write of UCI_PCTL.EN = 1 trains the UCIe port afresh. Operands: who, port in n. -/
  | uciePortEnable
  /-- UCIE_PORT_RESET (R72): A firmware write of UCI_PCTL.EN = 0 takes the port to RESET and frees its semaphores with BROKEN set. Operands: who, port in n. -/
  | uciePortReset
  /-- UCIE_TRAINING_DONE (R71): UCIe link training ends in ACTIVE, possibly on one module, or fails and sets DOWN; held interrupts for the port are then sent. Operands: port in n, mods in v. -/
  | ucieTrainingDone
  /-- UCIE_LINK_DOWN (R69): A control port leaves its active state, so its semaphores are freed with BROKEN = 1 and its in-flight writes are discarded. Operands: port in n. -/
  | ucieLinkDown
  /-- UCIE_SIDEBAND_MESSAGE (R16): A UCIe sideband message arrives, and a vendor-defined one is discarded and counted in UCI_SBDROP. Operands: port in n, vendor in on. -/
  | ucieSidebandMessage
  /-- UCIE_UNKNOWN_MESSAGE (R17): A UCIe streaming message with an opcode not used on UCIe is discarded and counted in UCI_BADOP. Operands: port in n, opc in v. -/
  | ucieUnknownMessage
  /-- HOST_RD (R17): A host RD message reads a device register or the mapped device-memory window and is answered with RSP or ERR. Operands: port in n, tag in m, target in msg, len in k. -/
  | hostRd
  /-- HOST_WR (R17): A host WR message writes a device register or device memory in arrival order and is answered with ACK or ERR. Operands: port in n, tag in m, target in msg, data in bytes. -/
  | hostWr
  /-- HOST_WAKE (R18): A host WAKE stores a tail value into a wake-table entry and makes the queue engine re-read that queue. Operands: port in n, q in m, tail in v. -/
  | hostWake
  /-- CXL_RESPONSE (R21): A CXL expander completion arrives; poisoned data takes the uncorrectable path, and a completion after time-out is discarded and counted in CXL_LATE. Operands: id in n, poisoned in on. -/
  | cxlResponse
  /-- CXL_REQUEST_TIMEOUT (R21): An expander request not completed within CXL_REQTO REFTICKs completes with ERR TIMEOUT. Operands: id in n. -/
  | cxlRequestTimeout
  /-- CPLR_PORT_ENABLE (R23): A write of CPLR_PCTL.EN = 1 moves a DISABLED Coupler port to DETECT and enables its transmitters. Operands: who, k in n. -/
  | cplrPortEnable
  /-- CPLR_PORT_DISABLE (R23): A write of CPLR_PCTL.EN = 0 takes the port to DISABLED and abandons its unacknowledged flits under R35. Operands: who, k in n. -/
  | cplrPortDisable
  /-- CPLR_LOOPBACK (R73): A write of CPLR_PCTL.LOOP selects near-end loopback, in which the port never leaves CONFIG. Operands: who, k in n, on. -/
  | cplrLoopback
  /-- CPLR_VLTHR_WRITE (R32): A write of the per-VL stop thresholds is accepted only while the port is DISABLED with values 2 to 80, and otherwise sets CFGERR. Operands: who, k in n, v. -/
  | cplrVlthrWrite
  /-- CPLR_RECEIVER_DETECT (R23): Receivers are detected on at least 4 lanes, and the port moves to POLL and sends the training pattern. Operands: k in n, lanes in v. -/
  | cplrReceiverDetect
  /-- CPLR_DETECT_TIMEOUT (R23): After 100,000 REFTICKs in DETECT the port returns to DISABLED and sets TOUT. Operands: k in n. -/
  | cplrDetectTimeout
  /-- CPLR_BIT_LOCK (R23): Bit lock on all detected lanes moves the port from POLL to ALIGN. Operands: k in n. -/
  | cplrBitLock
  /-- CPLR_DESKEW (R23): Lanes deskewed within 32 UI move the port from ALIGN to EQUAL. Operands: k in n. -/
  | cplrDeskew
  /-- CPLR_EQUALISED (R23): Equaliser convergence with a BER estimate at or below 1e-8 moves the port to CONFIG and chooses width 8 or 4. Operands: k in n, lanes in v. -/
  | cplrEqualised
  /-- CPLR_IDENTITY_EXCHANGE (R36): Identity is exchanged in CONFIG; a passed plane check makes the port ACTIVE with SEQ reset, and a failed one disables it with PLANE set. Operands: k in n, number in m. -/
  | cplrIdentityExchange
  /-- CPLR_LOSS_OF_LOCK (R23): Loss of lock, or the replay limit being reached, moves an ACTIVE port to RETRAIN with all VLs stopped. Operands: k in n. -/
  | cplrLossOfLock
  /-- CPLR_RETRAIN_DONE (R23): EQUAL and CONFIG are passed again within 50,000 REFTICKs, the port returns to ACTIVE and replays every unacknowledged flit. Operands: k in n. -/
  | cplrRetrainDone
  /-- CPLR_RETRAIN_TIMEOUT (R23): A retrain times out, or the fourth retrain falls within 1e7 REFTICKs, and the port is disabled under R35. Operands: k in n. -/
  | cplrRetrainTimeout
  /-- DATA_FLIT_SEND (R27): A port sends a data flit with the next SEQ, stores it for replay and obeys STOP and replay-buffer room. Operands: k in n, vl in v. -/
  | dataFlitSend
  /-- IDLE_FLIT_SEND (R26): A port with no data flit ready sends an idle flit that carries ACKSEQ and STOP. Operands: k in n. -/
  | idleFlitSend
  /-- FLIT_RECEIVE (R27): A flit arrives; it is CRC-checked, its ACK, NAK and STOP fields are applied, and an in-sequence data flit's messages are accepted or the flit is discarded. Operands: k in n, flit in bytes. -/
  | flitReceive
  /-- GTICK_ALIGN_SEND (R47): Every 2^20 GTICK the timing master sends its count on VL 2. -/
  | gtickAlignSend
  /-- GTICK_ALIGN_RECEIVE (R47): A package receives the master's count, measures the round trip and slews its GTICK rate, updating SYNC and OFFS. Operands: master in n, count in v, trip in m. -/
  | gtickAlignReceive
  /-- HOME_ACCESS (R101): A request reaches its home, which translates it through TLB or walk, checks malformation, placement, permission and capacity, and performs it, parks it, defers it or answers ERR. Operands: id in n. -/
  | homeAccess
  /-- ACCESS_RSP (R33): An RSP completion with data reaches the initiator of an RD or ATOM. Operands: id in n. -/
  | accessRsp
  /-- ACCESS_ACK (R33): An ACK completion reaches the initiator of a WR. Operands: id in n. -/
  | accessAck
  /-- ACCESS_ERR (R33): An ERR completion with a status reaches the initiator and becomes a fault of the group or engine, or the outcome of R494 for a relay or Yeleno engine. Operands: id in n. -/
  | accessErr
  /-- E2E_TIMEOUT (R33): A request without completion within CPLR_E2ETO REFTICKs is declared TIMEOUT by its initiator. Operands: id in n. -/
  | e2eTimeout
  /-- DEFER_RECEIVE (R113): A DEFER from the home places the store, reduction, atomic or copy write in the requesting core's side log. Operands: id in n. -/
  | deferReceive
  /-- SIDE_LOG_REPLAY (R117): A core signalled that a page is no longer absent replays its entries for that page in age order and sends a done marker. Operands: core in n, home in m, page in k. -/
  | sideLogReplay
  /-- REPLAY_DONE_MARKER (R117): A home receives a done marker and, when every marker is in, releases the page's parked requests in arrival order. Operands: core in n, home in m, page in k. -/
  | replayDoneMarker
  /-- PARK_TIMEOUT (R118): A parked request not released within XLT_PFTO REFTICKs fails with PARKTO. Operands: id in n. -/
  | parkTimeout
  /-- SIDE_LOG_TIMEOUT (R118): A side-log entry not replayed within XLT_PFTO is discarded and raises an imprecise SLDISCARD fault. Operands: core in n, slot in m. -/
  | sideLogTimeout
  /-- SIDE_LOG_FULL_TIMEOUT (R116): An instruction waiting at issue for a full side log for XLT_PFTO REFTICKs fails with PARKTO and the group traps. Operands: blk in n, gid in m. -/
  | sideLogFullTimeout
  /-- TLB_WRITEBACK_TIMER (R106): At least every 100,000 REFTICKs a home writes back gathered companion bits by OR. Operands: home in n; with on, every home, for the launch of key. -/
  | tlbWritebackTimer
  /-- EPOCH_ADVANCE (R120): Every 1,024 REFTICKs XLT_EPOCH advances by one. -/
  | epochAdvance
  /-- SIDING_RELEASE (R121): Once XLT_QCNT reaches a frame's stamp the frame leaves the siding, and MAPs and UNMAPs waiting on it proceed. Operands: frame in n. -/
  | sidingRelease
  /-- SHOOTDOWN_INVALIDATE (R108): A pod-scope invalidation message on VL 3 makes every L1 of the package invalidate its lines of the range and acknowledge. Operands: src in n, va in v, count in m. -/
  | shootdownInvalidate
  /-- XLT_ROOT_WRITE (R96): A firmware write of a tree root is accepted only while every launch port is UNBOUND or IDLE, and otherwise sets CFGERR. Operands: who, r in reg, i in n, v. -/
  | xltRootWrite
  /-- XLT_HRING_WRITE (R112): A write sets the page-fault host ring, or is refused with CFGERR when BASE is not zero or a region 6 VA of this package, or SZ is out of range. Operands: who, v. -/
  | xltHringWrite
  /-- XLT_HHEAD_WRITE (R112): The host writes its consumed count, and the firmware writes held page-fault records into slots that are now free. Operands: who, v. -/
  | xltHheadWrite
  /-- FWC_ELOG_WRITE (R192): A write sets the error-log ring, or is refused with CFGERR like XLT_HRING. Operands: who, v. -/
  | fwcElogWrite
  /-- FWC_ELHEAD_WRITE (R192): The host writes its consumed count of error-log entries, which frees slots. Operands: who, v. -/
  | fwcElheadWrite
  /-- QUE_CTL_WRITE (R78): A write to QUE_CTLn binds, changes or unbinds a queue when R78 allows it, and otherwise sets CFGERR. Operands: who, n, v. -/
  | queCtlWrite
  /-- QUE_BASE_WRITE (R76): A write to QUE_BASEn or QUE_CBASEn sets a ring base when R78 allows it and the base lies in regions 0 to 4. Operands: who, n, completion in on, v. -/
  | queBaseWrite
  /-- QUEUE_GO (R77): Writing 1 to QUE_GOn resumes a PAUSED or FAULTED port and reloads its quantum. Operands: who, n, v. -/
  | queueGo
  /-- QUANTUM_EXPIRY (R77): The quantum counter of a RUNNING port reaches 0, and the port pauses with QUANT set. Operands: n. -/
  | quantumExpiry
  /-- QUEUE_READ (R18): The queue engine reads entries from HEAD up to the tail it finds, moving IDLE to RUNNING or to FAULTED for an out-of-range tail. Operands: n. -/
  | queueRead
  /-- COMMAND_START (R80): The queue engine starts the next command in ring order, after FENCE waits, checking PHASE, JOB, priority and semaphores. Operands: n. -/
  | commandStart
  /-- YELENO_LAUNCH (R82): The LAUNCH command hands a launch record to the relays and completes when the launch is done or reserve fails. Operands: cmd in n. -/
  | yelenoLaunch
  /-- GRAPH (R82): The GRAPH command issues an array of launch records in order as one source, under one graph identifier. Operands: cmd in n. -/
  | graph
  /-- WAIT (R82): The WAIT command reads a 64-bit counter at its home until it reaches the target or the limit passes. Operands: cmd in n. -/
  | waitCmd
  /-- WAIT_LIMIT_EXPIRY (R82): A WAIT command's REFTICK limit passes, and it completes with TIMEOUT. Operands: cmd in n. -/
  | waitLimitExpiry
  /-- CANCEL (R150): The CANCEL command cancels every open launch with the given record address or graph, phase or job identifier. Operands: cmd in n. -/
  | cancel
  /-- MAP (R82): The MAP command writes page entries, replacing valid leaves by shoot-down and waiting for sided frames, and releases parked requests. Operands: cmd in n. -/
  | mapCmd
  /-- UNMAP (R121): The UNMAP command invalidates leaves, shoots them down package-wide and puts the frames in the siding. Operands: cmd in n. -/
  | unmapCmd
  /-- HARVEST (R107): The HARVEST command writes back gathered companion bits over a range and counts dirty leaves. Operands: cmd in n. -/
  | harvest
  /-- SHOOTDOWN (R108): The SHOOTDOWN command invalidates home TLB entries and L1 lines of a range at package or pod scope. Operands: cmd in n. -/
  | shootdown
  /-- WLOAD (R83): The WLOAD command copies data into the weight store of the named dies, excluded from launches that name its regions. Operands: cmd in n. -/
  | wload
  /-- QUIESCE_HOLD (R84): The QUIESCE command with hold stops placement on the named dies and completes when no block remains there. Operands: cmd in n. -/
  | quiesceHold
  /-- QUIESCE_RELEASE (R84): The QUIESCE command with release ends the hold at once. Operands: cmd in n. -/
  | quiesceRelease
  /-- PARTITION (R85): The PARTITION command sets, changes or removes a partition's dies and bandwidth shares. Operands: cmd in n. -/
  | partitionCmd
  /-- READ_COUNTERS (R82): The READ-COUNTERS command writes a snapshot of event counters to memory. Operands: cmd in n. -/
  | readCounters
  /-- ATTEST (R65): The ATTEST command passes an SPDM 1.2 request to the responder and writes its response. Operands: cmd in n. -/
  | attest
  /-- DSP_LMAP_WRITE (R89): A firmware write of a logical-to-physical map entry is accepted only while ports are idle, no block is resident and the entry is valid. Operands: who, die in n, i in m, v. -/
  | dspLmapWrite
  /-- LAUNCH_REQUEST (R125): The issuer's package relay receives a launch, takes identifier entries, reads and checks the record, and forwards it to the pod relay. Operands: req in n; a record from another package in bytes, its package in m, its address in v, S of its source in k. -/
  | launchRequest
  /-- RESERVE_START (R134): Once the source's previous launch has committed or ended and no WLOAD conflicts, the pod relay zeroes the completion block and sends reserve. Operands: ln in n; with on, package m has no WLOAD on its banks. -/
  | reserveStart
  /-- PACKAGE_RESERVE (R134): A package relay receives reserve and sends it to the die relays named by DMASK. Operands: m in msg, or before reserve the banks in msg and key. -/
  | packageReserve
  /-- DIE_RESERVE (R134): A die relay reserves one FREE walker context on each eligible core and answers, or withholds its answer while QUIESCE holds. Operands: die in n, key. -/
  | dieReserve
  /-- DIE_ANSWER (R134): A package relay receives a die relay's answer and, when all are in, answers the pod relay yes or no with a reason. Operands: die in n, key. -/
  | dieAnswer
  /-- PACKAGE_ANSWER (R136): The pod relay receives a package answer and, when all are in, commits with start tick S or rolls back. Operands: m in msg. -/
  | packageAnswer
  /-- RESERVE_TIMEOUT (R135): A die, package or pod relay deadline derived from DSP_RSVTO passes, and the missing answer counts as NOGANG. Operands: level in msg, unit in n, key. -/
  | reserveTimeout
  /-- COMMIT_MSG (R137): A package relay receives commit and its contexts become ARMED with dealt ranges, or it releases them when S + 4,000 has passed. Operands: m in msg. -/
  | commitMsg
  /-- ROLLBACK_MSG (R136): A rollback returns every reserved context to FREE. Operands: key. -/
  | rollbackMsg
  /-- RELAY_HOLD_TIMEOUT (R138): A package relay holding a yes without commit or rollback for DSP_RSVTO releases its contexts and reports LAUNCHLOST. Operands: key. -/
  | relayHoldTimeout
  /-- LAUNCHLOST_REPORT (R138): The pod relay receives LAUNCHLOST, records the fault and cancels the launch. Operands: key, pkg in n, tiles in m. -/
  | launchlostReport
  /-- WALKER_START (R138): The package GTICK reaches S, and ARMED contexts become ACTIVE or HUNGRY. Operands: core in n, key. -/
  | walkerStart
  /-- PLACEMENT_ATTEMPT (R157): A core tries to place blocks of issuing contexts in priority and order-key order under R156. Operands: core in n. -/
  | placementAttempt
  /-- WORK_REASK_TIMER (R131): A thief that got no range asks again every 1,000 REFTICKs until the launch is DONE. Operands: core in n, key. -/
  | workReaskTimer
  /-- SPLIT (R132): A victim context gives its upper half, or its whole range when SURRENDERING, to a thief, or refuses a one-tile range. Operands: victim in n, thief in m, key; with on, thief m is another package's. -/
  | split
  /-- RANGE_RECEIVE (R128): A HUNGRY context receives a range and becomes ACTIVE. Operands: thief in n, key, lo in m, hi in k. -/
  | rangeReceive
  /-- STALL_TIMEOUT (R128): An ACTIVE context whose next tile is not placed for DSP_STALLTO REFTICKs becomes SURRENDERING. Operands: core in n, key. -/
  | stallTimeout
  /-- TILE_COUNT_REPORT (R147): A die relay reports its accounted tiles up the chain every 10,000 REFTICKs or when it has no resident block. Operands: die in n, key. -/
  | tileCountReport
  /-- TILE_COUNT_UPDATE (R147): The pod relay receives counts and writes the rising TILES field of the counter word. Operands: key, pkg in n, counts in msg; as the news of DONE, faults in n, CANC in on, NOPLACE in m. -/
  | tileCountUpdate
  /-- LAUNCH_DONE_WRITE (R147): After the gathered-bit write-back, the pod relay writes fault fields, counts and DONE = 1 as a pod-scope release. Operands: ln in n; with on, package m has written its bits back. -/
  | launchDoneWrite
  /-- CANCEL_MSG (R151): A cancel reaches contexts and blocks: unissued tiles become never started and resident blocks are stopped at their seams. Operands: key. -/
  | cancelMsg
  /-- CANCELLED_BLOCK_REMOVE (R151): A stopped block whose asynchronous operations and side log have drained is removed as cancelled while resident and listed in CLIST. Operands: blk in n. -/
  | cancelledBlockRemove
  /-- FAULT_SUMMARY (R149): A package or pod relay receives a fault record, keeps the first, counts the rest, sets FLT and cancels when FSTOP = 1. Operands: key, pkg in n, record in msg. -/
  | faultSummary
  /-- LAUNCH_STATUS_RETURN (R474): A group parked in LAUNCH receives the launch's status in sD and continues. Operands: blk in n, gid in m; with on, status v and S k of request n, by key. -/
  | launchStatusReturn
  /-- RUN_GRANT (R170): A free issue slot grants the next run to a ready group chosen by due status, priority, age and slot number. Operands: core in n, part in m. -/
  | runGrant
  /-- GROUP_DUE (R171): A ready group that has begun no run for 1,024 REFTICKs becomes due. Operands: blk in n, gid in m. -/
  | groupDue
  /-- LONG_RESULT_RETURN (R162): A long result arrives, clears its pending bit, and unparks a group waiting at a drain seam when no pending bit remains. Operands: blk in n, gid in m, op in k. -/
  | longResultReturn
  /-- FAULT_BLOCK_END (R189): Once all groups of a faulted block have stopped and drained, its records go to the relay and error log and its footprint is freed. Operands: blk in n. -/
  | faultBlockEnd
  /-- BLOCK_RETIRE (R147): A block whose groups have all ended retires after its side-log wait, freeing its footprint, planes and window. Operands: blk in n. -/
  | blockRetire
  /-- PREEMPTION_STOP_COMPLETE (R178): A block stopped for save or flush has drained, and its image is written to the save pool or its tile returns to the re-issue queue. Operands: blk in n. -/
  | preemptionStopComplete
  /-- MIGRATION_TRANSFER (R181): Once groups have stopped and operations drained, state moves to the target, map entries swap, held beats are delivered and groups resume. Operands: core in n. -/
  | migrationTransfer
  /-- DEPOT_SEND (R222): A depot entry is sent to its home 64 cycles after opening, or earlier when full or on release, fence, arrival, seam or stop. Operands: core in n, line in m. -/
  | depotSend
  /-- PROMOTE_RECEIVE (R287): A core receiving a promote performs every access before its groups' releases with respect to the scope and acknowledges. Operands: core in n, id in m. -/
  | promoteReceive
  /-- PROMOTE_ACK (R287): The acquiring core receives the last promote acknowledgement and performs the acquire. Operands: id in n. -/
  | promoteAck
  /-- COPY_BEAT_DELIVER (R215): A copy channel delivers a 64-byte beat in destination order, advancing the milestone and mirror word. Operands: core in n, ch in m. -/
  | copyBeatDeliver
  /-- COPY_DESCRIPTOR_COMPLETE (R290): A descriptor completes and the group's COPY counter falls in issue order. Operands: core in n, ch in m. -/
  | copyDescriptorComplete
  /-- BOOKING_GRANT (R270): A cluster-array port grants one ready head operation of the booking table. Operands: cl in n, port. -/
  | bookingGrant
  /-- ARRAY_OP_COMPLETE (R268): An array operation finishes its effect, and the group's ARR counter falls. Operands: cl in n, port. -/
  | arrayOpComplete
  /-- WS_WINDOW_END (R212): A weight-store bank's refresh window ends and reads waiting on it proceed. Operands: die in n, bank in m. -/
  | wsWindowEnd
  /-- QMU_OP_COMPLETE (R253): A QMMA completes in issue order and the QMU counter falls. Operands: blk in n, gid in m. -/
  | qmuOpComplete
  /-- NEST_COMPLETE (R464): A NEST finishes its steps and the NEST counter falls. Operands: blk in n, gid in m. -/
  | nestComplete
  /-- MPATH_COMPLETE (R227): The merge-path unit writes its split points and the NEST counter falls. Operands: die in n. -/
  | mpathComplete
  /-- MEMORY_WAIT_RECHECK (R441): A WAITMEM or LWAIT park is re-examined after a write to its word or every 256 REFTICKs. Operands: blk in n, gid in m. -/
  | memoryWaitRecheck
  /-- SLEEP_EXPIRY (R390): A SLEEP interval of n REFTICKs ends and the group becomes ready. Operands: blk in n, gid in m. -/
  | sleepExpiry
  /-- EVENT_COUNTER_SELECT (R301): A write to EVC_SELn selects a source and clears its count, or is refused with EVC_STAT.CFGERR. Operands: who, n, v. -/
  | eventCounterSelect
  /-- LANE_CYCLE_RANGE_WRITE (R300): A write to a lane-cycle range register clears that range's four counts. Operands: who, core in n, n in m, high in on, v. -/
  | laneCycleRangeWrite
  /-- FID_INJECT (R277): A write of GO to FID_INJn arms an injection raising U of the next slice operation of column COL. Operands: who, cl in n, v. -/
  | fidInject
  /-- STOP_ARM (R309): A write to DBG_STOPC arms the stop, sending it to every package when SCOPE = 1. Operands: who, v. -/
  | stopArm
  /-- STOP_TARGET_WRITE (R309): A write of DBG_STOPT sets the target GTICK, and a target already past sets bit 31 and never fires. Operands: who, v. -/
  | stopTargetWrite
  /-- STOP_ARM_MSG (R309): A pod stop or BRK target message on VL 3 makes a package arm the same or smaller target. Operands: src in n, target in v, lower in on. -/
  | stopArmMsg
  /-- STOP_FIRE (R309): GTICK equals the armed target and every clock domain of the package is gated except the test access port. -/
  | stopFire
  /-- WATCH_HIT_REPORT (R303): A hit made at a remote home is reported on VL 3 to the package that set the watch. Operands: src in n, n in m, hit in msg. -/
  | watchHitReport
  /-- TRACE_RECORD_DROP (R308): A trace record not written within 256 cycles is dropped and counted in DBG_TRLOST. -/
  | traceRecordDrop
  /-- FUSE_PROGRAMMING (R63): A command holding semaphore 6 blows a key-slot revoke fuse or a security-version thermometer bit, which takes effect at the next boot. Operands: who, fuse in msg. -/
  | fuseProgramming
  /-- BRING_UP_FAILURE (R56): A bring-up or training poll that misses its REFTICK limit is a bring-up failure: the firmware removes the die's VCL, records ERR in FWC_BSTAT and sets PHASE 15. Operands: die in n, err in v. -/
  | bringUpFailure
  /-- FIRMWARE_READY (R74): After every bring-up and training sequence has completed and FWC_MEAS4 has been extended, the firmware sets FWC_BSTAT.PHASE to 3, and Yeleno commands other than ATTEST are accepted. -/
  | firmwareReady
  /-- VSR_SUPPLY_CHANGE (R57): The board VSR supply enters or leaves 0.75 V ± 3%, updating VSRLOW, and sets VSRGOOD after staying within range for 1,000 REFTICKs. Operands: die in n, inRange in on. -/
  | vsrSupplyChange
  /-- REFERENCE_CLOCK_CHANGE (R57): The 100 MHz reference clock becomes present within ±100 ppm, or is lost, and CLK_REFSTAT.PRESENT changes accordingly. Operands: present in on. -/
  | referenceClockChange
  /-- CXL_EXPANDER_TRAINING (R20): A CXL port trains with its attached Type-3 expander; an expander that advertises only unsupported modes is left untrained and the event is logged. Operands: port in n, supported in on, capacity in m. -/
  | cxlExpanderTraining
  deriving DecidableEq, Repr

end Sys2Proof
end

