-- ==== Sys2Proof/Machine/Forms.lean ====
section
/-! DEFINITION. Register numbers, type codes, element types and the form of every opcode: which classes each operand
field admits, which MOD values and which immediates have a meaning (R343 to R363, and the encoding tables of the
instruction chapters). -/

namespace Sys2Proof

/-! ### Types -/

/-- TY code of R352. -/
def Ty.code : Ty → BitVec 5
  | .none => 0 | .i8 => 1 | .i16 => 2 | .i32 => 3 | .i64 => 4 | .n8 => 5 | .n16 => 6 | .n32 => 7 | .n64 => 8
  | .f16 => 9 | .bf16 => 10 | .f32 => 11 | .e4m3 => 13 | .e5m2 => 14 | .e3m2 => 15 | .e2m3 => 16 | .e2m1 => 17
  | .f16x2 => 18 | .bf16x2 => 19 | .e4m3x4 => 20 | .e5m2x4 => 21

/-- The type a TY code names (R352); 12 and 22 to 31 name none. -/
def Ty.ofCode (c : BitVec 5) : Option Ty :=
  match c.toNat with
  | 0 => some .none | 1 => some .i8 | 2 => some .i16 | 3 => some .i32 | 4 => some .i64 | 5 => some .n8
  | 6 => some .n16 | 7 => some .n32 | 8 => some .n64 | 9 => some .f16 | 10 => some .bf16 | 11 => some .f32
  | 13 => some .e4m3 | 14 => some .e5m2 | 15 => some .e3m2 | 16 => some .e2m3 | 17 => some .e2m1
  | 18 => some .f16x2 | 19 => some .bf16x2 | 20 => some .e4m3x4 | 21 => some .e5m2x4
  | _ => Option.none

/-- Signed integer types (R229). -/
def Ty.isSigned : Ty → Bool
  | .i8 | .i16 | .i32 | .i64 => true
  | _ => false

/-- Integer types, TY 1 to 8 (R353, set INT). -/
def Ty.isInt : Ty → Bool
  | .i8 | .i16 | .i32 | .i64 | .n8 | .n16 | .n32 | .n64 => true
  | _ => false

/-- The 64-bit integer types, which take register pairs (R233). -/
def Ty.is64 : Ty → Bool
  | .i64 | .n64 => true
  | _ => false

/-- Unpacked narrow float types. -/
def Ty.isNarrow : Ty → Bool
  | .e4m3 | .e5m2 | .e3m2 | .e2m3 | .e2m1 => true
  | _ => false

/-- Packed types (R353, set PK). -/
def Ty.isPacked : Ty → Bool
  | .f16x2 | .bf16x2 | .e4m3x4 | .e5m2x4 => true
  | _ => false

/-- Number of elements in a lane (R233). -/
def Ty.elems : Ty → Nat
  | .f16x2 | .bf16x2 => 2
  | .e4m3x4 | .e5m2x4 => 4
  | _ => 1

/-- The type of one element of a packed type, and any other type itself. -/
def Ty.elem : Ty → Ty
  | .f16x2 => .f16 | .bf16x2 => .bf16 | .e4m3x4 => .e4m3 | .e5m2x4 => .e5m2
  | t => t

/-- Width of one element in bits (R229, R230). -/
def Ty.width : Ty → Nat
  | .i8 | .n8 | .e4m3 | .e5m2 => 8
  | .e3m2 | .e2m3 => 6
  | .e2m1 => 4
  | .i16 | .n16 | .f16 | .bf16 => 16
  | .i32 | .n32 | .f32 => 32
  | .i64 | .n64 => 64
  | .f16x2 | .bf16x2 => 16
  | .e4m3x4 | .e5m2x4 => 8
  | .none => 32

/-- Bytes of one lane's access in memory (R420). -/
def Ty.bytes : Ty → Nat
  | .i8 | .n8 | .e4m3 | .e5m2 | .e3m2 | .e2m3 | .e2m1 => 1
  | .i16 | .n16 | .f16 | .bf16 => 2
  | .i64 | .n64 => 8
  | _ => 4

/-! ### Type sets of R353 -/

/-- Set IF: TY 1 to 11. -/
def Ty.inIF (t : Ty) : Bool := t.isInt || t == .f16 || t == .bf16 || t == .f32

/-- Set FLT: TY 9, 10, 11, 18, 19. -/
def Ty.inFLT (t : Ty) : Bool := t == .f16 || t == .bf16 || t == .f32 || t == .f16x2 || t == .bf16x2

/-- Set FN: TY 9 to 11 and 13 to 21. -/
def Ty.inFN (t : Ty) : Bool := t == .f16 || t == .bf16 || t == .f32 || t.isNarrow || t.isPacked

/-- Set NARW: TY 13 to 17, 20, 21. -/
def Ty.inNARW (t : Ty) : Bool := t.isNarrow || t == .e4m3x4 || t == .e5m2x4

/-- Set ALL: TY 1 to 11 and 13 to 21. -/
def Ty.inALL (t : Ty) : Bool := t.isInt || t.inFN

/-- Set ATM: TY 3, 4, 7, 8, 11. -/
def Ty.inATM (t : Ty) : Bool := t == .i32 || t == .i64 || t == .n32 || t == .n64 || t == .f32

/-- Set ATB: TY 3, 4, 7, 8. -/
def Ty.inATB (t : Ty) : Bool := t == .i32 || t == .i64 || t == .n32 || t == .n64

/-- Set BMT: TY 1 to 3, 5 to 7, 9 to 11, 13 to 17. -/
def Ty.inBMT (t : Ty) : Bool :=
  (t.isInt && !t.is64) || t == .f16 || t == .bf16 || t == .f32 || t.isNarrow

/-! ### Register numbers (R351) -/

/-- The registers a number names. -/
inductive Reg where
  | v (n : Nat) | a (n : Nat) | s (n : Nat) | p (n : Nat) | m (n : Nat) | t (n : Nat)
  | zero | lane | quarter | gid | bix
  deriving DecidableEq, Repr

/-- The register a number names; 0xFD to 0xFF name none. -/
def Reg.ofNum (r : BitVec 8) : Option Reg :=
  let n := r.toNat
  if n < 0x80 then some (.v n)
  else if n < 0xA0 then some (.a (n - 0x80))
  else if n < 0xE0 then some (.s (n - 0xA0))
  else if n < 0xE8 then some (.p (n - 0xE0))
  else if n < 0xF0 then some (.m (n - 0xE8))
  else if n < 0xF8 then some (.t (n - 0xF0))
  else if n = 0xF8 then some .zero
  else if n = 0xF9 then some .lane
  else if n = 0xFA then some .quarter
  else if n = 0xFB then some .gid
  else if n = 0xFC then some .bix
  else Option.none

/-! ### Fields of MOD by family (R354) -/

/-- The opcode families of R354. -/
inductive Family where
  | control | integer | float | memory | engine | system | unassigned
  deriving DecidableEq, Repr

def familyOf (opc : BitVec 10) : Family :=
  let n := opc.toNat
  if n < 0x080 then .control
  else if n < 0x100 then .integer
  else if n < 0x180 then .float
  else if n < 0x200 then .memory
  else if n < 0x280 then .engine
  else if n < 0x2C0 then .system
  else .unassigned

namespace Op

/-- TAG of a control instruction. -/
def tag (o : Op) : BitVec 8 := o.mod.extractLsb' 0 8
/-- IMM of the integer and float families. -/
def immBit (o : Op) : Bool := o.mod.getLsbD 8
/-- SAT of the integer and float families. -/
def sat (o : Op) : Bool := o.mod.getLsbD 7
/-- VAR of the integer family. -/
def var (o : Op) : BitVec 2 := o.mod.extractLsb' 5 2
/-- K of the integer family. -/
def kInt (o : Op) : BitVec 5 := o.mod.extractLsb' 0 5
/-- RM of the float family. -/
def rm (o : Op) : BitVec 3 := o.mod.extractLsb' 4 3
/-- K of the float family. -/
def kFlt (o : Op) : BitVec 4 := o.mod.extractLsb' 0 4
/-- SCOPE of the memory family. -/
def scope (o : Op) : BitVec 3 := o.mod.extractLsb' 6 3
/-- ORD of the memory family. -/
def ord (o : Op) : BitVec 2 := o.mod.extractLsb' 4 2
/-- SPACE of the memory family. -/
def space (o : Op) : BitVec 2 := o.mod.extractLsb' 2 2
/-- K of the memory family. -/
def kMem (o : Op) : BitVec 2 := o.mod.extractLsb' 0 2
/-- SAT of the engine family. -/
def satE (o : Op) : Bool := o.mod.getLsbD 8
/-- RM of the engine family. -/
def rmE (o : Op) : BitVec 3 := o.mod.extractLsb' 5 3
/-- K of the engine family. -/
def kEng (o : Op) : BitVec 5 := o.mod.extractLsb' 0 5
/-- IMM16: bits 24 to 9 of the base word (R342). -/
def imm16 (o : Op) : BitVec 16 := o.b ++ o.c
/-- The source type code STY of a conversion (R357). -/
def sty (o : Op) : Option Ty := Ty.ofCode (o.c.extractLsb' 0 5)
/-- PARAM of the extension word (R347), zero where there is none. -/
def param (o : Op) : BitVec 50 := match o.ext with | .extn _ _ _ p => p | _ => 0
/-- The 180-bit payload (R348), zero where there is none. -/
def payload (o : Op) : BitVec 180 := match o.ext with | .quad p => p | _ => 0
/-- Length in words (R339). -/
def words (o : Op) : Nat := match o.ext with | .one => 1 | .face .. => 2 | .extn .. => 2 | .quad _ => 4
/-- Length in bytes. -/
def len (o : Op) : Nat := 8 * o.words
/-- A two-faced instruction. -/
def twoFaced (o : Op) : Bool := match o.ext with | .face .. => true | _ => false
/-- Face X executes (R345); an instruction of one word has no enables. -/
def xen (o : Op) : Bool := match o.ext with | .face x .. => x | _ => true
/-- Face Y executes the face word's operand set. -/
def yen (o : Op) : Bool := match o.ext with | .face _ y .. => y | _ => false
/-- LEN of the base word. -/
def lenCode (o : Op) : BitVec 2 := match o.ext with | .one => 0 | .face .. => 1 | .extn .. => 1 | .quad _ => 2

end Op

/-! ### Classes of operand fields -/

/-- What a field admits. `z`: must be zero; `im`: part of IMM16. -/
inductive Cls where
  | z | im
  | dst | vd | pd | src | pc
  | sReg | unif | sPair | sPairZ | vPair | gPair | vasPair | scrA
  | dSV | dSV64 | atB | atB64 | m | t | tOrSPair | retA | lbufA | dVAS
  deriving DecidableEq, Repr

/-- Does a register number lie in a class? `wide` says that the operand's type is a 64-bit integer (R233). -/
def Cls.admits (c : Cls) (wide : Bool) (r : BitVec 8) : Bool :=
  match Reg.ofNum r with
  | Option.none => false
  | some x =>
    match c, x with
    | .dst, .v n => !wide || n % 2 == 0
    | .dst, .a _ | .dst, .s _ => !wide
    | .vd, .v n => !wide || n % 2 == 0
    | .pd, .p _ | .pc, .p _ => true
    | .src, .v n => !wide || n % 2 == 0
    | .src, .a _ | .src, .s _ | .src, .zero | .src, .lane | .src, .quarter | .src, .gid | .src, .bix => !wide
    | .sReg, .s n => !wide || n % 2 == 0
    | .unif, .s _ | .unif, .zero | .unif, .gid | .unif, .bix => true
    | .sPair, .s n | .sPairZ, .s n => n % 2 == 0
    | .sPairZ, .zero => true
    | .vPair, .v n => n % 2 == 0
    | .gPair, .a n | .gPair, .s n => n % 2 == 0
    | .vasPair, .v n | .vasPair, .a n | .vasPair, .s n => n % 2 == 0
    | .scrA, .a _ | .scrA, .s _ | .scrA, .zero | .scrA, .gid | .scrA, .bix | .scrA, .lane => true
    | .dSV, .s n | .dSV, .v n => !wide || n % 2 == 0
    | .dSV64, .s n | .dSV64, .v n => n % 2 == 0
    | .atB, .v _ | .atB, .s _ | .atB, .zero | .atB, .lane | .atB, .gid | .atB, .bix => true
    | .atB64, .v n | .atB64, .s n => n % 2 == 0
    | .atB64, .zero => true
    | .m, .m _ => true
    | .t, .t _ | .tOrSPair, .t _ => true
    | .tOrSPair, .s n => n % 2 == 0
    | .retA, .zero => true
    | .retA, .v n => n % 2 == 0
    | .lbufA, .s _ | .lbufA, .zero => true
    | .dVAS, .v _ | .dVAS, .a _ | .dVAS, .s _ => true
    | _, _ => false

/-- The kinds of R340. -/
inductive Kind where
  | k1 | kF | kE | kQ
  deriving DecidableEq, Repr

/-- The form of one instruction at the MOD and TY values it carries. -/
structure Shape where
  kind   : Kind
  d      : Cls := .z
  a      : Cls := .z
  b      : Cls := .z
  c      : Cls := .z
  /-- D and sources are 64-bit operands (R233) -/
  wideD  : Bool := false
  wideS  : Bool := false
  /-- face Y's count stands in C′ (R356) -/
  cntY   : Bool := false
  /-- an unguarded instruction (R344) -/
  bare   : Bool := false
  deriving DecidableEq, Repr

/-- The family an opcode's TY must lie in (R353, R362). -/
def tyOk (opc : BitVec 10) (t : Ty) : Bool :=
  let n := opc.toNat
  if n < 0x080 then t == .none
  else if n < 0x0A9 then t.isInt
  else if n < 0x0AB then t.inALL
  else if n < 0x0B6 then t == .none
  else if n < 0x0B9 then t == .i32 || t == .n32
  else if n < 0x0C0 then t == .none
  else if n < 0x10D then t.inFLT
  else if n < 0x110 then t == .f16x2 || t == .bf16x2
  else if n < 0x118 then t == .f32
  else if n = 0x118 then t.inFN
  else if n = 0x119 then t.isInt
  else if n = 0x11A then t.inFN
  else if n = 0x11B then t.inNARW
  else if n = 0x11C then t == .bf16 || t == .f32
  else if n < 0x120 then t.isPacked
  else if n = 0x120 then t.inNARW
  else if n = 0x121 then t.inFLT
  else if n = 0x122 then t == .e2m1
  else if n < 0x12B then t.inIF
  else if n < 0x130 then t.isInt
  else if n < 0x184 then t.inALL
  else if n = 0x184 then t == .none
  else if n = 0x185 then t == .i32 || t == .n32 || t == .f32
  else if n < 0x190 then t == .none
  else if n < 0x193 then t.inATM
  else if n < 0x196 then t.inATB
  else if n = 0x196 then t.inATM
  else if n = 0x197 then t.inATB
  else if n = 0x198 then t.inATM
  else if n = 0x1A7 then t.inATB
  else if n < 0x204 then t == .none
  else if n < 0x206 then t == .f16 || t == .bf16 || t == .f32 || t == .e4m3 || t == .e5m2
  else if n < 0x210 then t == .none
  else if n = 0x210 then t == .i8 || t == .n8 || t == .bf16 || t == .e4m3 || t == .e5m2
  else if n = 0x211 then t == .bf16 || t == .f32
  else if n = 0x219 then t == .i32 || t == .n32 || t == .bf16 || t == .f32
  else if n = 0x220 then t.inIF
  else if n = 0x229 || n = 0x22A then t.inBMT
  else t == .none

/-! ### The shape of each family's opcodes

Each function answers nothing where the opcode is unassigned or a MOD subfield holds a value without meaning. -/

/-- Control and meld (R370). -/
def ctlShape (n : Nat) (o : Op) : Option Shape :=
  let k1 : Shape := { kind := .k1 }
  let base : Option Shape :=
    match n with
    | 0x000 => some k1
    | 0x001 => some { k1 with b := .im, c := .im }
    | 0x002 => some { k1 with kind := .kE, b := .im, c := .im }
    | 0x003 => some { k1 with a := .vPair }
    | 0x004 => some { k1 with bare := true }
    | 0x005 => some { k1 with kind := .kF, b := .im, c := .im }
    | 0x006 => some { k1 with kind := .kF, a := .vPair }
    | 0x007 => some { k1 with a := .retA }
    | 0x008 => some { k1 with bare := true }
    | 0x009 => some k1
    | 0x00A => some { k1 with a := .sReg, b := .im, c := .im }
    | 0x00B => some { k1 with bare := true }
    | 0x010 => some { k1 with kind := .kF, a := .pc, bare := true }
    | 0x011 => some { k1 with bare := true }
    | 0x012 | 0x013 => some { k1 with kind := .kF, a := .pc, bare := true }
    | 0x018 | 0x019 | 0x01A | 0x01B => some { k1 with kind := .kF, d := .pd, a := .pc, b := .pc }
    | 0x01C | 0x01D => some { k1 with kind := .kF, d := .pd, a := .pc }
    | 0x01E => some { k1 with kind := .kF, d := .pd, a := .src }
    | 0x01F => some { k1 with kind := .kF, d := .vd, a := .pc }
    | 0x020 | 0x021 | 0x022 => some { k1 with d := .pd, a := .pc }
    | 0x023 | 0x024 | 0x025 => some { k1 with d := .vd, a := .pc }
    | 0x028 | 0x02A | 0x02B => some { k1 with b := .im, c := .im }
    | 0x029 => some k1
    | _ => Option.none
  if o.mod.getLsbD 8 then Option.none
  else if o.tag = 0 ∨ n = 0x003 ∨ n = 0x006 ∨ n = 0x008 then base else Option.none

/-- R241: the bits of an immediate that its element type leaves no meaning for must be zero. -/
def immFits (t : Ty) (v : BitVec 16) : Bool :=
  if t == .i8 || t == .n8 || t.isNarrow then v.extractLsb' 8 8 == 0 else true

/-- Integer, address and shape (R399, R405). -/
def intShape (n : Nat) (o : Op) : Option Shape :=
  let w := o.ty.is64
  let f : Shape := { kind := .kF, d := .dst, a := .src, wideD := w, wideS := w }
  let i := o.immBit
  let s := o.sat
  let k := o.kInt.toNat
  let v := o.var.toNat
  let plain := v == 0 && k == 0
  let withB : Option Shape :=
    if i then some { f with b := .im, c := .im } else some { f with b := .src }
  let only (ok : Bool) (x : Option Shape) : Option Shape := if ok then x else Option.none
  let shift (satOk : Bool) : Option Shape :=
    only (!i && (satOk || !s)) <|
      if v = 0 then some { f with cntY := true }
      else if v = 1 ∧ k = 0 then some { f with b := .src } else Option.none
  let l : Shape := { kind := .k1, d := .vd, a := .src }
  let shfl : Option Shape :=
    only (!i && !s) <|
      if v = 0 then some l else if v = 1 ∧ k = 0 then some { l with b := .src } else Option.none
  match n with
  | 0x080 | 0x081 | 0x082 => only plain withB
  | 0x083 => only (plain && !s) withB
  | 0x084 => only (plain && !i) (some { f with b := .src, c := .src })
  | 0x085 => only (v == 0) (withB.map fun x => { x with cntY := true })
  | 0x086 => only plain withB
  | 0x087 | 0x088 | 0x089 => only (plain && !s) withB
  | 0x08A | 0x08B => only (plain && !i) (some f)
  | 0x08C => only (plain && !i && !s) (some { f with b := .src, c := .src })
  | 0x090 | 0x091 | 0x092 => only (plain && !s) withB
  | 0x093 => only (plain && !i && !s) (some f)
  | 0x094 => only (plain && !s) withB
  | 0x098 => shift true
  | 0x099 | 0x09A | 0x09B => shift false
  | 0x0A0 => only (v == 0 && !s && k < o.ty.width) (withB.map fun x => { x with cntY := true })
  | 0x0A1 => only (v == 0 && !s && !i && k < o.ty.width) (some { f with b := .src, c := .src })
  | 0x0A2 | 0x0A3 | 0x0A4 => only (plain && !i && !s) (some f)
  | 0x0A8 => only (v == 0 && !s && k ≤ 5) (withB.map fun x => { x with d := .pd, wideD := false })
  | 0x0A9 => only (plain && !i && !s) (some { f with b := .src, c := .pc })
  | 0x0AA => only (plain && !s) (some (if i then { f with a := .z, b := .im, c := .im } else f))
  | 0x0B0 => only (plain && !i && !s) (some { l with b := .src })
  | 0x0B1 | 0x0B2 | 0x0B3 => shfl
  | 0x0B4 => only (plain && !i && !s) (some l)
  | 0x0B5 => only (plain && !i && !s) (some { l with kind := .kF, b := .src, c := .src })
  | 0x0B6 => only (plain && !i) (some { f with b := .src, c := .src })
  | 0x0B8 => only (plain && !s) (some (if i then { l with d := .dVAS, b := .im, c := .im } else { l with d := .dVAS, b := .src }))
  | 0x0B9 => only (!i && !s) (if v = 0 then some l else if v = 1 ∧ k = 0 then some { l with b := .sReg } else Option.none)
  | 0x0BA => only (!i && !s && v == 0) (some l)
  | _ => Option.none

/-- The source types a conversion admits (R410). -/
def styOk (n : Nat) (t st : Ty) : Bool :=
  match n with
  | 0x118 => st == .f16 || st == .bf16 || st == .f32 || st.isNarrow || (t.isPacked && st.isPacked && t.elems == st.elems)
  | 0x119 => st.isInt || st == .f16 || st == .bf16 || st == .f32 || st == .e4m3 || st == .e5m2 || st == .e3m2 || st == .e2m3
  | 0x11A => st.isInt
  | 0x11B => st == .f16 || st == .bf16 || st == .f32
  | 0x11C => st.inNARW
  | _ => false

/-- The element field K of a conversion (R412). -/
def convKOk (n : Nat) (t st : Ty) (k : Nat) : Bool :=
  match n with
  | 0x118 | 0x11A | 0x11B => if t.isPacked && !st.isPacked then k < t.elems else k == 0
  | 0x11C => if st.isPacked then k < st.elems else k == 0
  | _ => k == 0

/-- Float and conversion (R406, R410, R416, R417). -/
def fltShape (n : Nat) (o : Op) : Option Shape :=
  let f : Shape := { kind := .kF, d := .dst, a := .src }
  let i := o.immBit
  let s := o.sat
  let r := o.rm.toNat
  let k := o.kFlt.toNat
  let only (ok : Bool) (x : Option Shape) : Option Shape := if ok then x else Option.none
  let rok := r ≤ 4
  let r0 := r == 0
  let withB : Option Shape := if i then some { f with b := .im, c := .im } else some { f with b := .src }
  let conv (hasB : Bool) : Option Shape :=
    match o.sty with
    | Option.none => Option.none
    | some st =>
      if o.c.extractLsb' 5 3 == 0 && styOk n o.ty st && convKOk n o.ty st k && !i
          && (rok && (r0 || !(n == 0x119 && st.isInt))) then
        some { f with b := if hasB then .src else .z, c := .im, wideD := o.ty.is64, wideS := st.is64 }
      else Option.none
  match n with
  | 0x100 | 0x101 | 0x102 => only (rok && k == 0) withB
  | 0x103 => only (rok && k == 0 && !i) (some { f with b := .src, c := .src })
  | 0x104 | 0x105 => only (r0 && k == 0 && !s) withB
  | 0x106 | 0x107 => only (r0 && k == 0 && !s && !i) (some f)
  | 0x108 => only (r0 && k ≤ 7 && !s && !o.ty.isPacked) (withB.map fun x => { x with d := .pd })
  | 0x109 => only (r0 && k == 0 && !s && !i) (some { f with d := .vd })
  | 0x10A => only (r0 && k == 0 && !s) withB
  | 0x10B => only (rok && k == 0 && !i) (some { f with b := .src })
  | 0x10C => only (rok && k == 0 && !i && !s) (some f)
  | 0x10D => only (rok && k == 0 && !i) (some { f with b := .src, c := .src })
  | 0x110 | 0x111 | 0x112 | 0x113 | 0x114 | 0x115 => only (rok && k == 0 && !i) (some f)
  | 0x118 | 0x119 | 0x11A => conv false
  | 0x11B | 0x11C => conv true
  | 0x11D => only (rok && k == 0 && !i) (some { f with b := .src })
  | 0x11E => only (r0 && k < o.ty.elems && !i && !s) (some f)
  | 0x120 => only (r0 && k == 0 && !i && !s) (some { f with d := .vd, b := .src })
  | 0x121 => only (r0 && k == 0 && !i && !s) (some { f with kind := .k1, d := .vd })
  | 0x122 => only (r0 && k == 0 && !i && !s) (some { f with kind := .k1, d := .vd, b := .src })
  | 0x128 =>
    only (k == 0 && !i && (if o.ty.isInt then r0 else r ≤ 3 && !s))
      (some { f with d := .vd, wideD := o.ty.is64, wideS := o.ty.is64 })
  | 0x129 | 0x12A => only (k == 0 && !i && !s && r0) (some { f with d := .vd, wideD := o.ty.is64, wideS := o.ty.is64 })
  | 0x12B | 0x12C | 0x12D =>
    only (k == 0 && !i && !s && r0) (some { f with d := .vd, wideD := o.ty.is64, wideS := o.ty.is64 })
  | _ => Option.none

/-- The ORD, SPACE and SCOPE a memory form admits (R358). -/
def memModOk (n : Nat) (o : Op) : Bool :=
  let sc := o.scope.toNat
  let od := o.ord.toNat
  let sp := o.space.toNat
  let withOrd := if od = 0 then sc == 0 else sc ≤ 5
  match n with
  | 0x180 | 0x185 | 0x1A7 => od ≤ 1 && sp ≤ 1 && withOrd
  | 0x181 => (od == 0 || od == 2) && sp ≤ 1 && withOrd
  | 0x182 | 0x183 => od == 0 && sp ≤ 1 && sc == 0
  | 0x184 => od == 0 && sp == 0 && sc == 0
  | 0x186 | 0x187 => od == 0 && sp == 1 && sc == 0
  | 0x1A0 | 0x1A1 | 0x1A2 | 0x1A3 | 0x1A4 => od == 0 && sp == 0 && sc ≤ 5
  | 0x1A5 => od == 0 && sp == 0 && (sc == 1 || sc == 2)
  | 0x1A6 | 0x1A8 | 0x1A9 => od == 0 && sp == 0 && sc == 0
  | _ => sp == 0 && withOrd

/-- Memory, atomics and synchronisation (R423). -/
def memShape (n : Nat) (o : Op) : Option Shape :=
  let g := o.space.toNat == 0
  let w := o.ty.is64
  let k := o.kMem.toNat
  let m : Shape := { kind := .k1 }
  let only (ok : Bool) (x : Option Shape) : Option Shape := if ok then x else Option.none
  let atom (cas : Bool) : Option Shape :=
    only (k ≤ 1) (some { m with
      d := if k = 1 then .z else .vd, wideD := w, a := .vasPair,
      b := if w then .atB64 else .atB,
      c := if cas then (if w then .atB64 else .atB) else .z })
  only (memModOk n o) <|
  match n with
  | 0x180 | 0x181 =>
    only (k == 0) (some { m with kind := .kF, d := .vd, wideD := w, a := if g then .gPair else .scrA, b := .im, c := .im })
  | 0x182 | 0x183 =>
    only (k == 0) (some { m with kind := .kF, d := .vd, wideD := w, a := if g then .vPair else .vd, b := .im, c := .im })
  | 0x184 => only (k == 0) (some { m with a := .vasPair, b := .im, c := .im })
  | 0x185 => only (k == 0) (some { m with d := .dSV, a := if g then .sPair else .unif, b := .im, c := .im })
  | 0x186 | 0x187 => only (o.d.toNat % (2 ^ k) == 0) (some { m with d := .vd, a := .unif, b := .im, c := .im })
  | 0x190 | 0x191 | 0x192 | 0x193 | 0x194 | 0x195 | 0x196 | 0x198 => atom false
  | 0x197 => atom true
  | 0x1A0 => only (k == 0) (some m)
  | 0x1A1 => only (k == 0) (some { m with a := .unif, b := .unif })
  | 0x1A2 => only (k == 0) (some { m with a := .unif })
  | 0x1A3 => only (k ≤ 2) (some { m with a := .unif, b := if k = 2 then .unif else .z })
  | 0x1A4 => only (k == 0) (some { m with d := .sReg, a := .unif })
  | 0x1A5 => if o.scope.toNat = 1 then only (k == 0) (some m) else some { m with a := .unif }
  | 0x1A6 => some { m with b := .im, c := .im }
  | 0x1A7 =>
    only (k ≤ 1) (some { m with d := .sReg, wideD := w, a := if g then .sPair else .unif, b := if w then .sPair else .unif })
  | 0x1A8 => only (k == 0) (some { m with d := .dSV, b := .im, c := .im })
  | 0x1A9 => only (k == 0) (some m)
  | _ => Option.none

/-- SCALED of the tile layout (R450). -/
def Op.scaled (o : Op) : Bool := o.param.getLsbD 27

/-- Engines, matrix, sparse and loop (R449, R456, R459, R463, R465, R469, R470, R473). -/
def engShape (n : Nat) (o : Op) : Option Shape :=
  let k := o.kEng.toNat
  let e : Shape := { kind := .kE }
  let only (ok : Bool) (x : Option Shape) : Option Shape := if ok then x else Option.none
  let noRound := !o.satE && o.rmE.toNat == 0
  let rounds := o.rmE.toNat ≤ 4
  let bf := o.ty == .bf16
  let step := if bf then 16 else 8
  match n with
  | 0x200 => only (noRound && k ≤ 1) (some { e with a := .unif })
  | 0x201 | 0x202 => only (noRound && k == 0) (some e)
  | 0x203 => only (noRound && k == 0) (some { e with a := .unif, b := .unif, c := if o.scaled then .unif else .z })
  | 0x204 | 0x205 =>
    only (rounds && k ≤ 1) (some (if k = 1 then { e with d := .vd } else { e with a := .unif, b := .unif }))
  | 0x206 | 0x207 => only (noRound && k == 0) (some e)
  | 0x210 =>
    only (noRound && k % 8 ≤ 4 && (bf == (k % 8 == 4)) && o.a.toNat % step == 0 && o.b.toNat % step == 0)
      (some { e with d := .m, a := .vd, b := .vd, c := if k / 16 = 1 then .vd else .z })
  | 0x211 => only (rounds && k == 0 && o.d.toNat % 8 == 0) (some { e with d := .vd, a := .m })
  | 0x212 | 0x213 => only (noRound && k == 0) (some { e with d := .m })
  | 0x218 =>
    let mb := k / 4
    only (noRound && k < 16 && !(k % 4 == 1 && mb != 0))
      (some { e with
        a := if k % 4 = 0 then .sPair else .unif
        b := if k % 4 = 1 then .sPair else .unif
        c := .unif
        d := if mb = 0 then .z else .sReg })
  | 0x219 => only (noRound && k == 1) (some { e with a := .unif, b := .sPair, c := .unif })
  | 0x220 =>
    only (noRound && k ≤ 8 && (o.ty.isInt || k < 6))
      (some { e with kind := .kQ, d := .unif, a := .unif, b := if k = 0 then .z else .unif })
  | 0x221 => only (o.mod == 0) (some { e with kind := .kQ, a := .lbufA, bare := true })
  | 0x228 => only (noRound && k == 0) (some { e with d := .sPair, a := .sPair, b := .unif, c := .unif })
  | 0x229 | 0x22A => only (noRound && k == 0) (some { e with a := .unif, b := .unif, c := .unif })
  | 0x230 => only (o.mod == 0) (some { kind := .k1, d := .t, a := .sPairZ })
  | 0x231 | 0x232 => only (o.mod == 0) (some { kind := .k1, d := .t, a := .t, b := .t })
  | 0x233 => only (o.mod == 0) (some { kind := .k1, d := .t, a := .t })
  | 0x234 => only (o.mod == 0) (some { kind := .k1, d := .tOrSPair, a := .t })
  | _ => Option.none

/-- The named values of R480: number, 64 bits wide, writable. -/
def srName (n : Nat) : Option (Bool × Bool) :=
  if n ≤ 0x001 then some (true, false)
  else if n ≤ 0x00D then some (false, false)
  else if 0x010 ≤ n ∧ n ≤ 0x014 then some (false, false)
  else if 0x018 ≤ n ∧ n ≤ 0x01C then some (false, false)
  else if n = 0x020 then some (false, true)
  else Option.none

/-- System (R474 to R481). -/
def sysShape (n : Nat) (o : Op) : Option Shape :=
  let k := o.mod.toNat
  let e : Shape := { kind := .k1 }
  let only (ok : Bool) (x : Option Shape) : Option Shape := if ok then x else Option.none
  match n with
  | 0x280 => only (k == 0) (some { e with d := .sReg, a := .sPair })
  | 0x281 => only (k ≤ 1) (some { e with d := .sPair, a := .sPair })
  | 0x282 => only (k ≤ 3) (some { e with a := if k = 0 then .sPair else .sReg })
  | 0x288 => only (k ≤ 1) (some { e with b := .im, c := .im, bare := true })
  | 0x290 =>
    match srName o.imm16.toNat with
    | some (w64, _) => only (k == 0) (some { e with d := if w64 then .dSV64 else .dSV, b := .im, c := .im })
    | Option.none => Option.none
  | 0x291 =>
    match srName o.imm16.toNat with
    | some (_, true) => only (k == 0) (some { e with a := .unif, b := .im, c := .im })
    | _ => Option.none
  | 0x292 => only (k == 0) (some { e with d := .sPair })
  | _ => Option.none

/-- The shape of an opcode with the MOD and TY it carries; nothing where it has no meaning (R362, R354). -/
def shapeOf (opc : BitVec 10) (o : Op) : Option Shape :=
  match familyOf opc with
  | .control => ctlShape opc.toNat o
  | .integer => intShape opc.toNat o
  | .float => fltShape opc.toNat o
  | .memory => memShape opc.toNat o
  | .engine => engShape opc.toNat o
  | .system => sysShape opc.toNat o
  | .unassigned => Option.none

/-- Limits on the immediate of the forms that have one (R241, R355, R358, R403, R423, R478). -/
def immOk (opc : BitVec 10) (o : Op) (v : BitVec 16) : Bool :=
  match familyOf opc with
  | .integer =>
    if opc = 0x0A0 then 1 ≤ v.toNat && v.toNat ≤ o.ty.width
    else if opc = 0x0B8 then true
    else immFits o.ty v
  | .float => if 0x118 ≤ opc.toNat ∧ opc.toNat ≤ 0x11C then true else immFits o.ty v
  | .memory =>
    if opc = 0x1A6 then v.toNat ≤ 63 else if opc = 0x1A8 then v.toNat ≤ 7 else true
  | .system => if opc = 0x288 then v.extractLsb' 4 4 == 0 else true
  | _ => true

/-! ### Checks of one word -/

/-- One operand field against its class. -/
def fieldOk (cls : Cls) (wide : Bool) (r : BitVec 8) : Bool :=
  match cls with
  | .z => r == 0
  | .im => true
  | c => c.admits wide r

/-- Sources that keep their own width whatever the type: counts and predicates (R392). -/
def srcWide (opc : BitVec 10) (sh : Shape) (field : Nat) : Bool :=
  sh.wideS &&
    !((field == 2 && (opc == 0x098 || opc == 0x099 || opc == 0x09A || opc == 0x09B || opc == 0x0A0))
      || (field == 3 && opc == 0x0A1))

/-- The operand fields and the immediate of face X (word 0). -/
def baseFieldsOk (opc : BitVec 10) (sh : Shape) (o : Op) : Bool :=
  if o.xen then
    fieldOk sh.d sh.wideD o.d && fieldOk sh.a (srcWide opc sh 1) o.a && fieldOk sh.b (srcWide opc sh 2) o.b
      && fieldOk sh.c (srcWide opc sh 3) o.c
      && (sh.b != .im || immOk opc o o.imm16)
      && !(o.twoFaced && sh.d == .dst && 0x80 ≤ o.d.toNat)
  else
    o.d == 0 && o.a == 0
      && (if sh.c == .im && sh.b != .im then o.b == 0 else o.b == 0 && o.c == 0)
      && (!sh.cntY || o.kInt == 0)

/-- The face word (R346), MARK and bits 9 to 0 apart, which the splitting of the words checks. -/
def faceOk (opc : BitVec 10) (sh : Shape) (o : Op) : Bool :=
  match o.ext with
  | .face xen yen d a b c imm =>
    (xen || yen) &&
    (if yen then
      fieldOk sh.d sh.wideD d && fieldOk sh.a (srcWide opc sh 1) a
        && (if sh.b == .im then b == 0 && immOk opc o imm else fieldOk sh.b (srcWide opc sh 2) b && imm == 0)
        && (if sh.cntY then c.extractLsb' 5 3 == 0
            else if sh.c == .im then c == 0 else fieldOk sh.c (srcWide opc sh 3) c)
        && !(sh.d == .dst && 0x80 ≤ d.toNat)
        && !(opc == 0x0A0 && !(c.toNat < o.ty.width))
    else d == 0 && a == 0 && b == 0 && c == 0 && imm == 0)
  | _ => true

/-- Bits a to b of PARAM as a number. -/
def Op.pf (o : Op) (lo w : Nat) : Nat := (o.param.extractLsb' lo w).toNat

/-- Slot size, bits, and dense depth limit of a plane format (R255). -/
def fmtBits (f : Nat) : Nat := if f ≤ 1 then 8 else if f ≤ 3 then 6 else if f = 4 then 4 else if f = 5 then 16 else 8
def fmtSlot (f : Nat) : Nat := if f = 2 ∨ f = 3 then 2 else if f = 4 then 4 else 1
def fmtMaxK (f : Nat) : Nat := if f ≤ 1 then 256 else if f ≤ 3 then 512 else if f = 4 then 1024 else if f = 5 then 64 else 256

/-- PARAM of each form of the engine family (R347, R450, R451, R459). -/
def paramOk (opc : BitVec 10) (o : Op) : Bool :=
  match opc.toNat with
  | 0x002 => o.pf 26 24 == 0 && o.pf 0 10 == 0
  | 0x200 =>
    let f := o.pf 0 3
    let sp := o.pf 4 1
    let me := o.pf 3 1
    o.pf 19 31 == 0 && 32 * (o.pf 13 6 + 1) ≤ fmtMaxK f * (1 + sp)
      && !(me == 0 && f == 4) && !(me == 1 && 5 ≤ f)
  | 0x203 =>
    let f := o.pf 24 3
    o.pf 28 22 == 0 && o.pf 18 6 == 0 && o.pf 2 8 + o.pf 10 8 ≤ 255
      && !(!o.scaled && f == 4) && !(o.scaled && 5 ≤ f)
  | 0x204 | 0x205 =>
    o.pf 24 26 == 0 && o.pf 2 8 + o.pf 10 8 ≤ 255 && o.pf 18 3 + o.pf 21 3 ≤ 7
      && (o.kEng == 0 || (o.pf 21 3 == 0 && o.d.toNat + o.pf 10 8 ≤ 127))
  | 0x206 | 0x207 => o.pf 24 26 == 0 && o.pf 2 8 + o.pf 10 8 ≤ 255 && o.pf 18 3 + o.pf 21 3 ≤ 7
  | 0x218 => o.pf 9 41 == 0 && (o.kEng.toNat % 4 == 2 || o.pf 3 6 == 0)
  | 0x219 => o.pf 11 39 == 0 && o.pf 3 6 == 0 && o.pf 9 2 != 3
  | _ => o.param == 0

/-- The extension word (R347). -/
def extOk (opc : BitVec 10) (o : Op) : Bool :=
  match o.ext with
  | .extn tpe treg tbit _ =>
    paramOk opc o && (tpe || (treg == 0 && tbit == 0)) && !(tpe && opc == 0x002)
  | _ => true

/-- The first failing payload bit of a four-word form, as the word that holds it (R348, R349, R350). -/
def nestExtent (p : BitVec 180) (i : Nat) : Nat := (p.extractLsb' (12 * i) 12).toNat
def nestStride (p : BitVec 180) (k : Nat) : Int := (p.extractLsb' (60 + 8 * k) 8).toInt

/-- The first bad stride of a NEST, by its index. -/
def nestBadStride (unusedB : Bool) (p : BitVec 180) : Option Nat :=
  (List.range 15).find? fun k =>
    nestStride p k != 0 && (nestExtent p (k % 5) == 0 || (unusedB && k / 5 == 2))

/-- The payload of NEST and LBUF: nothing when good, else the word (1 to 3) of the first failing bit. -/
def payloadBad (opc : BitVec 10) (o : Op) : Option (BitVec 2) :=
  match o.ext with
  | .quad p =>
    if opc = 0x220 then
      if (List.range 5).any (fun i => nestExtent p i == 0 && (i == 0 || (List.range 5).any fun j => i < j && nestExtent p j != 0))
      then some 1
      else match nestBadStride (o.kEng == 0) p with
        | some k =>
          let low := ((List.range 8).find? fun i => p.getLsbD (60 + 8 * k + i)).getD 0
          some (BitVec.ofNat 2 (1 + (60 + 8 * k + low) / 60))
        | Option.none => Option.none
    else if opc = 0x221 then
      let n := (p.extractLsb' 128 4).toNat + 1
      match (List.range 64).find? fun q =>
          let sel := p.extractLsb' (2 * q) 2
          sel != 0 && n ≤ q / 4 || o.a == 0xF8 && sel == 3 with
      | some q => some (BitVec.ofNat 2 (1 + (2 * q) / 60))
      | Option.none => if p.extractLsb' 164 16 != 0 then some 3 else Option.none
    else Option.none
  | _ => Option.none

/-- Why a decode is refused (R363). -/
inductive DecodeError where
  /-- LEN is 0b11 or is not accepted for the opcode's kind -/
  | badLen
  /-- SEAM is 0b11 -/
  | badSeam
  /-- the opcode is unassigned -/
  | badOpcode
  /-- TY names no type, or one outside the form's set -/
  | badType
  /-- a guard on an unguarded instruction -/
  | badGuard
  /-- a MOD subfield without meaning -/
  | badMod
  /-- a register number not admitted, an immediate out of range, or an unused field that is not zero -/
  | badField (word : BitVec 2)
  /-- a word after the base word does not begin with 0b1111, or holds a bit that no rule assigns -/
  | badMark (word : BitVec 2)
  /-- fewer bytes than LEN asks for -/
  | short
  deriving DecidableEq, Repr

/-- AUX of the ILLEGAL fault: the word that failed decoding (R185, R363). -/
def DecodeError.word : DecodeError → BitVec 2
  | .badField w | .badMark w => w
  | _ => 0

/-- LEN against the kind (R340). -/
def lenOk (k : Kind) (e : Ext) : Bool :=
  match k, e with
  | .k1, .one | .kF, .one | .kF, .face .. | .kE, .extn .. | .kQ, .quad _ => true
  | _, _ => false

/-- The checks of R363 in word order: nothing when the fields make an instruction. -/
def checkOp (opc : BitVec 10) (o : Op) : Option DecodeError :=
  if o.seam = 3 then some .badSeam
  else if opc = 0x000 then (if o.ext = .one then Option.none else some .badLen)
  else if !tyOk opc o.ty then some .badType
  else match shapeOf opc o with
    | Option.none => some .badMod
    | some sh =>
      if !lenOk sh.kind o.ext then some .badLen
      else if sh.bare && (o.gp != 7 || o.gi) then some .badGuard
      else if !baseFieldsOk opc sh o then some (.badField 0)
      else if !faceOk opc sh o then some (.badField 1)
      else if !extOk opc o then some (.badField 1)
      else match payloadBad opc o with
        | some w => some (.badField w)
        | Option.none => Option.none

/-! ### Features (R361) -/

/-- The feature mask an instruction needs. -/
def featuresOf (opc : BitVec 10) (o : Op) : DWord :=
  let n := opc.toNat
  let base : DWord := 1
  let byOp : DWord :=
    if 0x200 ≤ n ∧ n ≤ 0x207 then 2
    else if 0x210 ≤ n ∧ n ≤ 0x213 then 4
    else if 0x110 ≤ n ∧ n ≤ 0x115 then 32
    else if n = 0x220 ∨ n = 0x221 then 64
    else if 0x228 ≤ n ∧ n ≤ 0x22A then 16
    else if n = 0x122 then 8
    else 0
  let narrowTy (t : Ty) : Bool := t == .e3m2 || t == .e2m3 || t == .e2m1
  let narrow : Bool :=
    narrowTy o.ty
      || (0x118 ≤ n && n ≤ 0x11C && (match o.sty with | some t => narrowTy t | Option.none => false))
      || (n == 0x200 && (let f := o.pf 0 3; f == 2 || f == 3 || f == 4))
      || (n == 0x203 && (let f := o.pf 24 3; f == 2 || f == 3 || f == 4))
  let sparse : Bool := n == 0x200 && o.pf 4 1 == 1
  base ||| byOp ||| (if narrow then 8 else 0) ||| (if sparse then 16 else 0)

end Sys2Proof
end

