-- ==== Sys2Proof/Decode.lean ====
section
/-! DEFINITION. Instructions as words: the map between opcodes and instructions (R362), the decoder, total on any
bytes and rejecting by name (R363), and the encoder written from the same layouts (R342, R345, R347, R348). -/

namespace Sys2Proof

/-- The instruction an opcode and its fields name (R362); BAR is two instructions by its SCOPE (R439, R440). -/
def Instr.ofOp (opc : BitVec 10) (o : Op) : Option Instr :=
  match opc.toNat with
  | 0x000 => some (.nop o)
  | 0x001 => some (.bra o)
  | 0x002 => some (.braD o)
  | 0x003 => some (.jmpi o)
  | 0x004 => some (.join o)
  | 0x005 => some (.call o)
  | 0x006 => some (.calli o)
  | 0x007 => some (.ret o)
  | 0x008 => some (.pad o)
  | 0x009 => some (.exit o)
  | 0x00A => some (.loop o)
  | 0x00B => some (.lend o)
  | 0x010 => some (.meld o)
  | 0x011 => some (.endm o)
  | 0x012 => some (.mloop o)
  | 0x013 => some (.mnext o)
  | 0x018 => some (.pand o)
  | 0x019 => some (.por o)
  | 0x01A => some (.pxor o)
  | 0x01B => some (.pandn o)
  | 0x01C => some (.pnot o)
  | 0x01D => some (.pmov o)
  | 0x01E => some (.pfrom o)
  | 0x01F => some (.pto o)
  | 0x020 => some (.voteAll o)
  | 0x021 => some (.voteAny o)
  | 0x022 => some (.voteUni o)
  | 0x023 => some (.ballot o)
  | 0x024 => some (.pcnt o)
  | 0x025 => some (.pfirst o)
  | 0x028 => some (.trap o)
  | 0x029 => some (.yield o)
  | 0x02A => some (.sleep o)
  | 0x02B => some (.brk o)
  | 0x080 => some (.add o)
  | 0x081 => some (.sub o)
  | 0x082 => some (.mul o)
  | 0x083 => some (.mulh o)
  | 0x084 => some (.mad o)
  | 0x085 => some (.sha o)
  | 0x086 => some (.div o)
  | 0x087 => some (.rem o)
  | 0x088 => some (.min o)
  | 0x089 => some (.max o)
  | 0x08A => some (.abs o)
  | 0x08B => some (.neg o)
  | 0x08C => some (.clamp o)
  | 0x090 => some (.andd o)
  | 0x091 => some (.orr o)
  | 0x092 => some (.xorr o)
  | 0x093 => some (.nott o)
  | 0x094 => some (.andn o)
  | 0x098 => some (.shl o)
  | 0x099 => some (.shr o)
  | 0x09A => some (.sar o)
  | 0x09B => some (.rol o)
  | 0x0A0 => some (.bfx o)
  | 0x0A1 => some (.bfi o)
  | 0x0A2 => some (.popc o)
  | 0x0A3 => some (.clz o)
  | 0x0A4 => some (.brev o)
  | 0x0A8 => some (.cmp o)
  | 0x0A9 => some (.sel o)
  | 0x0AA => some (.mov o)
  | 0x0B0 => some (.shflIdx o)
  | 0x0B1 => some (.shflUp o)
  | 0x0B2 => some (.shflDn o)
  | 0x0B3 => some (.shflXor o)
  | 0x0B4 => some (.bcast o)
  | 0x0B5 => some (.prmt o)
  | 0x0B6 => some (.dot4 o)
  | 0x0B8 => some (.lane o)
  | 0x0B9 => some (.rdlane o)
  | 0x0BA => some (.wrlane o)
  | 0x100 => some (.fadd o)
  | 0x101 => some (.fsub o)
  | 0x102 => some (.fmul o)
  | 0x103 => some (.fma o)
  | 0x104 => some (.fmin o)
  | 0x105 => some (.fmax o)
  | 0x106 => some (.fabs o)
  | 0x107 => some (.fneg o)
  | 0x108 => some (.fcmp o)
  | 0x109 => some (.fclass o)
  | 0x10A => some (.fsgn o)
  | 0x10B => some (.fldx o)
  | 0x10C => some (.frnd o)
  | 0x10D => some (.fdot2 o)
  | 0x110 => some (.rcp o)
  | 0x111 => some (.rsq o)
  | 0x112 => some (.sqrt o)
  | 0x113 => some (.exp2 o)
  | 0x114 => some (.log2 o)
  | 0x115 => some (.tanh o)
  | 0x118 => some (.cvt o)
  | 0x119 => some (.cvti o)
  | 0x11A => some (.cvtf o)
  | 0x11B => some (.cvts o)
  | 0x11C => some (.cvtd o)
  | 0x11D => some (.pack o)
  | 0x11E => some (.unpk o)
  | 0x120 => some (.scale o)
  | 0x121 => some (.vamax o)
  | 0x122 => some (.spsel o)
  | 0x128 => some (.redadd o)
  | 0x129 => some (.redmin o)
  | 0x12A => some (.redmax o)
  | 0x12B => some (.redand o)
  | 0x12C => some (.redor o)
  | 0x12D => some (.redxor o)
  | 0x180 => some (.ld o)
  | 0x181 => some (.st o)
  | 0x182 => some (.gath o)
  | 0x183 => some (.scat o)
  | 0x184 => some (.prf o)
  | 0x185 => some (.ldu o)
  | 0x186 => some (.ldt o)
  | 0x187 => some (.stt o)
  | 0x190 => some (.aadd o)
  | 0x191 => some (.amin o)
  | 0x192 => some (.amax o)
  | 0x193 => some (.aand o)
  | 0x194 => some (.aor o)
  | 0x195 => some (.axor o)
  | 0x196 => some (.axch o)
  | 0x197 => some (.acas o)
  | 0x198 => some (.amaxr o)
  | 0x1A0 => some (.fence o)
  | 0x1A1 => some (.cbar o)
  | 0x1A2 => some (.arrive o)
  | 0x1A3 => some (.waitp o)
  | 0x1A4 => some (.arwt o)
  | 0x1A6 => some (.waitn o)
  | 0x1A7 => some (.waitmem o)
  | 0x1A8 => some (.mile o)
  | 0x1A9 => some (.invl1 o)
  | 0x200 => some (.mstat o)
  | 0x201 => some (.mswap o)
  | 0x202 => some (.mswapRel o)
  | 0x203 => some (.mstream o)
  | 0x204 => some (.mdrain o)
  | 0x205 => some (.mdrainFold o)
  | 0x206 => some (.mfold o)
  | 0x207 => some (.mzero o)
  | 0x210 => some (.qmma o)
  | 0x211 => some (.qmov o)
  | 0x212 => some (.qzero o)
  | 0x213 => some (.qfold o)
  | 0x218 => some (.copy o)
  | 0x219 => some (.copyr o)
  | 0x220 => some (.nest o)
  | 0x221 => some (.lbuf o)
  | 0x228 => some (.mpath o)
  | 0x229 => some (.bmap o)
  | 0x22A => some (.bpack o)
  | 0x230 => some (.tset o)
  | 0x231 => some (.tand o)
  | 0x232 => some (.tor o)
  | 0x233 => some (.tnot o)
  | 0x234 => some (.tmov o)
  | 0x280 => some (.launch o)
  | 0x281 => some (.lwait o)
  | 0x282 => some (.lcancel o)
  | 0x288 => some (.hitch o)
  | 0x290 => some (.rdsr o)
  | 0x291 => some (.wrsr o)
  | 0x292 => some (.feat o)
  | 0x1A5 => if o.scope = 1 then some (.barBlk o) else if o.scope = 2 then some (.barClu o) else none
  | _ => none

/-- The opcode and fields of a Dreoth instruction; the other steps of the machine have no words. -/
def Instr.parts : Instr → Option (BitVec 10 × Op)
  | .nop o => some (0x000, o)
  | .bra o => some (0x001, o)
  | .braD o => some (0x002, o)
  | .jmpi o => some (0x003, o)
  | .join o => some (0x004, o)
  | .call o => some (0x005, o)
  | .calli o => some (0x006, o)
  | .ret o => some (0x007, o)
  | .pad o => some (0x008, o)
  | .exit o => some (0x009, o)
  | .loop o => some (0x00A, o)
  | .lend o => some (0x00B, o)
  | .meld o => some (0x010, o)
  | .endm o => some (0x011, o)
  | .mloop o => some (0x012, o)
  | .mnext o => some (0x013, o)
  | .pand o => some (0x018, o)
  | .por o => some (0x019, o)
  | .pxor o => some (0x01A, o)
  | .pandn o => some (0x01B, o)
  | .pnot o => some (0x01C, o)
  | .pmov o => some (0x01D, o)
  | .pfrom o => some (0x01E, o)
  | .pto o => some (0x01F, o)
  | .voteAll o => some (0x020, o)
  | .voteAny o => some (0x021, o)
  | .voteUni o => some (0x022, o)
  | .ballot o => some (0x023, o)
  | .pcnt o => some (0x024, o)
  | .pfirst o => some (0x025, o)
  | .trap o => some (0x028, o)
  | .yield o => some (0x029, o)
  | .sleep o => some (0x02A, o)
  | .brk o => some (0x02B, o)
  | .add o => some (0x080, o)
  | .sub o => some (0x081, o)
  | .mul o => some (0x082, o)
  | .mulh o => some (0x083, o)
  | .mad o => some (0x084, o)
  | .sha o => some (0x085, o)
  | .div o => some (0x086, o)
  | .rem o => some (0x087, o)
  | .min o => some (0x088, o)
  | .max o => some (0x089, o)
  | .abs o => some (0x08A, o)
  | .neg o => some (0x08B, o)
  | .clamp o => some (0x08C, o)
  | .andd o => some (0x090, o)
  | .orr o => some (0x091, o)
  | .xorr o => some (0x092, o)
  | .nott o => some (0x093, o)
  | .andn o => some (0x094, o)
  | .shl o => some (0x098, o)
  | .shr o => some (0x099, o)
  | .sar o => some (0x09A, o)
  | .rol o => some (0x09B, o)
  | .bfx o => some (0x0A0, o)
  | .bfi o => some (0x0A1, o)
  | .popc o => some (0x0A2, o)
  | .clz o => some (0x0A3, o)
  | .brev o => some (0x0A4, o)
  | .cmp o => some (0x0A8, o)
  | .sel o => some (0x0A9, o)
  | .mov o => some (0x0AA, o)
  | .shflIdx o => some (0x0B0, o)
  | .shflUp o => some (0x0B1, o)
  | .shflDn o => some (0x0B2, o)
  | .shflXor o => some (0x0B3, o)
  | .bcast o => some (0x0B4, o)
  | .prmt o => some (0x0B5, o)
  | .dot4 o => some (0x0B6, o)
  | .lane o => some (0x0B8, o)
  | .rdlane o => some (0x0B9, o)
  | .wrlane o => some (0x0BA, o)
  | .fadd o => some (0x100, o)
  | .fsub o => some (0x101, o)
  | .fmul o => some (0x102, o)
  | .fma o => some (0x103, o)
  | .fmin o => some (0x104, o)
  | .fmax o => some (0x105, o)
  | .fabs o => some (0x106, o)
  | .fneg o => some (0x107, o)
  | .fcmp o => some (0x108, o)
  | .fclass o => some (0x109, o)
  | .fsgn o => some (0x10A, o)
  | .fldx o => some (0x10B, o)
  | .frnd o => some (0x10C, o)
  | .fdot2 o => some (0x10D, o)
  | .rcp o => some (0x110, o)
  | .rsq o => some (0x111, o)
  | .sqrt o => some (0x112, o)
  | .exp2 o => some (0x113, o)
  | .log2 o => some (0x114, o)
  | .tanh o => some (0x115, o)
  | .cvt o => some (0x118, o)
  | .cvti o => some (0x119, o)
  | .cvtf o => some (0x11A, o)
  | .cvts o => some (0x11B, o)
  | .cvtd o => some (0x11C, o)
  | .pack o => some (0x11D, o)
  | .unpk o => some (0x11E, o)
  | .scale o => some (0x120, o)
  | .vamax o => some (0x121, o)
  | .spsel o => some (0x122, o)
  | .redadd o => some (0x128, o)
  | .redmin o => some (0x129, o)
  | .redmax o => some (0x12A, o)
  | .redand o => some (0x12B, o)
  | .redor o => some (0x12C, o)
  | .redxor o => some (0x12D, o)
  | .ld o => some (0x180, o)
  | .st o => some (0x181, o)
  | .gath o => some (0x182, o)
  | .scat o => some (0x183, o)
  | .prf o => some (0x184, o)
  | .ldu o => some (0x185, o)
  | .ldt o => some (0x186, o)
  | .stt o => some (0x187, o)
  | .aadd o => some (0x190, o)
  | .amin o => some (0x191, o)
  | .amax o => some (0x192, o)
  | .aand o => some (0x193, o)
  | .aor o => some (0x194, o)
  | .axor o => some (0x195, o)
  | .axch o => some (0x196, o)
  | .acas o => some (0x197, o)
  | .amaxr o => some (0x198, o)
  | .fence o => some (0x1A0, o)
  | .cbar o => some (0x1A1, o)
  | .arrive o => some (0x1A2, o)
  | .waitp o => some (0x1A3, o)
  | .arwt o => some (0x1A4, o)
  | .barBlk o => some (0x1A5, o)
  | .barClu o => some (0x1A5, o)
  | .waitn o => some (0x1A6, o)
  | .waitmem o => some (0x1A7, o)
  | .mile o => some (0x1A8, o)
  | .invl1 o => some (0x1A9, o)
  | .mstat o => some (0x200, o)
  | .mswap o => some (0x201, o)
  | .mswapRel o => some (0x202, o)
  | .mstream o => some (0x203, o)
  | .mdrain o => some (0x204, o)
  | .mdrainFold o => some (0x205, o)
  | .mfold o => some (0x206, o)
  | .mzero o => some (0x207, o)
  | .qmma o => some (0x210, o)
  | .qmov o => some (0x211, o)
  | .qzero o => some (0x212, o)
  | .qfold o => some (0x213, o)
  | .copy o => some (0x218, o)
  | .copyr o => some (0x219, o)
  | .nest o => some (0x220, o)
  | .lbuf o => some (0x221, o)
  | .mpath o => some (0x228, o)
  | .bmap o => some (0x229, o)
  | .bpack o => some (0x22A, o)
  | .tset o => some (0x230, o)
  | .tand o => some (0x231, o)
  | .tor o => some (0x232, o)
  | .tnot o => some (0x233, o)
  | .tmov o => some (0x234, o)
  | .launch o => some (0x280, o)
  | .lwait o => some (0x281, o)
  | .lcancel o => some (0x282, o)
  | .hitch o => some (0x288, o)
  | .rdsr o => some (0x290, o)
  | .wrsr o => some (0x291, o)
  | .feat o => some (0x292, o)
  | .powerOnReset => none
  | .bootGo => none
  | .measurementExtend => none
  | .fwcWdogWrite => none
  | .serviceWatchdogExpiry => none
  | .controlWatchdogExpiry => none
  | .semaphoreAcquire => none
  | .semaphoreRelease => none
  | .registerWrite => none
  | .registerReadClear => none
  | .pwrVclWrite => none
  | .pwrVtailWrite => none
  | .clkClfWrite => none
  | .pwrCstatHoldWrite => none
  | .cxaCadWrite => none
  | .pwrPlimWrite => none
  | .gtickStart => none
  | .regulatorSlewDone => none
  | .pllLock => none
  | .powerLimiterTick => none
  | .supplyDroop => none
  | .sensorSample => none
  | .migrationRetry => none
  | .bandwidthInterval => none
  | .hbmStackReset => none
  | .hbmCaTraining => none
  | .hbmLaneRepair => none
  | .hbmReadTraining => none
  | .hbmWriteTraining => none
  | .hbmVrefSweep => none
  | .hbmOperational => none
  | .hbmTrainingStepDone => none
  | .uciePortEnable => none
  | .uciePortReset => none
  | .ucieTrainingDone => none
  | .ucieLinkDown => none
  | .ucieSidebandMessage => none
  | .ucieUnknownMessage => none
  | .hostRd => none
  | .hostWr => none
  | .hostWake => none
  | .cxlResponse => none
  | .cxlRequestTimeout => none
  | .cplrPortEnable => none
  | .cplrPortDisable => none
  | .cplrLoopback => none
  | .cplrVlthrWrite => none
  | .cplrReceiverDetect => none
  | .cplrDetectTimeout => none
  | .cplrBitLock => none
  | .cplrDeskew => none
  | .cplrEqualised => none
  | .cplrIdentityExchange => none
  | .cplrLossOfLock => none
  | .cplrRetrainDone => none
  | .cplrRetrainTimeout => none
  | .dataFlitSend => none
  | .idleFlitSend => none
  | .flitReceive => none
  | .gtickAlignSend => none
  | .gtickAlignReceive => none
  | .homeAccess => none
  | .accessRsp => none
  | .accessAck => none
  | .accessErr => none
  | .e2eTimeout => none
  | .deferReceive => none
  | .sideLogReplay => none
  | .replayDoneMarker => none
  | .parkTimeout => none
  | .sideLogTimeout => none
  | .sideLogFullTimeout => none
  | .tlbWritebackTimer => none
  | .epochAdvance => none
  | .sidingRelease => none
  | .shootdownInvalidate => none
  | .xltRootWrite => none
  | .xltHringWrite => none
  | .xltHheadWrite => none
  | .fwcElogWrite => none
  | .fwcElheadWrite => none
  | .queCtlWrite => none
  | .queBaseWrite => none
  | .queueGo => none
  | .quantumExpiry => none
  | .queueRead => none
  | .commandStart => none
  | .yelenoLaunch => none
  | .graph => none
  | .waitCmd => none
  | .waitLimitExpiry => none
  | .cancel => none
  | .mapCmd => none
  | .unmapCmd => none
  | .harvest => none
  | .shootdown => none
  | .wload => none
  | .quiesceHold => none
  | .quiesceRelease => none
  | .partitionCmd => none
  | .readCounters => none
  | .attest => none
  | .dspLmapWrite => none
  | .launchRequest => none
  | .reserveStart => none
  | .packageReserve => none
  | .dieReserve => none
  | .dieAnswer => none
  | .packageAnswer => none
  | .reserveTimeout => none
  | .commitMsg => none
  | .rollbackMsg => none
  | .relayHoldTimeout => none
  | .launchlostReport => none
  | .walkerStart => none
  | .placementAttempt => none
  | .workReaskTimer => none
  | .split => none
  | .rangeReceive => none
  | .stallTimeout => none
  | .tileCountReport => none
  | .tileCountUpdate => none
  | .launchDoneWrite => none
  | .cancelMsg => none
  | .cancelledBlockRemove => none
  | .faultSummary => none
  | .launchStatusReturn => none
  | .runGrant => none
  | .groupDue => none
  | .longResultReturn => none
  | .faultBlockEnd => none
  | .blockRetire => none
  | .preemptionStopComplete => none
  | .migrationTransfer => none
  | .depotSend => none
  | .promoteReceive => none
  | .promoteAck => none
  | .copyBeatDeliver => none
  | .copyDescriptorComplete => none
  | .bookingGrant => none
  | .arrayOpComplete => none
  | .wsWindowEnd => none
  | .qmuOpComplete => none
  | .nestComplete => none
  | .mpathComplete => none
  | .memoryWaitRecheck => none
  | .sleepExpiry => none
  | .eventCounterSelect => none
  | .laneCycleRangeWrite => none
  | .fidInject => none
  | .stopArm => none
  | .stopTargetWrite => none
  | .stopArmMsg => none
  | .stopFire => none
  | .watchHitReport => none
  | .traceRecordDrop => none
  | .fuseProgramming => none
  | .bringUpFailure => none
  | .firmwareReady => none
  | .vsrSupplyChange => none
  | .referenceClockChange => none
  | .cxlExpanderTraining => none

/-! ### Fields of a word -/

/-- The base word's layout (R342). -/
def baseWord (len : BitVec 2) (opc : BitVec 10) (o : Op) : DWord :=
  len ++ o.seam ++ opc ++ o.gp ++ BitVec.ofBool o.gi ++ o.ty.code ++ o.d ++ o.a ++ o.b ++ o.c ++ o.mod

/-- The words that follow the base word (R345, R347, R348). -/
def extWords : Ext → List DWord
  | .one => []
  | .face xen yen d a b c imm =>
    [(0b1111 : BitVec 4) ++ BitVec.ofBool xen ++ BitVec.ofBool yen ++ d ++ a ++ b ++ c ++ imm ++ (0 : BitVec 10)]
  | .extn tpe treg tbit param => [(0b1111 : BitVec 4) ++ BitVec.ofBool tpe ++ treg ++ tbit ++ param]
  | .quad p =>
    [(0b1111 : BitVec 4) ++ p.extractLsb' 0 60, (0b1111 : BitVec 4) ++ p.extractLsb' 60 60,
      (0b1111 : BitVec 4) ++ p.extractLsb' 120 60]

/-- The words of an instruction; none for a step that has no words. -/
def encode (i : Instr) : List DWord :=
  match i.parts with
  | some (opc, o) => baseWord o.lenCode opc o :: extWords o.ext
  | none => []

/-- The number of words LEN announces (R339); none for 0b11. -/
def lenWords (w : DWord) : Option Nat :=
  match (w.extractLsb' 62 2).toNat with
  | 0 => some 1
  | 1 => some 2
  | 2 => some 4
  | _ => none

/-- The opcode of a base word. -/
def opcodeOf (w : DWord) : BitVec 10 := w.extractLsb' 50 10

/-- The kind that decides how a second word is read: a kind-E opcode carries an extension word, any other a face
word (R340, R362). -/
def extensionKind (opc : BitVec 10) : Bool :=
  opc == 0x002 || (0x200 ≤ opc.toNat && opc.toNat ≤ 0x21F) || (0x228 ≤ opc.toNat && opc.toNat ≤ 0x22F)

/-- The fields of what follows the base word, MARK and RSVD apart. -/
def readExt (w0 : DWord) (ws : List DWord) : Ext :=
  match ws with
  | [] => .one
  | [w] =>
    if extensionKind (opcodeOf w0) then
      .extn (w.getLsbD 59) (w.extractLsb' 56 3) (w.extractLsb' 50 6) (w.extractLsb' 0 50)
    else
      .face (w.getLsbD 59) (w.getLsbD 58) (w.extractLsb' 50 8) (w.extractLsb' 42 8) (w.extractLsb' 34 8)
        (w.extractLsb' 26 8) (w.extractLsb' 10 16)
  | w1 :: w2 :: ws' =>
    .quad (((ws'.headD 0).extractLsb' 0 60) ++ (w2.extractLsb' 0 60) ++ (w1.extractLsb' 0 60))

/-- The fields of a base word, with what follows it already read; none where TY names no type. -/
def readOp (w : DWord) (ext : Ext) : Option Op :=
  match Ty.ofCode (w.extractLsb' 41 5) with
  | some ty => some {
      seam := w.extractLsb' 60 2, gp := w.extractLsb' 47 3, gi := w.getLsbD 46, ty := ty
      d := w.extractLsb' 33 8, a := w.extractLsb' 25 8, b := w.extractLsb' 17 8, c := w.extractLsb' 9 8
      mod := w.extractLsb' 0 9, ext := ext }
  | none => none

/-- A word after the base word is good in MARK, and a face word in its reserved bits (R346 to R348). -/
def markOk (face : Bool) (w : DWord) : Bool :=
  w.extractLsb' 60 4 == 0b1111 && (!face || w.extractLsb' 0 10 == 0)

/-- The first of the following words that fails its mark, counted from 1. -/
def badMarkWord (face : Bool) : Nat → List DWord → Option (BitVec 2)
  | _, [] => none
  | n, w :: ws => if markOk face w then badMarkWord face (n + 1) ws else some (BitVec.ofNat 2 n)

/-- Two failures: the one in the earlier word stands (R363). -/
def firstError (a : Option DecodeError) (b : Option (BitVec 2)) : Option DecodeError :=
  match a, b with
  | none, none => none
  | some e, none => some e
  | none, some w => some (.badMark w)
  | some e, some w => if e.word.toNat ≤ w.toNat then some e else some (.badMark w)

/-- Reads one instruction from its own words (R363, R364). -/
def decodeExact (w0 : DWord) (ws : List DWord) : Except DecodeError Instr :=
  let opc := opcodeOf w0
  if w0.extractLsb' 60 2 = 3 then .error .badSeam
  else if opc = 0x000 then
    if ws = [] then
      .ok (.nop {
        seam := w0.extractLsb' 60 2, gp := w0.extractLsb' 47 3, gi := w0.getLsbD 46
        ty := (Ty.ofCode (w0.extractLsb' 41 5)).getD .none, d := w0.extractLsb' 33 8, a := w0.extractLsb' 25 8
        b := w0.extractLsb' 17 8, c := w0.extractLsb' 9 8, mod := w0.extractLsb' 0 9, ext := .one })
    else .error .badLen
  else
    let ext := readExt w0 ws
    let face := ws.length == 1 && !extensionKind opc
    match readOp w0 ext with
    | none => .error .badType
    | some o =>
      match firstError (checkOp opc o) (badMarkWord face 1 ws) with
      | some e => .error e
      | none =>
        match Instr.ofOp opc o with
        | some i => .ok i
        | none => .error .badOpcode

/-- Reads one instruction from the front of a list of words, with what is left. -/
def decodeWords : List DWord → Except DecodeError (Instr × List DWord)
  | [] => .error .short
  | w0 :: rest =>
    match lenWords w0 with
    | none => .error .badLen
    | some n =>
      if rest.length + 1 < n then .error .short
      else match decodeExact w0 (rest.take (n - 1)) with
        | .ok i => .ok (i, rest.drop (n - 1))
        | .error e => .error e

/-! ### Bytes (R339: words are stored little-endian) -/

/-- A word from its bytes, the least significant first. -/
def wordOfBytes : List Byte → DWord
  | [] => 0
  | b :: bs => (wordOfBytes bs <<< 8) ||| b.setWidth 64

/-- The words of a list of bytes, while eight bytes are left; `fuel` bounds their number. -/
def wordsOfBytes : Nat → List Byte → List DWord
  | 0, _ => []
  | n + 1, bs => if bs.length < 8 then [] else wordOfBytes (bs.take 8) :: wordsOfBytes n (bs.drop 8)

/-- The decoder on bytes. -/
def decodeBytes (bs : List Byte) : Except DecodeError (Instr × Nat) :=
  match decodeWords (wordsOfBytes 4 bs) with
  | .ok (i, rest) => .ok (i, 8 * ((wordsOfBytes 4 bs).length - rest.length))
  | .error e => .error e

/-- The bytes of a list of words. -/
def bytesOfWords (ws : List DWord) : List Byte := ws.flatMap fun w => bytesLE 8 w.toNat

/-- The 32 bytes of an instruction whose bits are w, the longest instruction having four words (R339). -/
def tableBytes (nbits w : Nat) : List Byte := bytesLE 32 (w % 2 ^ nbits)

/-- The instruction read from the bits w of a row of the opcode table. -/
def decodeTableWord (nbits w : Nat) : Option Instr :=
  match decodeBytes (tableBytes nbits w) with
  | .ok (i, _) => some i
  | .error _ => none

end Sys2Proof
end

