-- ==== Sys2Proof/Machine/Num.lean ====
section
/-! DEFINITION. Number formats, exact values, rounding and the helpers of R229 to R249. -/

namespace Sys2Proof

/-! ### Integers (R229) -/

/-- The value of the low `w` bits of `x`, signed or not. -/
def readInt (signed : Bool) (w x : Nat) : Int :=
  let u := x % 2 ^ w
  if signed && 2 ^ (w - 1) ≤ u then (u : Int) - (2 ^ w : Nat) else u

/-- The pattern of WRAP(x), as a natural number below 2^w. -/
def wrapNat (w : Nat) (x : Int) : Nat := (x % ((2 ^ w : Nat) : Int)).toNat

/-- The least and greatest value of an integer format. -/
def intMin (signed : Bool) (w : Nat) : Int := if signed then -((2 ^ (w - 1) : Nat) : Int) else 0
def intMax (signed : Bool) (w : Nat) : Int :=
  if signed then ((2 ^ (w - 1) : Nat) : Int) - 1 else ((2 ^ w : Nat) : Int) - 1

/-- SAT(x, fmt). -/
def satInt (signed : Bool) (w : Nat) (x : Int) : Int :=
  if x < intMin signed w then intMin signed w else if intMax signed w < x then intMax signed w else x

/-- An integer result reduced to a type by WRAP or SAT, as a pattern of its width (R229, R400). -/
def reduceInt (t : Ty) (sat : Bool) (x : Int) : Nat :=
  if sat then wrapNat t.width (satInt t.isSigned t.width x) else wrapNat t.width x

/-! ### Formats (R230) -/

/-- The floating-point formats. -/
inductive Fmt where
  | f64 | f32 | f16 | bf16 | e5m2 | e4m3 | e3m2 | e2m3 | e2m1
  deriving DecidableEq, Repr

/-- Exponent bits. -/
def Fmt.eBits : Fmt → Nat
  | .f64 => 11 | .f32 => 8 | .f16 => 5 | .bf16 => 8 | .e5m2 => 5 | .e4m3 => 4 | .e3m2 => 3 | .e2m3 => 2 | .e2m1 => 2

/-- Mantissa bits. -/
def Fmt.mBits : Fmt → Nat
  | .f64 => 52 | .f32 => 23 | .f16 => 10 | .bf16 => 7 | .e5m2 => 2 | .e4m3 => 3 | .e3m2 => 2 | .e2m3 => 3 | .e2m1 => 1

/-- Exponent bias. -/
def Fmt.bias : Fmt → Int
  | .f64 => 1023 | .f32 => 127 | .f16 => 15 | .bf16 => 127 | .e5m2 => 15 | .e4m3 => 7 | .e3m2 => 3 | .e2m3 => 1
  | .e2m1 => 1

/-- Formats with infinities. -/
def Fmt.hasInf : Fmt → Bool
  | .f64 | .f32 | .f16 | .bf16 | .e5m2 => true
  | _ => false

/-- The code of the largest finite magnitude. -/
def Fmt.maxCode (f : Fmt) : Nat :=
  if f.hasInf then (2 ^ f.eBits - 1) * 2 ^ f.mBits - 1
  else if f = .e4m3 then 0x7E
  else 2 ^ (f.eBits + f.mBits) - 1

/-- The sign bit's weight. -/
def Fmt.signBit (f : Fmt) : Nat := 2 ^ (f.eBits + f.mBits)

/-- The canonical NaN, and +0 for the formats without NaN codes (R230, R237). -/
def Fmt.nanCode : Fmt → Nat
  | .f64 => 0x7FF8000000000000 | .f32 => 0x7FC00000 | .f16 => 0x7E00 | .bf16 => 0x7FC0 | .e5m2 => 0x7E
  | .e4m3 => 0x7F | .e3m2 | .e2m3 | .e2m1 => 0

/-- The exponent of the largest finite value's top binade. -/
def Fmt.maxExp (f : Fmt) : Int := (f.maxCode / 2 ^ f.mBits : Nat) - f.bias

/-- Width in bits. -/
def Fmt.width (f : Fmt) : Nat := 1 + f.eBits + f.mBits

/-- The format of a floating-point element type. -/
def Ty.fmt : Ty → Option Fmt
  | .f16 | .f16x2 => some .f16
  | .bf16 | .bf16x2 => some .bf16
  | .f32 => some .f32
  | .e4m3 | .e4m3x4 => some .e4m3
  | .e5m2 | .e5m2x4 => some .e5m2
  | .e3m2 => some .e3m2
  | .e2m3 => some .e2m3
  | .e2m1 => some .e2m1
  | _ => Option.none

/-! ### Exact values -/

/-- An exact value: not a number, an infinity, or (−1)^neg × m × 2^e. -/
inductive Val where
  | nan
  | inf (neg : Bool)
  | fin (neg : Bool) (m : Nat) (e : Int)
  deriving DecidableEq, Repr

/-- R231 for one code. -/
def decFmt (f : Fmt) (bits : Nat) : Val :=
  let b := bits % 2 ^ f.width
  let neg := f.signBit ≤ b
  let mag := b % f.signBit
  let e := mag / 2 ^ f.mBits
  let m := mag % 2 ^ f.mBits
  if f.hasInf && e == 2 ^ f.eBits - 1 then (if m = 0 then .inf neg else .nan)
  else if f == .e4m3 && mag == 0x7F then .nan
  else if e = 0 then .fin neg m (1 - f.bias - f.mBits)
  else .fin neg (m + 2 ^ f.mBits) ((e : Int) - f.bias - f.mBits)

/-- The E3M2 value of SPARE in a metadata word (R234). -/
def spareOf (md : Nat) : Val := decFmt .e3m2 (md / 1024)

/-- DEC without the scale: E2M1's code 0b1000 takes SPARE (R234). -/
def decUnsc (f : Fmt) (bits md : Nat) : Val :=
  if f == .e2m1 && bits % 16 == 8 then spareOf md else decFmt f bits

/-- The metadata word of an operand without metadata (R234). -/
def plainMeta : Nat := 0x01FC

/-- σ of a metadata word as (4 + SM, SE − 129), or none for NaN (R234). -/
def sigmaOf (md : Nat) : Option (Nat × Int) :=
  let se := md / 4 % 256
  if se = 255 then none else some (4 + md % 4, (se : Int) - 129)

/-- A value times σ. -/
def Val.scale (v : Val) (md : Nat) : Val :=
  match sigmaOf md, v with
  | none, _ => .nan
  | some (a, k), .fin n m e => .fin n (m * a) (e + k)
  | some _, v => v

/-- DEC(fmt, bits, meta) (R231, R234). -/
def dec (f : Fmt) (bits md : Nat) : Val := (decUnsc f bits md).scale md

/-! ### Rounding (R236 to R239) -/

/-- The five rounding modes of R236. -/
inductive RMode where
  | rne | rtz | rup | rdn | sr
  deriving DecidableEq, Repr

/-- The mode of a legal RM code. -/
def RMode.ofCode (c : Nat) : RMode :=
  if c = 1 then .rtz else if c = 2 then .rup else if c = 3 then .rdn else if c = 4 then .sr else .rne

/-- The integer a non-negative quotient N/D is rounded to, for a number of the given sign; `draw` is the 16-bit
draw of R239. -/
def quantise (rm : RMode) (draw : Nat) (neg : Bool) (N D : Nat) : Nat :=
  let n := N / D
  let r := N % D
  match rm with
  | .rne => if D < 2 * r ∨ (2 * r = D ∧ n % 2 = 1) then n + 1 else n
  | .rtz => n
  | .rup => if r ≠ 0 ∧ !neg then n + 1 else n
  | .rdn => if r ≠ 0 ∧ neg then n + 1 else n
  | .sr => (N * 65536 + draw * D) / (65536 * D)

/-- FLOOR(log2(N/D)) + e for a positive N/D. -/
def floorLog2 (N D : Nat) (e : Int) : Int :=
  let k : Int := (N.log2 : Int) - D.log2
  let ok := if 0 ≤ k then D * 2 ^ k.toNat ≤ N else D ≤ N * 2 ^ (-k).toNat
  (if ok then k else k - 1) + e

/-- N/D × 2^k as a quotient of naturals. -/
def scaleQ (N D : Nat) (k : Int) : Nat × Nat :=
  if 0 ≤ k then (N * 2 ^ k.toNat, D) else (N, D * 2 ^ (-k).toNat)

/-- The code of an overflowed or infinite result (R237). -/
def overflowCode (f : Fmt) (rm : RMode) (sat neg isInf : Bool) : Nat :=
  let s := if neg then f.signBit else 0
  let infCode := (2 ^ f.eBits - 1) * 2 ^ f.mBits
  if sat then s + f.maxCode
  else match f with
  | .e4m3 => f.nanCode
  | .e3m2 | .e2m3 | .e2m1 => s + f.maxCode
  | _ =>
    if isInf then s + infCode
    else match rm, neg with
      | .rne, _ | .sr, _ | .rup, false | .rdn, true => s + infCode
      | _, _ => s + f.maxCode

/-- The sign bit of a result; E2M1 writes −0 as +0 (R237). -/
def signed (f : Fmt) (neg : Bool) (mag : Nat) : Nat :=
  if neg && !(f == .e2m1 && mag == 0) then f.signBit + mag else mag

/-- ROUND of (−1)^neg × N/D × 2^e (R236, R237, R239). A number far beyond the range, either way, is replaced by a
nearer one that rounds alike. -/
def roundQ (f : Fmt) (rm : RMode) (sat : Bool) (draw : Nat) (neg : Bool) (N D : Nat) (e : Int) : Nat :=
  if N = 0 then signed f neg 0
  else
    let k := floorLog2 N D e
    let kmin : Int := 1 - f.bias
    if f.maxExp + 1 < k then overflowCode f rm sat neg false
    else
      let (N, D, e) : Nat × Nat × Int := if k < kmin - f.mBits - 40 then (1, 1, kmin - f.mBits - 40) else (N, D, e)
      let kc := if k < kmin then kmin else if rm = .sr ∧ f.maxExp < k then f.maxExp else k
      let u := kc - f.mBits
      let q := scaleQ N D (e - u)
      let n := quantise rm draw neg q.1 q.2
      let code :=
        if n < 2 ^ f.mBits then n
        else (kc + f.bias).toNat * 2 ^ f.mBits + (n - 2 ^ f.mBits)
      if f.maxCode < code then overflowCode f rm sat neg false else signed f neg code

/-- ROUND(x, fmt, rm, e), with the 16-bit draw that SR takes (R236 to R239). -/
def roundVal (f : Fmt) (rm : RMode) (sat : Bool) (draw : Nat) (x : Val) : Nat :=
  match x with
  | .nan => f.nanCode
  | .inf neg => overflowCode f rm sat neg true
  | .fin neg m e => roundQ f rm sat draw neg m 1 e

/-- RNE64 and RNE32 on exact values. -/
def rne64 (x : Val) : Nat := roundVal .f64 .rne false 0 x
def rne32 (x : Val) : Nat := roundVal .f32 .rne false 0 x

/-- x rounded to an integer by rm, SR with spacing 1 (R238). -/
def roundToInt (rm : RMode) (draw : Nat) (neg : Bool) (N D : Nat) (e : Int) : Int :=
  let q := scaleQ N D e
  let n := quantise rm draw neg q.1 q.2
  if neg then -(n : Int) else n

/-- The draw of SR (R240). -/
def mix64 (z : DWord) : DWord :=
  let z := (z ^^^ (z >>> 30)) * 0xBF58476D1CE4E5B9#64
  let z := (z ^^^ (z >>> 27)) * 0x94D049BB133111EB#64
  z ^^^ (z >>> 31)

def srDraw (seed : DWord) (L : Nat) (l : Nat) (n : DWord) : DWord :=
  mix64 (mix64 (seed ^^^ (BitVec.ofNat 64 L <<< 5) ^^^ BitVec.ofNat 64 l) + n * 0x9E3779B97F4A7C15#64)

/-- The 16-bit slice of element e. -/
def drawSlice (d : DWord) (e : Nat) : Nat := (d >>> (16 * e)).toNat % 65536

/-! ### Arithmetic on exact values (R232) -/

/-- The sign of an exact zero sum of operands of opposite sign (R232). -/
def zeroNeg (rm : RMode) : Bool := rm == .rdn

/-- An exact sum; the mode decides the sign of an exact zero. -/
def Val.add (rm : RMode) (x y : Val) : Val :=
  match x, y with
  | .nan, _ | _, .nan => .nan
  | .inf a, .inf b => if a = b then .inf a else .nan
  | .inf a, _ => .inf a
  | _, .inf b => .inf b
  | .fin a m e, .fin b n f =>
    if m = 0 ∧ n = 0 then .fin (if a = b then a else zeroNeg rm) 0 0
    else if m = 0 then .fin b n f
    else if n = 0 then .fin a m e
    else
      let g := if e ≤ f then e else f
      let p : Int := (m * 2 ^ (e - g).toNat : Nat)
      let q : Int := (n * 2 ^ (f - g).toNat : Nat)
      let s : Int := (if a then -p else p) + (if b then -q else q)
      if s = 0 then .fin (zeroNeg rm) 0 0 else .fin (s < 0) s.natAbs g

/-- An exact product. -/
def Val.mul (x y : Val) : Val :=
  match x, y with
  | .nan, _ | _, .nan => .nan
  | .inf a, .inf b => .inf (a != b)
  | .inf a, .fin b n _ => if n = 0 then .nan else .inf (a != b)
  | .fin a m _, .inf b => if m = 0 then .nan else .inf (a != b)
  | .fin a m e, .fin b n f => .fin (a != b) (m * n) (e + f)

/-- −x. -/
def Val.neg : Val → Val
  | .nan => .nan
  | .inf a => .inf (!a)
  | .fin a m e => .fin (!a) m e

/-- |x|. -/
def Val.abs : Val → Val
  | .nan => .nan
  | .inf _ => .inf false
  | .fin _ m e => .fin false m e

/-- The sign. -/
def Val.isNeg : Val → Bool
  | .nan => false
  | .inf a => a
  | .fin a _ _ => a

def Val.isNan : Val → Bool
  | .nan => true
  | _ => false

/-- x × 2^n. -/
def Val.ldexp (v : Val) (n : Int) : Val :=
  match v with
  | .fin a m e => .fin a m (e + n)
  | v => v

/-- Sign of x − y for finite values: −1, 0 or 1. -/
def cmpFin (a : Bool) (m : Nat) (e : Int) (b : Bool) (n : Nat) (f : Int) : Ordering :=
  let g := if e ≤ f then e else f
  let p : Int := (m * 2 ^ (e - g).toNat : Nat)
  let q : Int := (n * 2 ^ (f - g).toNat : Nat)
  compare (if a then -p else p) (if b then -q else q)

/-- Comparison of two values, −0 equal to +0; none when one is NaN (R408). -/
def Val.cmp (x y : Val) : Option Ordering :=
  match x, y with
  | .nan, _ | _, .nan => none
  | .inf a, .inf b => some (compare b.toNat a.toNat)
  | .inf a, _ => some (if a then .lt else .gt)
  | _, .inf b => some (if b then .gt else .lt)
  | .fin a m e, .fin b n f =>
    if m = 0 ∧ n = 0 then some .eq
    else if m = 0 then some (if b then .gt else .lt)
    else if n = 0 then some (if a then .lt else .gt)
    else some (cmpFin a m e b n f)

/-- Strictly less, with −0 below +0 (R408). -/
def Val.below (x y : Val) : Bool :=
  match x.cmp y with
  | some .lt => true
  | some .eq => x.isNeg && !y.isNeg
  | _ => false

/-- FMIN and FMAX (R408). -/
def Val.min2 (x y : Val) : Val :=
  if x.isNan then y else if y.isNan then x else if y.below x then y else x
def Val.max2 (x y : Val) : Val :=
  if x.isNan then y else if y.isNan then x else if x.below y then y else x

/-! ### One group of a matrix dot product (R243 to R246) -/

/-- Fidelity cut: none is unlimited (R244). -/
def kcut (bf : Bool) (fid : Nat) : Option Nat :=
  match fid with
  | 0 => if bf then some 96 else none
  | 1 => some 48
  | 2 => some 32
  | _ => some 20

/-- FLOOR(log2 |x|) of a non-zero finite value. -/
def Val.weight : Val → Option Int
  | .fin _ m e => if m = 0 then none else some ((m.log2 : Int) + e)
  | _ => none

/-- The largest weight among non-zero finite products (R244). -/
def topWeight (ps : List Val) : Option Int :=
  ps.foldl (fun acc p => match acc, p.weight with
    | some a, some w => some (if a ≤ w then w else a)
    | none, w => w
    | a, none => a) none

/-- TRUNC_AT(x, C) (R243). -/
def truncAt (x : Val) (c : Int) : Val :=
  match x with
  | .fin a m e => if e ≥ c then x else .fin a (m / 2 ^ (c - e).toNat) c
  | v => v

/-- The exact sum of finite values; an exact zero is +0 (R243). -/
def exactSum (xs : List Val) : Val :=
  match xs.foldl (Val.add .rne) (.fin false 0 0) with
  | .fin _ 0 _ => .fin false 0 0
  | v => v

/-- An accumulator and its tail after one step. -/
structure AccTail where
  acc  : Nat
  tail : Nat
  deriving DecidableEq, Repr

/-- Addition in binary64 and binary32 on codes. -/
def add64 (a b : Nat) : Nat := rne64 ((decFmt .f64 a).add .rne (decFmt .f64 b))
def add32 (a b : Nat) : Nat := rne32 ((decFmt .f32 a).add .rne (decFmt .f32 b))

/-- step and tstep of a group of products below a cut and an anchor (no anchor: S and T are 0), with the metadata words
of the two blocks (R243, R246). -/
def groupStep (cut : Option Nat) (anch : Option Int) (ps : List Val) (ma mb : Nat) : AccTail :=
  let nanStep : AccTail := ⟨Fmt.nanCode .f64, 0⟩
  if ps.any Val.isNan || (sigmaOf ma).isNone || (sigmaOf mb).isNone then nanStep
  else
    let infs := ps.filterMap fun p => match p with | .inf a => some a | _ => none
    match infs with
    | a :: rest => if rest.all (· == a) then ⟨rne64 (.inf a), 0⟩ else nanStep
    | [] =>
      let scaled (v : Val) : Val := (v.scale ma).scale mb
      match cut, anch with
      | none, _ => ⟨rne64 (scaled (exactSum ps)), 0⟩
      | some _, none => ⟨0, 0⟩
      | some k, some an =>
        let c := an - k
        let hi := ps.map (truncAt · c)
        let lo := List.zipWith (fun p h => p.add .rne h.neg) ps hi
        ⟨rne64 (scaled (exactSum hi)), rne32 (scaled (exactSum lo))⟩

/-- One group added to an accumulator and its tail (R243). -/
def accGroup (x : AccTail) (st : AccTail) : AccTail := ⟨add64 x.acc st.acc, add32 x.tail st.tail⟩

/-- FOLD (R247). -/
def fold64 (x : AccTail) : Nat := rne64 ((decFmt .f64 x.acc).add .rne (decFmt .f32 x.tail))

/-! ### Immediates (R241) -/

/-- The 32-bit lane pattern of an immediate in an element type (64-bit types: the pattern of the pair). -/
def immPattern (t : Ty) (v : BitVec 16) : Nat :=
  match t with
  | .f32 => v.toNat * 65536
  | .f16x2 | .bf16x2 => v.toNat * 65536 + v.toNat
  | .e4m3x4 | .e5m2x4 => v.toNat * 65536 + v.toNat
  | .i8 | .i16 => wrapNat 32 (readInt true t.width v.toNat)
  | .i32 | .n32 => wrapNat 32 v.toInt
  | .i64 | .n64 => wrapNat 64 v.toInt
  | .n8 | .e4m3 | .e5m2 | .e3m2 | .e2m3 | .e2m1 => v.toNat % 256
  | _ => v.toNat

/-! ### Elements in lanes (R233) -/

/-- Element e of a lane in type t, as a pattern of its width. -/
def elemOf (t : Ty) (lane e : Nat) : Nat := lane / 2 ^ (t.width * e) % 2 ^ t.width

/-- A lane holding one unpacked element: sign extension for I8 and I16, zeros for every other type. -/
def fillLane (t : Ty) (x : Nat) : Nat :=
  match t with
  | .i8 | .i16 => wrapNat 32 (readInt true t.width x)
  | _ => x % 2 ^ t.width

/-- A lane holding what was read for it from memory: every byte as it stands, both codes of an E2M1 byte and every element
of a packed type, sign-extended for I8 and I16 (R233, R420). -/
def loadLane (t : Ty) (x : Nat) : Nat :=
  match t with
  | .i8 | .i16 => fillLane t x
  | _ => x % 2 ^ (8 * t.bytes)

/-- A lane with element e of a packed type replaced. -/
def setElem (t : Ty) (lane e x : Nat) : Nat :=
  let w := t.width
  let old := lane / 2 ^ (w * e) % 2 ^ w
  lane - old * 2 ^ (w * e) + (x % 2 ^ w) * 2 ^ (w * e)

/-- A lane built from the elements of a packed type, element 0 first. -/
def packElems (t : Ty) : List Nat → Nat
  | [] => 0
  | x :: xs => x % 2 ^ t.width + 2 ^ t.width * packElems t xs

end Sys2Proof
end

