-- ==== Sys2Proof/Config.lean ====
section
/-! DEFINITION. What an implementation fixes and the spec leaves open. A constant with no body is a free value:
nothing can evaluate it, and a statement holds whatever it is. Each names its entry of the assumption log. -/

namespace Sys2Proof.Config

/-! ### Free values, numbered by a counter of the state (log entry 2) -/

/-- A value of the bytes a WLOAD leaves unspecified (R494), of a weight-store read while its WLOAD runs. -/
opaque freeByte : Nat → BitVec 8

/-- A number the machine estimates or measures: die power (R51), bandwidth (R86), temperatures (R53). -/
opaque freeNat : Nat → Nat

/-- A 64-bit value nobody states. -/
opaque freeDWord : Nat → BitVec 64

/-- What befalls a slice operation of a tail slice (R275): 0 nothing, 1 a detected event, otherwise an undetected one. The
declared rate is no value. -/
opaque tailEvent : Nat → Nat

/-- The split point of a diagonal that no row index meets (R228, log entry 26): by P, Z, the row pointers read and k. -/
opaque mpathSplit : Nat → Nat → List (BitVec 32) → Nat → BitVec 32

/-- Bytes of an SPDM response (R65): the messages are DMTF's, not the spec's (log entry 30). -/
opaque spdmByte : Nat → Nat → BitVec 8
/-- Where boot flash holds the identity certificate, and its length; the alias certificate that the ROM makes with the identity key
for an alias key; and the bytes that an SPDM signature covers, as DMTF makes them of the messages exchanged (R65, log entry 30). -/
opaque identityAt : Nat
opaque identityLen : Nat
opaque aliasCert : BitVec 256 → BitVec 256 → List (BitVec 8)
opaque spdmSigned : List (BitVec 8) → List (BitVec 8)

/-! ### Fixed by a package's fuses and grade -/

/-- Whether physical core p of die d is absent (R2, R88). No core is fused off in a GK9-4C12H (log entry 16). -/
def coreAbsent (_die _core : Nat) : Bool := false

/-- The feature mask of a die (R361): every die of this module offers bits 0 to 6. -/
def featMask (_die : Nat) : BitVec 64 := 0x7F

/-- Where the firmware puts the next table of a tree: the number of an 8 KiB pair of frames (R97, log entry 19). -/
opaque tableFrame : Nat → Nat

/-- The packages present in the pod (R36). -/
opaque podMembers : List Nat

/-- CLK_VFMIN: the least VCL code of cluster cl at FMUL code f (R46). -/
opaque vfMin : Nat → Nat → BitVec 7

/-! ### What the package measures, by the REFTICK of the measurement (log entry 2) -/

/-- A temperature sensor's reading in degrees Celsius, by sensor (R53), a die's estimate of its power in watts (R51), the share
AVAIL of a stack, and the transfers of a partition on a stack (R86). -/
opaque celsius : Nat → Nat → Nat
opaque diePower : Nat → Nat → Nat
opaque stackAvail : Nat → Nat → Nat
opaque partDemand : Nat → Nat → Nat → Nat

/-- The fused key-slot hashes of 512 bits, security version thermometer and device secret (R63, R65). -/
opaque keyHash : Nat → BitVec 512
opaque svnFuses : BitVec 64
opaque deviceSecret : BitVec 256
/-- The 64 KiB boot ROM (R59), byte by byte. -/
opaque romByte : Nat → BitVec 8
/-- The image of a service core that a firmware image names, and the offset of its entry: the spec does not say how an image
names them (R61, log entry 104). -/
opaque serviceImage : List (BitVec 8) → Nat → List (BitVec 8)
opaque serviceEntry : List (BitVec 8) → Nat → Nat
/-- The derivations of the identity key from the device secret, and of the alias key from it and `FWC_MEAS1` (R65). -/
opaque deriveIdentity : BitVec 256 → BitVec 256
opaque deriveKey : BitVec 256 → BitVec 512 → BitVec 256
/-- A flash read error met while the image is read (R63). -/
opaque flashError : Bool
/-- The byte offset of a register in the device register space, by register code and index (R68, R7): the spec gives
none. -/
opaque regOffset : Nat → Nat → BitVec 32
opaque keySlotProgrammed : Nat → Bool
opaque keySlotRevoked : Nat → Bool

end Sys2Proof.Config
end

