-- ==== Sys2Proof/Machine/State.lean ====
section
/-! DEFINITION. The state of one package: all the spec gives it, as plain data. A sparse map lists only what differs
from its default, so the state after reset is short. -/

namespace Sys2Proof.Machine

/-! ### Groups and blocks (R154 to R175, R194, R365) -/

/-- Why one path slot may not issue although its group is not parked. -/
inductive Hold where
  | none
  /-- a PAD check or an instruction fetch parked at its home (R375, R110) -/
  | fetch (req : Nat)
  /-- a push that waits until the other slot may be spilled (R367) -/
  | push
  /-- a release that waits for every earlier access of its group (R115, R184), or a scratch or engine operation that
  waits for an acquire (R283) -/
  | mem (all : Bool)
  /-- an acquire that waits for its group's acquires and releases under way (R283, R284, R297) -/
  | acq
  deriving DecidableEq, Repr

/-- Loop-buffer state (R466 to R468): the LBUF's address, its trip count, the trip, the place in the body, the
decoded body, the captured stride and the selectors. -/
structure LoopBuf where
  pc     : DWord
  trips  : Nat
  trip   : Nat
  place  : Nat
  body   : List (BitVec 10 × Op)
  stride : Word
  sel    : BitVec 128
  /-- its block has been resumed, and the body is to be decoded again (R468) -/
  stale  : Bool := false
  deriving DecidableEq, Repr

/-- One path (R165, R365): FX of regions 1 to 4 innermost last, the three hardware return entries innermost last. -/
structure Path where
  pc      : DWord
  mask    : Word
  depth   : Nat := 0
  rg      : Nat := 0
  fx      : List Word := []
  rc      : Nat := 0
  rets    : List DWord := []
  hold    : Hold := .none
  /-- its run has been granted, and left the issue slot before its first instruction, which waits (R171) -/
  begun   : Bool := false
  lastRun : Nat := 0
  loop    : Option LoopBuf := none
  deriving DecidableEq, Repr

/-- The registers of a group (R199). `v` is keyed by 32 × register + lane, `macc` and `mtail` by 256 × register +
index (R194). -/
structure Regs where
  v     : FMap Word := []
  a     : FMap DWord := []
  s     : FMap Word := []
  p     : FMap Word := []
  t     : FMap DWord := []
  macc  : FMap DWord := []
  mtail : FMap Word := []
  muse  : BitVec 8 := 0
  /-- entries of the banks with an uncorrectable error, by the keys of `v`, 4,096 + `a` and 8,192 + `s` (R190) -/
  bad   : List Nat := []
  deriving DecidableEq, Repr

/-- The asynchronous counters of a group (R289). -/
structure Counters where
  copy : Nat := 0
  arr  : Nat := 0
  qmu  : Nat := 0
  nest : Nat := 0
  deriving DecidableEq, Repr

/-- The engine classes (R289, R188). -/
inductive EngClass where
  | copy | arr | qmu | nest
  deriving DecidableEq, Repr

/-- What a parked group waits for (R169). -/
inductive ParkCond where
  /-- a drain seam (R164) -/
  | drain
  | waitn (cls : EngClass) (n : Nat)
  /-- a phase completion of a barrier object at a scratch offset (R437) -/
  | phase (off : Nat)
  | barBlk
  | barClu (k : Nat)
  /-- a memory word (R441): the request reading it, 0 when none is, and the REFTICK of its last read -/
  | word (req since : Nat)
  | sleep (until_ : Nat)
  | hitch (partner k : Nat) (donor : Bool)
  /-- a launch's commit or end (R474) -/
  | launch (ln : Nat)
  /-- DONE of a completion block (R476) -/
  | lwait (req since : Nat)
  | lcancel (ln : Nat)
  /-- a copy window still filling (R216) -/
  | window
  deriving DecidableEq, Repr

/-- The fields of a NOP. -/
def blankOp : Op :=
  { seam := 0, gp := 7, gi := false, ty := .none, d := 0, a := 0, b := 0, c := 0, mod := 0, ext := .one }

/-- A parked group: the slot and instruction that wait (a NOP at a drain seam), and what for. -/
structure Park where
  cond  : ParkCond
  slotB : Bool
  op    : Op := blankOp
  deriving DecidableEq, Repr

/-- Where an instruction stood when it issued: what a fault record says of it (R188). -/
structure Site where
  seq    : Nat
  pc     : DWord
  slotB  : Bool
  depth  : Nat
  mdepth : Nat
  fx     : Word
  inMeld : Bool
  lanes  : Word
  deriving DecidableEq, Repr

/-- A fault known to a group and not yet in a record (R187). -/
structure Cand where
  site  : Site
  code  : Nat
  prec  : Nat
  stat  : Nat
  lanes : Word
  aux   : Word
  addr  : DWord
  eng   : BitVec 16
  /-- seam-precise of an operation that holds no register: the group's next release takes it (R184) -/
  loose : Bool := false
  deriving DecidableEq, Repr

/-- The kinds of access, numbered as a page-fault record numbers them (R112), and prefetch. -/
inductive AccKind where
  | load | store | reduce | atom | fetch | copyRd | copyWr | prefetch
  deriving DecidableEq, Repr

/-- The atomic operators of R430; COPYR's add, min and max use the same. -/
inductive AtomOp where
  | add | min | max | and | or | xor | xch | cas | maxr
  deriving DecidableEq, Repr

/-- What an outstanding operation writes when it completes. -/
inductive Dest where
  | none
  /-- a general register per face, per lane -/
  | vec (x y : Nat)
  /-- a uniform register -/
  | uni (s : Nat)
  /-- a general register, the same value in every lane -/
  | all (x : Nat)
  /-- whole general registers from scratch (R427): the first and the number -/
  | rows (x n : Nat)
  deriving DecidableEq, Repr

/-- An outstanding memory operation of a group (R162, R183): parts still to be answered, values by lane (and row),
errors met, the acquire it is, the promotes it waits for. -/
structure LongOp where
  id     : Nat
  site   : Site
  kind   : AccKind
  ty     : Ty
  dest   : Dest
  left   : Nat
  vals   : FMap DWord := []
  errs   : List Cand := []
  deriving DecidableEq, Repr

/-- An outstanding engine operation of a group (R289, R290). -/
structure EngOp where
  id   : Nat
  cls  : EngClass
  site : Site
  done : Bool := false
  errs : List Cand := []
  deriving DecidableEq, Repr

/-- A group (R154, R175, R194). -/
structure Group where
  gid     : Nat
  role    : Nat
  gslot   : Nat
  w       : Nat
  n       : Nat
  segs    : List (Nat × Nat)
  nrun    : Nat × Nat
  r       : Regs := {}
  /-- pending registers with the operation that will write them (R162) -/
  pend    : List (Nat × Nat) := []
  cnt     : Counters := {}
  miles   : FMap Word := []
  /-- bytes of the descriptors issued by channel (R217) -/
  queued  : FMap Word := []
  ord     : FMap DWord := []
  pa      : Option Path := none
  pb      : Option Path := none
  arrA    : Bool := false
  arrB    : Bool := false
  park    : Option Park := none
  ops     : List LongOp := []
  engs    : List EngOp := []
  /-- the barrier objects, by block and scratch offset, that failed copies of the group will not signal (R184) -/
  unsent  : List (Nat × Nat) := []
  cands   : List Cand := []
  /-- by fork frame, the return count and entries of the last path to arrive there (R369) -/
  joined  : List (Nat × Nat × List DWord) := []
  /-- instructions issued (program order, R187) -/
  issued  : Nat := 0
  lastRun : Nat := 0
  lastRef : Nat := 0
  /-- R171 -/
  due     : Bool := false
  /-- stopped by a fault: no path issues again -/
  dead    : Bool := false
  /-- its record is made -/
  recorded : Bool := false
  exited  : Bool := false
  /-- stopped at a seam for the block's stop -/
  stopped : Bool := false
  /-- accesses numbered below this one precede a release the group has performed (R287) -/
  rels    : Nat := 0
  /-- by virtual address, what bytes of executable pages held before the group's own stores to them: its fetches read that until
  it acquires at clu or wider (R341) -/
  codeOld : FMap (Option Byte) := []
  deriving DecidableEq, Repr

/-- The latched description of a plane (R254). -/
structure PlaneDesc where
  fmt    : Nat
  nc     : Nat
  kb     : Nat
  meta_  : Bool
  sparse : Bool
  deriving DecidableEq, Repr

/-- Why a block is stopping (R178, R181, R151, R189). -/
inductive Stop where
  | save | flush | cancel | fault | migrate
  deriving DecidableEq, Repr

/-- A resident block (R154, R155). -/
structure Block where
  uid     : Nat
  core    : Nat
  key     : LaunchId
  lrec    : LaunchRec
  own     : Nat
  tile    : Nat
  ext     : Nat
  extLen  : Nat
  scr     : Nat
  divs    : Nat
  accts   : List Nat
  groups  : List Group
  stop    : Option Stop := none
  /-- asked to leave by drain (R178): no new block of its launch in its stead -/
  drain   : Bool := false
  records : List FaultRecord := []
  born    : Nat := 0
  mstat   : Bool := false
  /-- the descriptions ACTIVE and SHADOW will hold after every array operation issued so far (R454) -/
  expA    : Option PlaneDesc := none
  expS    : Option PlaneDesc := none
  /-- the re-issue entry a flush reserved -/
  requeue : Bool := false
  /-- since when its save waits for a page of the pool (R494) -/
  waits   : Option Nat := none
  deriving DecidableEq, Repr

/-- A partition's issue slot running a path slot of a group (R160). -/
structure Run where
  core  : Nat
  part  : Nat
  blk   : Nat
  gid   : Nat
  slotB : Bool
  count : Nat := 0
  /-- since when its instruction waits at issue (R116, R171), and the REFTICK of its last attempt -/
  stall : Option Nat := none
  tried : Nat := 0
  /-- it waits for room in a full side log, since `stall`: the address of its lowest lane, and its lanes (R116, R186) -/
  full  : Option DWord := none
  fullLanes : Word := 0
  deriving DecidableEq, Repr

/-- A saved block (R178, R193): the pool slot's address, what the header does not hold, the block as it was, and the core on which
its resume waits for a page of the pool, with the time since (R494). -/
structure Saved where
  slot  : DWord
  units : Nat
  block : Block
  waits : Option (Nat × Nat) := none
  deriving DecidableEq, Repr

/-! ### Copy channels (R214 to R218, R461) -/

/-- The kinds of transfer (R214). -/
inductive CopyKind where
  | fetch | spill | neighbour | weight
  deriving DecidableEq, Repr

/-- A descriptor and how far it has been carried out. -/
structure CopyDesc where
  op     : Nat
  blk    : Nat
  gid    : Nat
  kind   : CopyKind
  /-- a global address, or an offset in the block's program scratch or in the weight store -/
  src    : DWord
  /-- a global address, or an offset in the receiving block's program scratch -/
  dst    : DWord
  len    : Nat
  /-- the block whose scratch receives, and the offsets there of the mirror word and the barrier object -/
  rblk   : Nat
  mirror : Option Nat := none
  bar    : Option Nat := none
  red    : Option (AtomOp × Ty) := none
  /-- bytes delivered; the current beat: bytes read, bytes written, and the request under way -/
  done   : Nat := 0
  data   : List Byte := []
  sent   : Nat := 0
  req    : Option Nat := none
  /-- the bytes of this group's stream on the channel before this descriptor (R217) -/
  mark   : Word := 0
  failed : List Cand := []
  site   : Site
  /-- since when its next write waits for room in the side log (R116) -/
  stall  : Option Nat := none
  deriving DecidableEq, Repr

/-- One landing window (R216). -/
structure Window where
  blk  : Nat
  offs : Nat
  size : Nat
  deriving DecidableEq, Repr

/-! ### The fabric (R92, R110 to R118, R208, R222) -/

/-- One lane's piece of a request: its address, size, data and comparand. -/
structure Part where
  lane : Nat
  va   : DWord
  size : Nat
  data : DWord := 0
  cmp  : DWord := 0
  deriving DecidableEq, Repr

/-- Who sent a request. -/
inductive Agent where
  | group (blk gid op : Nat)
  | channel (core ch : Nat)
  | mpath (die : Nat)
  /-- a relay, the queue engine, the firmware or a Yeleno engine (R494), with what the access serves -/
  | unit (purpose arg : Nat)
  /-- a watchful read of WAITMEM or LWAIT -/
  | watch (blk gid : Nat)
  /-- another package, with its tag -/
  | peer (pkg tag : Nat)
  /-- an instruction fetch of a path slot (R341) -/
  | fetch (blk gid : Nat) (slotB : Bool)
  deriving DecidableEq, Repr

/-- Where a request stands: in the depot (R222), on its way, parked at its home (R111), answered with DEFER (R110),
translated and waiting for an expander with the REFTICK of its time-out, its epoch and the key of its line (R21), translated
and sent to the host with its epoch (R17), on its way to another package, performed, or failed. -/
inductive Phase where
  | depot
  | flying
  | parked (since : Nat)
  | deferred
  | cxl (due epoch key : Nat)
  | hosted (epoch : Nat)
  | away
  | answered
  | failed (stat cause : Nat)
  deriving DecidableEq, Repr

/-- A TLB entry (R103, R105): the leaf, where it stands, and the bits gathered. -/
structure TlbEntry where
  home   : Nat
  page   : DWord
  size   : Nat
  leaf   : DWord
  die    : Nat
  addr   : Nat
  bits   : BitVec 8 := 0
  since  : Nat := 0
  deriving DecidableEq, Repr

/-- A request for one 64-byte line, in flight between its agent and its home (R33). -/
structure Req where
  id    : Nat
  kind  : AccKind
  aop   : AtomOp := .add
  ty    : Ty := .n8
  core  : Nat
  who   : Agent
  /-- the line, or the scratch offset's line when `scr` -/
  line  : DWord
  parts : List Part
  scr   : Bool := false
  /-- requests that must have been performed before this one (R282, R283) -/
  deps  : List Nat := []
  acq   : Option Nat := none
  rel   : Option Nat := none
  phase : Phase := .flying
  /-- the order of sending (R426), and the REFTICK it was sent -/
  seq   : Nat := 0
  sent  : Nat := 0
  vals  : List DWord := []
  /-- its answer fills the line into the core's L1 (R208); of another package's request: its answer says that promotes are due
  (R287) -/
  fill  : Bool := false
  /-- the side-log slot it is replayed from (R117) -/
  slot  : Option Nat := none
  /-- the depot entry it was merged into, 0 for none (R223) -/
  merge : Nat := 0
  /-- messages of it that its home in another package has deferred: those a replay sends again (R113) -/
  held  : List Nat := []
  /-- its page came back while other messages of it were outstanding: those deferred are sent again after them (R117) -/
  retry : Bool := false
  /-- lanes of an atomic already performed when the stop of a watchpoint's hit held the rest back (R307) -/
  done  : Nat := 0
  /-- the REFTICK it left for an expander (R21, R55) -/
  began : Nat := 0
  /-- the leaf its home has translated it under (R105) -/
  leaf  : Option TlbEntry := none
  /-- the REFTICK it first met its page absent at its home, and its place in the order of arrival there (R117, R118) -/
  came  : Option (Nat × Nat) := none
  /-- of another package's request: its ADDR, which the completion echoes (R37), and the core and block it names for
  promotion (R287) -/
  addr  : DWord := 0
  of_   : Nat × Nat := (0, 0)
  /-- SRCID and PC of its initiator (R495, R305) -/
  srcid : BitVec 16 := 0
  pc    : DWord := 0
  deriving DecidableEq, Repr

/-- A side-log entry (R113): the request it defers, its slot, its page's home and when it was deferred. `handed` says
that its group handed it to the home's park table (R115). -/
structure SideEntry where
  slot   : Nat
  core   : Nat
  req    : Req
  home   : Nat
  page   : DWord
  since  : Nat
  handed : Bool := false
  deriving DecidableEq, Repr

/-- A page that stopped being absent (R117): the cores that have not replayed yet, and those whose done marker has not
arrived, with the replays it stands behind. -/
structure Wake where
  home  : Nat
  page  : DWord
  size  : Nat
  cores : List Nat
  marks : List (Nat × List Nat) := []
  deriving DecidableEq, Repr

/-- A line of an L1 (R208). -/
structure L1Line where
  core : Nat
  line : DWord
  data : List Byte
  deriving DecidableEq, Repr

/-- The release that last wrote some bytes (R287): its scope, and the package, core and block it came from. -/
structure RelMark where
  key   : Nat
  size  : Nat
  scope : Nat
  pkg   : Nat
  blk   : Nat
  core  : Nat
  deriving DecidableEq, Repr

/-- A promote on its way to a core (R287): the requests it waits for once received. -/
structure Promote where
  id    : Nat
  core  : Nat
  /-- the acquiring request -/
  req   : Nat
  waits : Option (List Nat) := none
  deriving DecidableEq, Repr

/-- The whole of memory and the fabric of the package. -/
structure Fabric where
  mem    : Memory := []
  /-- lines with an uncorrectable error, by key of their first byte (R15, R190) -/
  bad    : List Nat := []
  /-- lines with an uncorrectable error in a die cache alone (R190) -/
  cbad   : List Nat := []
  reqs   : List Req := []
  /-- answers that have reached a unit, a channel, a fetch or a watching group and wait to be taken -/
  got    : List Req := []
  side   : List SideEntry := []
  wakes  : List Wake := []
  tlb    : List TlbEntry := []
  l1     : List L1Line := []
  marks  : List RelMark := []
  proms  : List Promote := []
  /-- pages for which a page-fault record was posted and that are still absent (R112) -/
  posted : List (Nat × DWord) := []
  /-- acknowledgements of another package's SHOOTDOWN: the package, the command there, and the accesses translated before that
  are still under way (R108) -/
  shoots : List (Nat × Nat × List Nat) := []
  /-- packages that hold deferred entries for a page homed here: package, home, page (R117) -/
  peerDef : List (Nat × Nat × DWord) := []
  nextId : Nat := 1
  epoch  : Nat := 0
  /-- frame ranges in the siding: die, 4 for the second tier, 5 for host memory, 6 for a share on all four dies; address,
  length, stamp (R121) -/
  siding : List (Nat × Nat × Nat × Nat) := []
  deriving DecidableEq, Repr

/-! ### Engines (R254 to R270, R227, R463) -/

/-- A weight plane: its description, its owner, and its image's bytes (R256). -/
structure Plane where
  desc  : PlaneDesc := { fmt := 0, nc := 1, kb := 32, meta_ := false, sparse := false }
  owner : Option Nat := none
  img   : List Byte := []
  /-- an uncorrectable error stands in it (R190) -/
  bad   : Bool := false
  deriving DecidableEq, Repr

/-- The array operations (R449). -/
inductive ArrKind where
  | mstat (ws : Bool) (off : Nat) (d : PlaneDesc)
  | mswap
  | mswapRel
  | mstream (afmt : Nat) (scaled : Bool) (a b c : Nat) (chk : Option PlaneDesc)
  | mdrainScr (fold : Bool) (a b : Nat)
  | mdrainReg (fold : Bool) (op : Nat)
  | mfold
  | mzero
  deriving DecidableEq, Repr

/-- A queued array operation: the tile, rows and column blocks it names, its format and rounding, and the ordinal SR
draws from (R267). -/
structure ArrOp where
  op   : Nat
  blk  : Nat
  gid  : Nat
  kind : ArrKind
  t    : Nat := 0
  row0 : Nat := 0
  n    : Nat := 0
  cb0  : Nat := 0
  ncb  : Nat := 0
  ty   : Ty := .f32
  rm   : Nat := 0
  sat  : Bool := false
  ordn : DWord := 0
  mask : Word := 0
  deriving DecidableEq, Repr

/-- A booking entry: one group's queue, and the grants its head has seen since it became ready (R269, R270). -/
structure Booking where
  slot  : Nat
  blk   : Nat
  gid   : Nat
  ops   : List ArrOp
  low   : Nat := 0
  any   : Nat := 0
  deriving DecidableEq, Repr

/-- A cluster barrier entry (R440). -/
structure CluBar where
  key   : LaunchId
  k     : Nat
  count : Nat
  inside : List (Nat × Nat)
  deriving DecidableEq, Repr

/-- A cluster's array, accumulator and tail memories, booking table and barriers. `acc` and `tail` are keyed by
65,536 × physical tile + 256 × row + column. -/
structure Cluster where
  active : Plane := {}
  shadow : Plane := {}
  acc    : FMap DWord := []
  tail   : FMap Word := []
  /-- elements whose accumulator or tail has an uncorrectable error, by the keys of `acc` (R190) -/
  badAcc : List Nat := []
  book   : List Booking := []
  /-- the operation each port is carrying out: load, stream -/
  load   : Option ArrOp := none
  stream : Option ArrOp := none
  /-- the load port's operation waits for the window of a bank of the weight store (R212) -/
  wsWait : Bool := false
  /-- its grant made a free SHADOW the block's (R258) -/
  wsTook : Bool := false
  /-- the last entry granted at the load and at the stream port -/
  last   : Nat × Nat := (15, 15)
  bars   : List CluBar := []
  armed  : Bool := false
  deriving DecidableEq, Repr

/-- A queued NEST (R464). -/
structure NestOp where
  op   : Nat
  blk  : Nat
  gid  : Nat
  k    : Nat
  ty   : Ty
  d    : Nat
  a    : Nat
  b    : Nat
  p    : BitVec 180
  deriving DecidableEq, Repr

/-- A queued quarter-unit operation: it has taken its effect on the m register at issue, in order (R253). -/
structure QmuOp where
  blk : Nat
  gid : Nat
  /-- the engine operation it counts as (QMMA), or the long result it returns (QMOV) -/
  eng : Option Nat
  op  : Option Nat
  deriving DecidableEq, Repr

/-- A queued MPATH (R227, R469) and how far it has been carried out: Z once read, the best i for each diagonal so far,
the next row pointer to read, the next doubleword to write, and the request under way. -/
structure MpathOp where
  op    : Nat
  core  : Nat
  blk   : Nat
  gid   : Nat
  out   : DWord
  rows  : DWord
  n     : Nat
  p     : Nat
  site  : Site
  srcid : BitVec 16
  z     : Option Nat := none
  best  : List (Option Nat) := []
  /-- the row pointers read -/
  ptrs  : List Word := []
  pos   : Nat := 0
  sent  : Nat := 0
  req   : Option Nat := none
  failed : List Cand := []
  deriving DecidableEq, Repr

/-- What the cores hold (R128 apart). Cores are physical, numbered 64 × die + core. -/
structure Cores where
  blocks  : List Block := []
  runs    : List Run := []
  /-- the partition whose instruction is being executed: core and partition -/
  cur     : Option (Nat × Nat) := none
  /-- copy channels by core and channel, each a queue of descriptors -/
  chans   : List ((Nat × Nat) × List CopyDesc) := []
  windows : List (Nat × Window) := []
  saved   : List Saved := []
  /-- clusters by number 16 × die + cluster -/
  clus    : FMap Cluster := []
  nests   : List NestOp := []
  qmus    : List QmuOp := []
  /-- merge-path units by die -/
  mpaths  : List (Nat × MpathOp) := []
  nextUid : Nat := 1
  /-- the moment now in the order of R170, odd: a slot that becomes live takes it, a run that begins the next even number -/
  runSeq  : Nat := 1
  deriving DecidableEq, Repr

/-! ### Launch machinery (R123 to R153) -/

/-- The states of a walker context (R128); FREE is an absent context. -/
inductive CtxState where
  | reserved | armed | active | surrendering | hungry | closing
  deriving DecidableEq, Repr

/-- A walker context (R128). -/
structure Ctx where
  core    : Nat
  key     : LaunchId
  state   : CtxState := .reserved
  next    : Nat := 0
  last    : Nat := 0
  requeue : List Nat := []
  /-- re-issue entries reserved by a flush (R177) -/
  held    : Nat := 0
  /-- since when tile next waits for a place (R128) -/
  stall   : Option Nat := none
  /-- when a thief asks again, and whether other packages are being asked for it (R131) -/
  ask     : Nat := 0
  asked   : Bool := false
  /-- it has issued a tile (R143) -/
  began   : Bool := false
  deriving DecidableEq, Repr

/-- Who issued a launch: a group, or a command of a port. -/
inductive Issuer where
  | group (blk gid : Nat)
  | cmd (port id : Nat)
  /-- an issuer on another package, known by its package only -/
  | away (pkg : Nat)
  deriving DecidableEq, Repr

/-- What a die relay has answered (R134): nothing yet, no, or yes with a number of cores. -/
structure DieAns where
  die    : Nat
  asked  : Nat
  answer : Option (Option Nat) := none
  deriving DecidableEq, Repr

/-- No tile. -/
def noTiles : TileCounts := { retired := 0, never := 0, cancelled := 0 }

/-- A launch as its package relay holds it: the record copy (R125), the reserve in progress, the range dealt, and what
is counted here, by die (R134 to R140, R147, R149, R151). -/
structure PkgLaunch where
  key     : LaunchId
  lrec    : LaunchRec
  rsvto   : Nat
  dies    : List DieAns := []
  /-- the answer to the pod relay, and when it was given -/
  answer  : Option (AnswerMsg × Nat) := none
  s       : Option Nat := none
  lo      : Nat := 0
  hi      : Nat := 0
  canc    : Bool := false
  counts  : FMap TileCounts := []
  /-- tiles cancelled while resident (R151), and whether their list has been written -/
  cancd   : List Nat := []
  listed  : Bool := false
  first   : Option FaultRecord := none
  /-- the counts each die last reported up the chain, and when -/
  told    : FMap TileCounts := []
  toldAt  : FMap Nat := []
  deriving DecidableEq, Repr

/-- The states of a launch at its pod relay (R139); before RESERVING it waits, and has its completion block zeroed. -/
inductive PodState where
  | waiting | zeroing | reserving | committed | cancelling | done | ended
  deriving DecidableEq, Repr

/-- A launch as its pod relay holds it. -/
structure PodLaunch where
  seq     : Nat
  lrec    : LaunchRec
  recVa   : DWord
  issuer  : Issuer
  /-- the package whose relay received the LAUNCH, and its request there -/
  home    : Nat
  reqId   : Nat
  state   : PodState := .waiting
  start   : Nat := 0
  answers : List AnswerMsg := []
  prevS   : Nat := 0
  s       : Nat := 0
  /-- `DSP_RSVTO` as reserve carried it, and the tiles dealt to each package (R135, R140) -/
  rsvto   : Nat := 0
  dealt   : List (Nat × Nat) := []
  counts  : List (Nat × TileCounts) := []
  /-- first fault record of each package, and the fault count over the pod (R149) -/
  faults  : List (Nat × FaultRecord) := []
  nfaults : Nat := 0
  canc    : Bool := false
  /-- TILES as last written -/
  told    : Nat := 0
  /-- the line of the completion block being zeroed, and its request, or that of the write of DONE -/
  line    : Nat := 0
  req     : Option Nat := none
  /-- packages still asked whether a WLOAD keeps reserve from beginning, once asked (R83) -/
  clear   : Option (List Nat) := none
  /-- thieves the relay asks for, each with the packages still to try (R131) -/
  asks    : List (Nat × List Nat) := []
  /-- packages whose gathered bits are still to be written back, once asked (R106, R147) -/
  fin     : Option (List Nat) := none
  /-- one of its faults was NOPLACE (R152) -/
  noplace : Bool := false
  /-- DONE has been written and told (R147) -/
  doneTold : Bool := false
  deriving DecidableEq, Repr

/-- A LAUNCH, or a launch of a command, at its issuer's package relay (R125, R474): the record read so far, and what has
become of it. -/
structure LaunchReq where
  id     : Nat
  issuer : Issuer
  va     : DWord
  job    : Nat
  primax : Nat
  /-- the dies of the issuer's partition -/
  dies   : BitVec 4
  graph  : Option Nat := none
  /-- the REFTICK in which it reached the firmware (R83) -/
  came   : Nat := 0
  req    : Option Nat := none
  bytes  : List Byte := []
  /-- cancels that came before its record was read: kind, identifier, job (R150) -/
  cancels : List (Nat × Nat × Option Nat) := []
  /-- the pod relay's package, once forwarded there, and the launch where it is this package -/
  pod    : Option Nat := none
  seq    : Option Nat := none
  status : Option LaunchStatus := none
  s      : Nat := 0
  /-- one of its faults was NOPLACE (R152) -/
  noplace : Bool := false
  /-- tiles never started and the fault count, once DONE or ended (R82) -/
  result : Option (Nat × Nat × Bool) := none
  /-- the identifier entries it holds (R148) -/
  idents : List (Nat × Nat) := []
  deriving DecidableEq, Repr

/-- An identifier entry (R148): kind 1 graph, 2 phase, 3 job, as the CANCEL kinds number them. -/
structure Ident where
  kind   : Nat
  ident  : Nat
  opens  : Nat
  faults : Nat
  /-- commands that still have records to issue, or wait on it -/
  users  : Nat
  /-- the requests whose launches have joined it -/
  runs   : List Nat := []
  deriving DecidableEq, Repr

/-- Another package's running cancel (R150): that package, its name there (0: it wants no answer), what it names, the requests it waits
for here, and whether it has been answered. -/
structure ForeignCancel where
  pkg   : Nat
  token : Nat
  kind  : Nat
  ident : Nat
  job   : Option Nat
  runs  : List Nat
  told  : Bool := false
  deriving DecidableEq, Repr

/-- A relay message to another package (R29, VL 2). -/
inductive RelayMsg where
  | forward (r : LaunchRec) (va : DWord) (prevS : Nat)
  | status (key : LaunchId) (st : LaunchStatus) (start : Nat)
  /-- before reserve: whether a WLOAD holds banks of the mask, and that none does (R83) -/
  | banks (key : LaunchId) (mask : DWord)
  | banksFree (key : LaunchId)
  | reserve (m : ReserveMsg)
  | answer (m : AnswerMsg)
  | commit (m : CommitMsg)
  | rollback (key : LaunchId)
  | cancel (key : LaunchId)
  /-- a cancel by kind and identifier from another package, named for the answer, 0 for none; the tiles never started of the launches
  issued there; and the end of the cancel (R150) -/
  | cancelBy (token kind ident : Nat) (job : Option Nat)
  | cancelled (token never : Nat)
  | cancelOver (token : Nat)
  | counts (key : LaunchId) (c : TileCounts)
  | done (key : LaunchId) (never faults : Nat) (canc noplace : Bool)
  /-- the gathered bits are to be written back before DONE, and have been (R106, R147) -/
  | flush (key : LaunchId)
  | flushed (key : LaunchId)
  | fault (key : LaunchId) (r : FaultRecord)
  | lost (key : LaunchId) (tiles : Nat)
  /-- work for a thief, numbered 256 × package + 64 × die + logical core, and the range it gets (R131, R132) -/
  | ask (thief : Nat) (key : LaunchId)
  | range (thief : Nat) (key : LaunchId) (lo hi : Nat)
  /-- GTICK alignment (R47) -/
  | gtick (count : Nat)
  /-- the L1 invalidation of a pod-scope SHOOTDOWN, for a command there, and its acknowledgement (R108; VL 3) -/
  | inval (cmd : Nat) (va : DWord) (count : Nat)
  | invalDone (cmd : Nat)
  /-- a stop for every package of the pod: its target, and whether the smaller target stands (R309, R310; VL 3) -/
  | stopAt (target : DWord) (lower : Bool)
  /-- a watch set by another package, and a hit reported to it (R303; VL 3): the watchpoint's number there -/
  | watchSet (n : Nat) (line wpm wpv wpvm : DWord) (mode : Nat)
  | watchHit (n : Nat) (h : WatchHit)
  /-- the cause of the XLTFAULT with which the request of a tag fails (R101; log entry 90) -/
  | cause (tag cause : Nat)
  /-- DEFER for a tag, the signal that a page is no longer absent, and the done marker (R110, R117) across packages -/
  | defer (tag : Nat)
  | present (home : Nat) (page : DWord) (size : Nat)
  | marker (home : Nat) (page : DWord)
  deriving DecidableEq, Repr

/-- The launch machinery of a package. -/
structure Launches where
  ctxs   : List Ctx := []
  pkgs   : List PkgLaunch := []
  pods   : List PodLaunch := []
  reqs   : List LaunchReq := []
  idents : List Ident := []
  /-- other packages' launches that asked for the banks of a mask before reserve, and whether they were told that no WLOAD holds
  them (R83) -/
  clears : List (LaunchId × DWord × Bool) := []
  /-- running cancels of LCANCEL by kind, identifier and job, with what they wait for, as a CANCEL command does (R150) -/
  lcancels : List (Nat × Nat × Nat × List Nat) := []
  /-- questions about a cancel put to other packages, with their answers; and other packages' running cancels (R150) -/
  asked    : List (Nat × Option Nat) := []
  foreign  : List ForeignCancel := []
  /-- launches this package has reported LAUNCHLOST for, whose list of R151 it may have to end -/
  lost     : List (LaunchId × LaunchRec) := []
  nextSeq : Nat := 0
  nextReq : Nat := 1
  /-- dies held by QUIESCE (R84) -/
  holds  : List Nat := []
  /-- partitions configured so far: number, job, dies, 12 shares; a removed one has no job, written 2^24 (R85) -/
  parts  : List (Nat × Nat × BitVec 4 × List Nat) := []
  /-- lifetimes of retired blocks by launch and die, newest first, at most 16 (R177) -/
  lives  : List ((LaunchId × Nat) × List Nat) := []
  deriving DecidableEq, Repr

/-! ### Queues and Yeleno commands (R75 to R82) -/

/-- The states of a launch port (R75), numbered as STATE numbers them. -/
inductive PortState where
  | unbound | idle | running | paused | faulted
  deriving DecidableEq, Repr

/-- A launch port: its registers, wake-table entries of ports A and B (R18), completion count and quantum counter. -/
structure LPort where
  state : PortState := .unbound
  port  : Bool := false
  part  : BitVec 3 := 0
  primax : BitVec 2 := 0
  sz    : BitVec 4 := 0
  vec   : BitVec 16 := 0
  head  : Word := 0
  base  : DWord := 0
  cbase : DWord := 0
  cc    : Nat := 0
  /-- 0: no quantum; else one more than the REFTICKs left -/
  qcnt  : Nat := 0
  /-- one more than the REFTICK in which the port last left RUNNING; 0 before -/
  edge  : Nat := 0
  wakeA : Word := 0
  wakeB : Word := 0
  /-- the request reading the next ring entry -/
  fetch : Option Nat := none
  deriving DecidableEq, Repr

/-- A command read from a ring (R79) and how far it has been carried out: a step number, a request in flight, two
numbers, the launches it issued and the status it will report. -/
structure Cmd where
  id      : Nat
  port    : Nat
  count   : Word
  bytes   : List Byte
  started : Bool := false
  step    : Nat := 0
  idx     : Nat := 0
  acc     : Nat := 0
  since   : Nat := 0
  req     : Option Nat := none
  runs    : List Nat := []
  status  : Option (BitVec 8) := none
  value   : DWord := 0
  data    : List Byte := []
  /-- frames it has freed and not yet put into the siding: space, address, length -/
  frames  : List (Nat × Nat × Nat) := []
  /-- accesses it waits for -/
  waits   : List Nat := []
  deriving DecidableEq, Repr

/-- The queue engine (R75) and the engines that carry out commands. -/
structure Queues where
  ports  : FMap LPort := []
  cmds   : List Cmd := []
  nextId : Nat := 1
  /-- weight-store ranges of WLOADs in progress: command, die mask, offset, length (R83) -/
  wloads : List (Nat × BitVec 4 × Nat × Nat) := []
  /-- identifiers a running CANCEL names: kind, identifier (R150) -/
  cancels : List (Nat × Nat × Nat) := []
  deriving DecidableEq, Repr

/-! ### Links (R16 to R37) -/

/-- A message of R29: a 16-byte header and its data slots. -/
structure Packet where
  hdr  : BitVec 128
  data : List Byte := []
  /-- what a relay message says; the spec gives its slots no layout (log entry 14) -/
  relay : Option RelayMsg := none
  deriving DecidableEq, Repr

/-- The states of a Coupler port (R23). -/
inductive CplrState where
  | disabled | detect | poll | align | equal | config | active | retrain
  deriving DecidableEq, Repr

/-- A Coupler port (R23 to R31). -/
structure CplrPort where
  state  : CplrState := .disabled
  since  : Nat := 0
  lanes  : BitVec 8 := 0
  /-- WIDTH as CPLR_PSTAT codes it -/
  width  : Nat := 0
  num    : Option Nat := none
  seq    : Nat := 0
  expect : Nat := 0
  good   : Option Nat := none
  waiting : Bool := false
  replay : List (Nat × List Byte) := []
  /-- the next stored flit to resend in a replay under way -/
  resend : Option Nat := none
  /-- the ACKSEQ the last replay began from, 4,096 standing for none, and how many in a row did -/
  nakAt  : Option Nat := none
  naks   : Nat := 0
  stopIn : BitVec 4 := 0
  stopOut : BitVec 4 := 0
  /-- flits held in the receive buffer of each virtual lane -/
  rx     : FMap (List (List Byte)) := []
  retrains : List Nat := []
  loop   : Bool := false
  /-- in RETRAIN: 1 once EQUAL is passed again, 2 once CONFIG is (R23) -/
  passed : Nat := 0
  /-- it has entered ACTIVE and sent no flit since (R25) -/
  fresh  : Bool := false
  /-- the REFTICK at which EN was last written 1, and one; 0 for never (R73) -/
  tried  : Nat := 0
  deriving DecidableEq, Repr

/-- A control port's link (R16, R69, R71, R72). -/
structure UciePort where
  /-- 0 RESET, 1 in training, 2 ACTIVE -/
  ltsm  : Nat := 0
  /-- the REFTICK its training began, and the state of R71 a training stands in: 1 SBINIT to 4 LINKINIT -/
  since : Nat := 0
  stage : Nat := 1
  mods  : BitVec 2 := 0
  down  : Bool := false
  /-- held interrupt vectors, oldest first (R19) -/
  held  : List (BitVec 16) := []
  /-- messages that stand behind a memory write of their port (R295) -/
  later : List (Instr × Input) := []
  deriving DecidableEq, Repr

/-- What has left the package, oldest first. -/
inductive Out where
  | intr (port : Nat) (vec : BitVec 16)
  | host (port : Nat) (p : Packet)
  /-- the control core is interrupted: a service core has been reset (R60) -/
  | control (n : Nat)
  /-- a request to the expander of a CXL port: the request and the address there (R20) -/
  | cxl (port id addr : Nat)
  | flit (k : Nat) (bytes : List Byte)
  /-- what a relay or management message in a flit says, its slots having no layout (log entry 14) -/
  | told (pkg : Nat) (m : RelayMsg)
  deriving DecidableEq, Repr

/-- An outstanding message of a request to another package (R33, R37), or to the host as package 512 (R17): the request, the
piece of it that an atomic's message carries, the granule, the plane it was sent on, its time-out (0: none), and whether that
has passed: the message then only keeps its granule's order until its completion comes. -/
structure Away where
  id       : Nat
  piece    : Nat
  pkg      : Nat
  tag      : Nat
  granule  : Nat
  plane    : Option Nat := none
  due      : Nat
  /-- the REFTICK it was first sent (R34, R55) -/
  began    : Nat := 0
  out      : Bool := false
  /-- its ERR of XLTFAULT has come, or the cause that belongs to it: the request fails with the second of the two (log entry 90) -/
  err      : Bool := false
  cause    : Option Nat := none
  deriving DecidableEq, Repr

structure Links where
  ucie  : List UciePort := [{}, {}]
  cplr  : FMap CplrPort := []
  pkg   : Option Nat := none
  /-- the number the package last had: addresses of its own keep it while it has none (log entry 6) -/
  last  : Nat := 0
  mgmt  : Option Nat := none
  /-- messages waiting for a plane, with virtual lane and destination -/
  queue : List (Nat × Nat × Packet) := []
  away  : List Away := []
  /-- tags of timed-out requests, not reused until the tick given (R33) -/
  dead  : List (Nat × Nat) := []
  nextTag : Nat := 0
  /-- trained expanders: capacity in bytes by CXL port (R20, R21) -/
  cxl : FMap Nat := []
  /-- the CXL ports that the HDM decoders interleave, as the firmware has programmed them at boot (R20) -/
  hdm : List Nat := []
  /-- the share of each of them, in bytes, at that time -/
  hdmCap : Nat := 0
  /-- ports whose expander offered only unsupported modes, as logged (R20) -/
  cxlLog : List Nat := []
  deriving DecidableEq, Repr

/-! ### Clocks, thermal state, firmware, debug -/

/-- Time and pins (R43, R47 to R49, R53, R57). -/
structure Clock where
  ref    : Nat := 0
  /-- tenths of a REFTICK passed since: the model's own (log entry 2) -/
  sub    : Nat := 0
  gt     : Nat := 0
  run    : Bool := false
  sync   : Bool := false
  master : Bool := false
  mpkg   : Nat := 0
  /-- GTICK when the master's count last came, or when the package joined the pod (log entry 91) -/
  heard  : Nat := 0
  /-- the last measured offset from the master, and the correction still to be slewed (R47) -/
  offs   : Int := 0
  adj    : Int := 0
  thermtrip : Bool := true
  fwfail : Bool := true
  hostload : Bool := false
  /-- every clock domain gated by a debug stop (R309) -/
  stopped : Bool := false
  /-- rails removed after a trip (R53) -/
  tripped : Bool := false
  deriving DecidableEq, Repr

/-- Regulator and clock state of a cluster that its registers do not show (R42, R44, R55): the REFTICK at which its
rails reach their targets, a relock under way, and since when its clock is gated. -/
structure ClusterPower where
  slewing : Bool := false
  /-- VCL, VTA, VTB and VTC as they stand, in steps of 0.5 mV above 0.50 V (R42) -/
  rails  : List Nat := [200, 200, 200, 200]
  relock : Bool := false
  /-- the REFTICK by which the PLL locks (R44) -/
  lockAt : Nat := 0
  gatedAt : Nat := 0
  /-- the REFTICKs at which its rails last began to slew and its last relock began (R56) -/
  slewAt : Nat := 0
  clfAt  : Nat := 0
  deriving DecidableEq, Repr

/-- Thermal bookkeeping (R53, R54): last samples by sensor key, warm flags, migration requests with their next retry,
and migrations under way as (source, target, step). -/
structure Thermal where
  temps  : FMap Nat := []
  warm   : List Nat := []
  wants  : List (Nat × Nat) := []
  moves  : List (Nat × Nat × Nat) := []
  power  : FMap ClusterPower := []
  /-- the valid rows of the power table: FMUL, VCL code and cadence ceiling (R45) -/
  rows   : FMap (Nat × Nat × Nat) := []
  /-- stack-warm state latched at the last phase 0, by die (R212) -/
  wlen   : FMap Nat := []
  /-- partitions in an episode of short bandwidth (R86) -/
  short  : List Nat := []
  /-- since when VSR of a die lies in range: the REFTICK and one (R57) -/
  vsr    : FMap Nat := []
  /-- dies whose VCL the firmware has removed (R56) -/
  dark   : List Nat := []
  deriving DecidableEq, Repr

/-- The stages of a boot (R61 to R65). -/
inductive Boot where
  | held | rom | hostWait | firmware | failed
  deriving DecidableEq, Repr

/-- A core of the firmware complex as the ROM and resets leave it (R59 to R61): its pc, integer and floating-point registers, mode
(3 machine), MMU, and its other control and status registers by number. The spec's opcode table has none of its instructions; its
accesses of memory are `FwAccess`. -/
structure FwCore where
  pc    : DWord := 0
  regs  : FMap DWord := []
  fregs : FMap DWord := []
  mode  : Nat := 3
  satp  : DWord := 0
  csrs  : FMap DWord := []
  deriving DecidableEq, Repr

/-- The firmware complex (R59 to R68). -/
structure Firmware where
  /-- the control core, 0, and the service cores, 1 to 6 -/
  cores  : FMap FwCore := []
  /-- the entries of the service cores' images -/
  entries : FMap Nat := []
  boot   : Boot := .held
  down   : Bool := false
  service : BitVec 6 := 0
  meas   : FMap (BitVec 512) := []
  mext   : BitVec 512 := 0
  semLast : FMap Nat := []
  revoked : BitVec 4 := 0
  svn    : DWord := 0
  svnNow : Nat := 0
  secret : Bool := true
  idKey  : BitVec 256 := 0
  aliasKey : BitVec 256 := 0
  aliasCert : List Byte := []
  /-- the entry offset the ROM has jumped to (R61) -/
  entry : Nat := 0
  wdog   : FMap Nat := []
  /-- page-fault records held for the ring, in order, and the counts of R112 -/
  pf     : List (List Byte) := []
  pfSeq  : Nat := 0
  pfTail : Nat := 0
  elSeq  : Nat := 0
  elTail : Nat := 0
  /-- a record is on its way into the host ring; accepted entries of the error log with their counts, the lines of the oldest
  on their way, and whether one of them has failed (R112, R192) -/
  pfBusy : Bool := false
  el     : List (Nat × List Byte) := []
  elBusy : Nat := 0
  elBad  : Bool := false
  /-- training steps under way: stack, mode and the REFTICK it began -/
  training : List (Nat × Nat × Nat) := []
  /-- stacks that leave reset (0) or become operational (8), and since when; those that have failed a step, and the modes each has
  passed, as a mask (R70, R74) -/
  rising   : List (Nat × Nat × Nat) := []
  failed   : List Nat := []
  passed   : FMap Nat := []
  /-- the REFTICK at which the firmware began (R56) -/
  began    : Nat := 0
  /-- the SPDM messages since the last GET_VERSION (R65, log entry 30) -/
  spdm     : List Byte := []
  deriving DecidableEq, Repr

/-- A watchpoint of another package on a line homed here (R303): the package, its number there, and its settings. -/
structure RemoteWatch where
  pkg  : Nat
  n    : Nat
  line : DWord
  wpm  : DWord
  wpv  : DWord
  wpvm : DWord
  mode : Nat
  /-- a hit stops that package; the last GTICK in which its stop may still come, once one has hit (R306, R307) -/
  stop : Bool := false
  hold : Option Nat := none
  deriving DecidableEq, Repr

/-- The debug unit (R298 to R309): lane-cycle counts keyed by 128 × core + 4 × bin + class, with ACTIVE, DIVERGED,
PREDOFF and ABSENT as classes 0 to 3; event counts by counter; trace records not yet in the ring. -/
structure Debug where
  lanes  : FMap DWord := []
  /-- the instructions each partition has issued in this REFTICK, by 4 × core + partition (R299) -/
  slots  : FMap Nat := []
  evc    : FMap DWord := []
  /-- trace records that wait for the ring, each with the REFTICK it was made in (R308) -/
  trace  : List (Nat × List Byte) := []
  /-- watchpoints other packages have set on lines homed here (R303) -/
  remote : List RemoteWatch := []
  /-- a hit has armed a stop: writes to watched lines are held back, and the copy channels whose writes hit (R307) -/
  halt   : Bool := false
  halted : List (Nat × Nat) := []
  deriving DecidableEq, Repr

/-- An error that befalls a memory of the package (R15, R190): what the machine's surroundings do, at no time of its own. -/
inductive Upset where
  /-- a line of HBM, the weight store, scratch or the second tier that can no longer be corrected -/
  | line (key : Nat)
  /-- the same in a die cache only -/
  | cached (key : Nat)
  | l1 (core : Nat) (line : DWord)
  /-- a register of a group: its key among the bad ones -/
  | register (blk gid key : Nat)
  /-- an element of a cluster's accumulators, its tail with it -/
  | element (cl key : Nat)
  /-- the ACTIVE or the SHADOW plane of a cluster -/
  | plane (cl : Nat) (shadow : Bool)
  /-- a corrected error in an array of a die, or in a stack -/
  | corrected (die : Nat)
  | stackCorrected (stack : Nat)
  deriving DecidableEq, Repr

/-- An access of memory by a core of the firmware complex, 0 the control core and 1 to 6 the service cores: it is physical and
untranslated (R59), so it names a memory space and an address there. -/
inductive FwAccess where
  | store (core space addr : Nat) (bytes : List Byte)
  /-- into integer register rd -/
  | load (core rd space addr size : Nat)
  deriving DecidableEq, Repr

/-- One turn of the machine: an event with its operands, an error of a memory, an access of a firmware core, or one instruction of a
partition's run. -/
inductive Turn where
  | event (i : Instr) (x : Input)
  | upset (u : Upset)
  | firm (a : FwAccess)
  | issue (core part : Nat)
  deriving DecidableEq, Repr

/-- The state of one package. -/
structure State where
  /-- which turn comes next, as plain data of the model (log entry 2) -/
  agenda : List Turn := []
  /-- what the outside world will do, and the REFTICK of each: the model's own (log entry 2) -/
  outside : List (Nat × Turn) := []
  /-- turns that wait until the clock of their cluster runs again (R55): the model's own (log entry 2) -/
  frozen : List Turn := []
  /-- the operands of the event being taken -/
  inp    : Input := {}
  /-- the counter behind the free values of Config (log entry 2) -/
  free   : Nat := 0
  clk    : Clock := {}
  /-- device registers that are plain storage, keyed by Machine/Regs.lean -/
  dev    : FMap DWord := []
  fab    : Fabric := {}
  cores  : Cores := {}
  lau    : Launches := {}
  que    : Queues := {}
  lnk    : Links := {}
  th     : Thermal := {}
  fw     : Firmware := {}
  dbg    : Debug := {}
  sent   : List Out := []
  deriving DecidableEq, Repr

/-- Why the machine stops. -/
inductive Fault where
  /-- A Dreoth instruction is executed while no run holds the issue slot. Raised by the shared issue wrapper in a
  state no step reaches: the step sets `cur` first. Safe: the hardware has no such state. -/
  | noIssue
  deriving DecidableEq, Repr

/-- Why an instruction has no meaning in this model. -/
inductive Refusal where
  /-- An arm of `exec` that has no meaning yet. Safe: the machine stops. -/
  | notModelled (mnemonic : String)
  deriving DecidableEq, Repr

/-- The machine right after reset: every register at the value the spec gives for it (the tables of Machine/Regs.lean
read an unlisted register as that value), every other field at the value log entry 5 names, memory with nothing
listed, and power-on reset (R61) as the first turn (log entry 3). -/
def State.reset : State := { agenda := [.event .powerOnReset {}] }

end Sys2Proof.Machine
end

