-- ==== Sys2Proof/Machine/Regs.lean ====
section
/-! DEFINITION. Device registers as storage: where each lies, what it resets to, and which of its bits a write sets,
clears or leaves (R7 and the register tables of the chapters). -/

namespace Sys2Proof.Machine
open Sys2Proof

/-- The number of a register name. -/
def regCode : RegName → Nat
  | .pwrVcl => 0
  | .pwrVtail => 1
  | .clkClf => 2
  | .pwrCstat => 3
  | .cxaCad => 4
  | .pwrPlim => 5
  | .pwrGatecnt => 6
  | .pwrRstat => 7
  | .clkRefstat => 8
  | .clkGtctl => 9
  | .clkGtstat => 10
  | .hbmTctl => 11
  | .hbmTstat => 12
  | .hbmCecnt => 13
  | .uciPctl => 14
  | .uciPstat => 15
  | .uciSbdrop => 16
  | .uciBadop => 17
  | .cxlReqto => 18
  | .cxlLate => 19
  | .cplrPctl => 20
  | .cplrPstat => 21
  | .cplrVlthr => 22
  | .cplrBadft => 23
  | .cplrBadop => 24
  | .cplrOvfl => 25
  | .cplrLate => 26
  | .cplrE2eto => 27
  | .fwcBstat => 28
  | .fwcBgo => 29
  | .fwcWdog => 30
  | .fwcMext => 31
  | .fwcMextgo => 32
  | .fwcSem => 33
  | .fwcSemrel => 34
  | .fwcSemerr => 35
  | .queCtl => 36
  | .queIstat => 37
  | .queQuant => 38
  | .queHead => 39
  | .queGo => 40
  | .queBase => 41
  | .queCbase => 42
  | .dspLmap => 43
  | .hbmShort => 44
  | .xltRootl => 45
  | .xltRoots => 46
  | .xltRoot5 => 47
  | .xltRoot6 => 48
  | .xltHring => 49
  | .xltHvec => 50
  | .xltHhead => 51
  | .xltPfto => 52
  | .xltSlstat => 53
  | .xltStat => 54
  | .xltEpoch => 55
  | .xltQcnt => 56
  | .dspStallto => 57
  | .dspRsvto => 58
  | .dspLead => 59
  | .dspFragcnt => 60
  | .dspSpbase => 61
  | .dspSpsize => 62
  | .fwcElog => 63
  | .fwcElvec => 64
  | .fwcElhead => 65
  | .fwcEllost => 66
  | .fidErr => 67
  | .fidInj => 68
  | .dbgLclo => 69
  | .dbgLchi => 70
  | .dbgLca => 71
  | .dbgLcd => 72
  | .dbgLcp => 73
  | .dbgLcx => 74
  | .dbgLcidle => 75
  | .evcSel => 76
  | .evcCnt => 77
  | .evcStat => 78
  | .dbgWpa => 79
  | .dbgWpm => 80
  | .dbgWctl => 81
  | .dbgWpv => 82
  | .dbgWpvm => 83
  | .dbgWstat => 84
  | .dbgWhpc => 85
  | .dbgWhid => 86
  | .dbgWhgt => 87
  | .dbgWhd => 88
  | .dbgTrbase => 89
  | .dbgTrsz => 90
  | .dbgTrctl => 91
  | .dbgTrhead => 92
  | .dbgTrlost => 93
  | .dbgStopc => 94
  | .dbgStopt => 95
  | .fwcMeas => 96
  | .pwrTable => 98
  | .clkVfmin => 97

/-- Where instance i of a register lies in the store. -/
def regKey (r : RegName) (i : Nat) : Nat := regCode r * 65536 + i % 65536

/-- The value of a register right after reset (the Reset columns of the chapters; 0 where the spec gives none, log
entry 5). -/
def regReset : RegName → DWord
  | .pwrVcl => 0x140014
  | .pwrVtail => 0x141414
  | .clkClf => 0x12
  | .pwrCstat => 1
  | .cxaCad => 0x10101
  | .pwrPlim => 0x320
  | .cxlReqto => 0xC350
  | .cplrVlthr => 0x40404040
  | .cplrE2eto => 0x00E4E1C0
  | .xltPfto => 0x00989680
  | .dspStallto => 20000
  | .dspRsvto => 100000
  | .dspLead => 50000
  | _ => 0

/-- A register's stored value. The store holds the difference from the reset value, so that reset lists nothing. -/
def State.reg (s : State) (r : RegName) (i : Nat) : DWord :=
  FMap.get 0 s.dev (regKey r i) ^^^ regReset r

/-- Sets a register's stored value. -/
def State.setReg (s : State) (r : RegName) (i : Nat) (v : DWord) : State :=
  { s with dev := FMap.set 0 s.dev (regKey r i) (v ^^^ regReset r) }

/-- Bits lo to lo + w − 1 of a register. -/
def State.field (s : State) (r : RegName) (i lo w : Nat) : Nat := (s.reg r i).toNat / 2 ^ lo % 2 ^ w

/-- The clock of a core's cluster is gated (R53, R55): REFTICK time-outs of what the cluster issued stand still. -/
def State.standsStill (s : State) (core : Nat) : Bool := decide (core < 256) && s.field .clkClf (core / 4) 30 1 == 1

/-- The end-to-end time-out in force (R34). -/
def State.e2eto (s : State) : Nat := max 10000 ((s.reg .cplrE2eto 0).toNat % 2 ^ 32)

/-- Sets bits lo to lo + w − 1 of a register. -/
def State.setField (s : State) (r : RegName) (i lo w x : Nat) : State :=
  let old := (s.reg r i).toNat
  s.setReg r i (BitVec.ofNat 64 (old - old / 2 ^ lo % 2 ^ w * 2 ^ lo + x % 2 ^ w * 2 ^ lo))

/-! ### Interrupts (R17, R19) -/

/-- A control port has reached its active state and stands in it (R16, R71). -/
def State.portUp (s : State) (port : Nat) : Bool :=
  match s.lnk.ucie[port]? with
  | some p => p.ltsm == 2
  | none => false

/-- Changes a control port. -/
def State.modUcie (s : State) (port : Nat) (f : UciePort → UciePort) : State :=
  let one (i : Nat) : UciePort := if i = port then f (s.lnk.ucie.getD i {}) else s.lnk.ucie.getD i {}
  { s with lnk := { s.lnk with ucie := (List.range s.lnk.ucie.length).map one } }

/-- Sends an interrupt through a control port, or holds it until the port is active (R19). -/
def State.sendIntr (s : State) (port : Nat) (vec : BitVec 16) : State :=
  if s.portUp port then { s with sent := s.sent ++ [.intr port vec] }
  else s.modUcie port fun p => { p with held := p.held ++ [vec] }

/-- The next value of the counter behind the free values (log entry 2). -/
def State.draw (s : State) : State := { s with free := s.free + 1 }

/-- A free number of the machine's (log entry 2). -/
def State.freeNat (s : State) : Nat := Config.freeNat s.free

end Sys2Proof.Machine
end

