-- ==== Sys2Proof/Machine/Xlate.lean ====
section
/-! DEFINITION. Virtual addresses, homes, the table walk and the checks a home makes (R90 to R109). -/

namespace Sys2Proof.Machine
open Sys2Proof

/-! ### Spaces of memory -/

/-- The key of an address in a memory space. -/
def spaceKey (space addr : Nat) : Nat := space * 2 ^ 50 + addr

/-- HBM of a compute die is the space of its number; the second tier is space 4 and host memory space 5. -/
def tierSpace : Nat := 4
def hostSpace : Nat := 5
/-- The weight store of a die (R210). -/
def wsSpace (die : Nat) : Nat := 6 + die
/-- Scratch of a physical core (R204). -/
def scratchSpace (core : Nat) : Nat := 32 + core
/-- Control SRAM (R59). -/
def ctlSpace : Nat := 10
/-- SRAM of service core n, 0 to 5 (R59). -/
def serviceSpace (n : Nat) : Nat := 11 + n
/-- Boot flash. -/
def flashSpace : Nat := 17

/-- Bytes of HBM behind one die (R14, R100). -/
def hbmBytes : Nat := 240 * 2 ^ 30

/-! ### Virtual addresses (R90 to R93) -/

def vaPkg (va : DWord) : Nat := (va.extractLsb' 47 9).toNat
def vaRgn (va : DWord) : Nat := (va.extractLsb' 44 3).toNat
def vaOffs (va : DWord) : Nat := (va.extractLsb' 0 44).toNat

/-- This package's number; while it has none, the last it had, 0 at reset (log entry 6). -/
def State.own (s : State) : Nat := s.lnk.pkg.getD s.lnk.last

/-- R91: an address the requester may send. -/
def vaLegal (va : DWord) : Bool :=
  va.extractLsb' 56 8 == 0 && vaRgn va != 7 && (vaPkg va < 288 || vaPkg va == 0x1FF)

/-- PKG 0x1FF replaced by the own package's number (R91). -/
def State.resolve (s : State) (va : DWord) : DWord :=
  if vaPkg va = 0x1FF then (va &&& 0xFF007FFFFFFFFFFF) ||| (BitVec.ofNat 64 s.own <<< 47) else va

/-- The home lies in this package. -/
def State.isOwn (s : State) (va : DWord) : Bool := vaPkg (s.resolve va) == s.own

/-- XOR of every other bit of a VA from `lo`, 16 of them (R93). -/
def xorBits (va : DWord) (lo : Nat) : Bool :=
  (List.range 16).foldl (fun acc i => acc != va.getLsbD (lo + 2 * i)) false

/-- The home of an address inside its package: a compute die, or 4 for I/O die 1 (R92, R93). -/
def homeOf (va : DWord) : Nat :=
  let rgn := vaRgn va
  if rgn ≤ 3 then rgn
  else if rgn = 4 then 2 * (xorBits va 13).toNat + (xorBits va 12).toNat
  else 4

/-- The 64-byte line of an address. -/
def lineOf (va : DWord) : DWord := va &&& 0xFFFFFFFFFFFFFFC0

/-- The 64 KiB page of an address. -/
def pageOf (va : DWord) : DWord := va &&& 0xFFFFFFFFFFFF0000

/-! ### The walk (R96 to R98) -/

/-- What a walk finds. -/
inductive Walk where
  | unmapped
  | malformed
  /-- an entry of a table lies in a line with an uncorrectable error (R15, R190) -/
  | uncorr
  /-- a leaf: the entry, its page size, and the die and address that hold it -/
  | leaf (e : DWord) (size die addr : Nat)
  deriving DecidableEq, Repr

/-- The root of a region's tree at a home (R96). -/
def State.root (s : State) (home rgn : Nat) : DWord :=
  if rgn ≤ 3 then s.reg .xltRootl home
  else if rgn = 4 then s.reg .xltRoots home
  else if rgn = 5 then s.reg .xltRoot5 0
  else s.reg .xltRoot6 0

def leafPlace (e : DWord) : Nat := (e.extractLsb' 61 2).toNat
def leafFrame (e : DWord) : Nat := (e.extractLsb' 12 36).toNat * 4096
def leafRd (e : DWord) : Bool := e.getLsbD 59
def leafWr (e : DWord) : Bool := e.getLsbD 58
def leafFx (e : DWord) : Bool := e.getLsbD 57
def leafMig (e : DWord) : Bool := e.getLsbD 56

/-- Bytes a page takes in its target memory on one die (R100). -/
def frameBytes (e : DWord) (size : Nat) : Nat := if leafPlace e = 1 then size / 4 else size

/-- A valid leaf that breaks R98. -/
def leafBad (e : DWord) (size : Nat) : Bool :=
  e.extractLsb' 48 7 != 0 || e.extractLsb' 0 12 != 0
    || e.getLsbD 60 != (size == 2 ^ 21)
    || leafFrame e % frameBytes e size != 0
    || (leafPlace e ≤ 1 && hbmBytes < leafFrame e + frameBytes e size)

/-- A valid pointer that breaks R98. -/
def pointerBad (e : DWord) : Bool :=
  e.extractLsb' 48 7 != 0 || e.extractLsb' 0 12 != 0 || e.extractLsb' 56 7 != 0
    || hbmBytes < leafFrame e + 8192

/-- The levels of R97: low bit of the index, its width, whether a pointer and whether a leaf may stand there, and a
leaf's page size. -/
def walkLevels : List (Nat × Nat × Bool × Bool × Nat) :=
  [(39, 5, true, false, 0), (30, 9, true, false, 0), (21, 9, true, true, 2 ^ 21), (16, 5, false, true, 2 ^ 16)]

/-- Walks the remaining levels from a table at `addr` in the HBM of `die`; `bad` lists the lines with uncorrectable
errors. -/
def walkFrom (m : Memory) (bad : List Nat) (offs die : Nat) : List (Nat × Nat × Bool × Bool × Nat) → Nat → Walk
  | [], _ => .malformed
  | (lo, w, ptrOk, leafOk, size) :: rest, addr =>
    let a := addr + 8 * (offs / 2 ^ lo % 2 ^ w)
    let e := BitVec.ofNat 64 (m.num (spaceKey die a) 8)
    if bad.any fun b => b ≤ spaceKey die a && spaceKey die a < b + 64 then .uncorr
    else if !e.getLsbD 63 then .unmapped
    else if e.getLsbD 55 then
      if !ptrOk || pointerBad e then .malformed else walkFrom m bad offs die rest (leafFrame e)
    else if !leafOk || leafBad e size then .malformed
    else .leaf e size die a

/-- The walk of a VA at its home. -/
def State.walk (s : State) (home : Nat) (va : DWord) : Walk :=
  let r := s.root home (vaRgn va)
  if !r.getLsbD 63 then .unmapped
  else walkFrom s.fab.mem s.fab.bad (vaOffs va) (r.extractLsb' 48 2).toNat walkLevels ((r.extractLsb' 12 36).toNat * 4096)

/-- The TLB's leaf for a VA, when it caches one (R103). -/
def State.cached (s : State) (home : Nat) (va : DWord) : Option TlbEntry :=
  s.fab.tlb.find? fun t => t.home == home && t.page.toNat ≤ va.toNat && va.toNat < t.page.toNat + t.size

/-- The leaf a home uses for a VA: the cached one, or the tables'. -/
def State.lookup (s : State) (home : Nat) (va : DWord) : Walk :=
  match s.cached home va with
  | some t => .leaf t.leaf t.size t.die t.addr
  | none => s.walk home va

/-! ### Checks (R99 to R101, R110) -/

/-- The causes AUX of XLTFAULT names (R185). -/
def causeMalformed : Nat := 1
def causePlacement : Nat := 2
def causePermission : Nat := 3
def causeCapacity : Nat := 4

/-- STAT codes of R33. -/
def statXlt : Nat := 1
def statParkto : Nat := 2
def statUncorr : Nat := 3
def statNoroute : Nat := 4
def statLinkdown : Nat := 5
def statTimeout : Nat := 6

/-- The placement a region requires (R99). -/
def placeOf (rgn : Nat) : Nat := if rgn ≤ 3 then 0 else if rgn = 4 then 1 else if rgn = 5 then 2 else 3

/-- The permission a kind of access needs (R101). -/
def permits (k : AccKind) (e : DWord) : Bool :=
  match k with
  | .load | .copyRd | .prefetch => leafRd e
  | .store | .copyWr => leafWr e
  | .reduce | .atom => leafRd e && leafWr e
  | .fetch => leafFx e

/-- The key of a VA's byte in the target memory of its leaf (R100). -/
def targetKey (home : Nat) (e : DWord) (size : Nat) (va : DWord) : Nat :=
  let o := vaOffs va % size
  let f := leafFrame e
  match leafPlace e with
  | 0 => spaceKey home (f + o)
  | 1 => spaceKey home (f + o / 2 ^ 14 * 4096 + o % 4096)
  | 2 => spaceKey tierSpace (f + o)
  | _ => spaceKey hostSpace (f + o)

/-- The ports the firmware interleaves when it programs the HDM decoders: 1, 2 or 4 of those whose expanders have trained
(R20); of three it takes two (log entry 57). -/
def State.hdmChoice (s : State) : List Nat :=
  let ps := s.lnk.cxl.map fun e => e.1
  ps.take (if 4 ≤ ps.length then 4 else if 2 ≤ ps.length then 2 else ps.length)

/-- The firmware programs the HDM decoders: the interleaved ports take equal shares, as far as the smallest of their expanders
goes (R20, log entry 57). -/
def State.programHdm (s : State) : State :=
  let ports := s.hdmChoice
  let cap : Nat := match ports with
    | [] => 0
    | k :: ks => ks.foldl (fun n j => min n (FMap.get 0 s.lnk.cxl j)) (FMap.get 0 s.lnk.cxl k)
  { s with lnk := { s.lnk with hdm := ports, hdmCap := cap } }

/-- The configured capacity of the second tier, as it stands since boot (R20, R21). -/
def State.tierBytes (s : State) : Nat := s.lnk.hdm.length * s.lnk.hdmCap

/-- The port that serves an address of the second tier, and the address there: a 4 KiB interleave (R20). -/
def State.hdmOf (s : State) (addr : Nat) : Nat × Nat :=
  let n := s.lnk.hdm.length
  (s.lnk.hdm.getD (addr / 4096 % n) 0, addr / 4096 / n * 4096 + addr % 4096)

/-- A line with an uncorrectable error lies among n bytes from a key (R190). -/
def State.uncorrIn (s : State) (k n : Nat) : Bool := s.fab.bad.any fun b => b < k + n && k < b + 64

/-- What a home's check answers for one byte. -/
inductive Checked where
  /-- the page is absent (R110); the cause as a page-fault record names it -/
  | absent (cause : Nat)
  | fail (stat cause : Nat)
  | ok (key : Nat) (e : DWord) (size die addr : Nat)
  deriving DecidableEq, Repr

/-- The home's checks in the order of R101; a migrating page is absent (R110). While port A is down every region 6 access fails
(R19). -/
def State.check (s : State) (home : Nat) (k : AccKind) (va : DWord) : Checked :=
  if vaRgn va = 6 ∧ !s.portUp 0 then .fail statLinkdown 0
  else
  match s.lookup home va with
  | .unmapped => .absent 0
  | .malformed => .fail statXlt causeMalformed
  | .uncorr => .fail statUncorr 0
  | .leaf e size die addr =>
    if leafMig e then .absent 1
    else if leafPlace e != placeOf (vaRgn va) then .fail statXlt causePlacement
    else if !permits k e then .fail statXlt causePermission
    else
      let key := targetKey home e size va
      if vaRgn va = 5 ∧ s.tierBytes ≤ leafFrame e + vaOffs va % size then .fail statXlt causeCapacity
      else .ok key e size die addr

/-- Companion bits gathered by an access (R102, R105): bits 3 to 0 REQD, 4 REQIO, 5 REQPEER, 6 A, 7 D. -/
def gathered (k : AccKind) (src : Option Nat) (peer : Bool) : BitVec 8 :=
  let req : Nat := if peer then 32 else match src with | some d => 2 ^ d | none => 16
  let d : Nat := match k with | .store | .copyWr | .reduce | .atom => 128 | _ => 0
  BitVec.ofNat 8 (req + 64 + d)

/-- The TLB entry of a leaf, nothing gathered yet. -/
def State.entryFor (s : State) (home : Nat) (va : DWord) (e : DWord) (size die addr : Nat) : TlbEntry :=
  { home := home, page := va &&& ~~~(BitVec.ofNat 64 (size - 1)), size := size, leaf := e, die := die, addr := addr, since := s.clk.ref }

/-- Two entries are of one page at one home. -/
def sameEntry (a b : TlbEntry) : Bool := a.home == b.home && a.page == b.page

/-- The TLB caches a leaf it has translated an access under (R103). -/
def State.cacheLeaf (s : State) (t : TlbEntry) : State :=
  if s.fab.tlb.any (sameEntry t) then s else { s with fab := { s.fab with tlb := s.fab.tlb ++ [t] } }

/-- The gathered bits as the companion word holds them (R102). -/
def companionBits (b : BitVec 8) : DWord :=
  (b.extractLsb' 0 4).setWidth 64 <<< 60 ||| (b.extractLsb' 4 1).setWidth 64 <<< 59
    ||| (b.extractLsb' 5 1).setWidth 64 <<< 58 ||| (b.extractLsb' 6 1).setWidth 64 <<< 57
    ||| (b.extractLsb' 7 1).setWidth 64 <<< 56

/-- Writes an entry's gathered bits to its companion word by OR and clears them in the TLB (R106). -/
def writeBack (m : Memory) (t : TlbEntry) : Memory :=
  if t.bits = 0 then m
  else
    let k := spaceKey t.die (t.addr + 4096)
    m.setNum k 8 (BitVec.ofNat 64 (m.num k 8) ||| companionBits t.bits).toNat

/-- Gathers the bits of an access performed under a leaf in its TLB entry (R105). An entry that has left the TLB meanwhile has
its bits written back at once, and so has every entry for another package's access, whose launch may end without this
package hearing of it (R106). -/
def State.gather (s : State) (t : TlbEntry) (bits : BitVec 8) : State :=
  let has := s.fab.tlb.any fun x => sameEntry t x && t.leaf == x.leaf
  if has && !bits.getLsbD 5 then
    { s with fab := { s.fab with tlb := s.fab.tlb.map fun x => if sameEntry t x then { x with bits := x.bits ||| bits } else x } }
  else { s with fab := { s.fab with mem := writeBack s.fab.mem { t with bits := bits } } }

/-- Writes back the entries a test picks, and drops them when `evict` is set (R106, R108). -/
def State.flushTlb (s : State) (evict : Bool) (p : TlbEntry → Bool) : State :=
  let mem := (s.fab.tlb.filter p).foldl writeBack s.fab.mem
  let tlb := if evict then s.fab.tlb.filter fun t => !p t
    else s.fab.tlb.map fun t => if p t then { t with bits := 0, since := s.clk.ref } else t
  { s with fab := { s.fab with mem := mem, tlb := tlb } }

end Sys2Proof.Machine
end

