-- ==== Sys2Proof/Machine/Rec.lean ====
section
/-! DEFINITION. The launch record's fields (R123 to R127): reading it from its bytes, the checks of R125 that need no
other state, coordinates, and the sizes of a block. -/

namespace Sys2Proof.Machine
open Sys2Proof

/-- The record in 128 bytes (R123). -/
def recOfBytes (bs : List Byte) : LaunchRec :=
  let at_ (o n : Nat) : Nat := natOfBytes ((bs.drop o).take n)
  { ctl := BitVec.ofNat 64 (at_ 0 8)
    dims := (List.range 5).map fun i => BitVec.ofNat 32 (at_ (8 + 4 * i) 4)
    span := BitVec.ofNat 32 (at_ 28 4)
    lbase := BitVec.ofNat 64 (at_ 32 8)
    feat := BitVec.ofNat 64 (at_ 40 8)
    res := BitVec.ofNat 64 (at_ 48 8)
    wsmask := BitVec.ofNat 64 (at_ 56 8)
    entry := BitVec.ofNat 64 (at_ 64 8)
    arg := BitVec.ofNat 64 (at_ 72 8)
    cblk := BitVec.ofNat 64 (at_ 80 8)
    graph := BitVec.ofNat 32 (at_ 88 4)
    phase := BitVec.ofNat 32 (at_ 92 4)
    job := BitVec.ofNat 32 (at_ 96 4)
    place := BitVec.ofNat 32 (at_ 100 4)
    seed := BitVec.ofNat 64 (at_ 104 8)
    clist := BitVec.ofNat 64 (at_ 112 8)
    rsvd := BitVec.ofNat 64 (at_ 120 8) }

/-- Bits lo to lo + w − 1 of a packed word. -/
def bitsOf {n : Nat} (x : BitVec n) (lo w : Nat) : Nat := x.toNat / 2 ^ lo % 2 ^ w

/-! CTL (R124) -/
def recPlat (r : LaunchRec) : Nat := bitsOf r.ctl 32 32
def recVer (r : LaunchRec) : Nat := bitsOf r.ctl 24 8
def recFstop (r : LaunchRec) : Bool := r.ctl.getLsbD 18
def recPclass (r : LaunchRec) : Nat := bitsOf r.ctl 14 4
def recRestart (r : LaunchRec) : Bool := r.ctl.getLsbD 13
def recPrio (r : LaunchRec) : Nat := bitsOf r.ctl 11 2
def recFid (r : LaunchRec) : Nat := bitsOf r.ctl 9 2
def recOrder (r : LaunchRec) : Nat := bitsOf r.ctl 6 3
def recRank (r : LaunchRec) : Nat := bitsOf r.ctl 0 3

/-! Dimensions (R123) -/
def recExt (r : LaunchRec) (i : Nat) : Nat := bitsOf (r.dims.getD i 0) 0 16
def recTsh (r : LaunchRec) (i : Nat) : Nat := bitsOf (r.dims.getD i 0) 16 16

/-! SPAN (R124) -/
def recStride (r : LaunchRec) : Nat := bitsOf r.span 18 9
def recLast (r : LaunchRec) : Nat := bitsOf r.span 9 9
def recFirst (r : LaunchRec) : Nat := bitsOf r.span 0 9
/-- The record names its issuer's own package only. -/
def recOwnSpan (r : LaunchRec) : Bool := recFirst r == 0x1FF && recLast r == 0x1FF

/-- The packages of the span, ascending, for an issuer of package `own` (R124). -/
def recPkgs (own : Nat) (r : LaunchRec) : List Nat :=
  if recOwnSpan r then [own]
  else (List.range ((recLast r - recFirst r) / recStride r + 1)).map fun i => recFirst r + i * recStride r

/-! RES (R124) -/
def recDivs (r : LaunchRec) : Nat := bitsOf r.res 55 7
def recAcct (r : LaunchRec) : Nat := bitsOf r.res 52 3
def recScr (r : LaunchRec) : Nat := bitsOf r.res 42 10
def recNarrow (r : LaunchRec) (role : Nat) : Nat := bitsOf r.res (30 + 4 * role) 4
def recWide (r : LaunchRec) (role : Nat) : Nat := bitsOf r.res (15 + 5 * role) 5
def recRoleGroups (r : LaunchRec) (role : Nat) : Nat := bitsOf r.res (5 * role) 5
/-- G (R154). -/
def recGroups (r : LaunchRec) : Nat := recRoleGroups r 0 + recRoleGroups r 1 + recRoleGroups r 2

/-! PLACE (R123) -/
def recDmask (r : LaunchRec) : BitVec 4 := r.place.extractLsb' 0 4
def recNcore (r : LaunchRec) : Nat := bitsOf r.place 8 7

/-- The job identifier. -/
def recJob (r : LaunchRec) : Nat := bitsOf r.job 0 24

/-- T (R126). -/
def recTiles (r : LaunchRec) : Nat :=
  (List.range (recRank r)).foldl (fun t i => t * recExt r i) 1

/-- The role of group g (R154). -/
def roleOf (r : LaunchRec) (g : Nat) : Nat :=
  if g < recRoleGroups r 0 then 0 else if g < recRoleGroups r 0 + recRoleGroups r 1 then 1 else 2

/-- A power of two. -/
def isPow2 (n : Nat) : Bool := n != 0 && n == 2 ^ n.log2

/-- R125: the record is refused with BADREC, PCLASS apart. -/
def recBad (r : LaunchRec) : Bool :=
  let rank := recRank r
  let dims := List.range 5
  let roles := List.range 3
  recVer r != 1 || 3 < recOrder r || rank == 0 || 5 < rank
    || bitsOf r.ctl 19 5 != 0 || bitsOf r.ctl 3 3 != 0 || bitsOf r.span 27 5 != 0
    || bitsOf r.lbase 48 16 != 0 || bitsOf r.res 62 2 != 0 || bitsOf r.job 24 8 != 0
    || bitsOf r.place 4 4 != 0 || bitsOf r.place 15 17 != 0 || r.rsvd != 0
    || dims.any (fun i => if i < rank then recExt r i == 0 || recTsh r i == 0 else recExt r i != 0 || recTsh r i != 0)
    || (recOrder r == 3 && dims.any fun i => i < rank && !isPow2 (recExt r i))
    || 2 ^ 40 < recTiles r || 2 ^ 48 < r.lbase.toNat + recTiles r
    || !(recOwnSpan r || (recFirst r ≤ recLast r && recLast r ≤ 287 && 1 ≤ recStride r
          && (recLast r - recFirst r) % recStride r == 0))
    || recGroups r == 0 || 16 < recGroups r
    || roles.any (fun k => recRoleGroups r k != 0 && recWide r k == 0)
    || roles.any (fun k => recRoleGroups r k == 0 && (recWide r k != 0 || recNarrow r k != 0))
    || 512 * 1024 < recScr r * 1024 + recGroups r * recDivs r * 256
    || 4 < recAcct r || 64 < recDivs r || 512 < recScr r || 64 < recNcore r
    || roles.any (fun k => 8 < recNarrow r k || 16 < recWide r k || 16 < recRoleGroups r k)
    || r.entry.toNat % 8 != 0 || r.cblk.toNat % 64 != 0 || r.clist.toNat % 8 != 0 || r.cblk == 0

/-! ### Coordinates (R126) -/

/-- Digits of j, the last extent of the list fastest. -/
def digitsLast (es : List Nat) (j : Nat) : List Nat :=
  (es.reverse.foldl (fun (acc : List Nat × Nat) e => ((acc.2 % e) :: acc.1, acc.2 / e)) ([], j)).1

/-- Digits of j, the first extent fastest. -/
def digitsFirst : List Nat → Nat → List Nat
  | [], _ => []
  | e :: es, j => (j % e) :: digitsFirst es (j / e)

/-- The serpentine reflection of row-major digits. -/
def serpentine : Nat → List Nat → List Nat → List Nat
  | s, d :: ds, e :: es =>
    let c := if s % 2 = 0 then d else e - 1 - d
    c :: serpentine (s + c) ds es
  | _, _, _ => []

/-- The places of the bits of a Morton index: (dimension, bit), lowest first. -/
def mortonPlan (ns : List Nat) : List (Nat × Nat) :=
  (List.range 16).flatMap fun m =>
    ((List.range ns.length).reverse.filter fun i => m < ns.getD i 0).map fun i => (i, m)

/-- COORD (R126). -/
def coord (r : LaunchRec) (j : Nat) : List Nat :=
  let es := (List.range (recRank r)).map (recExt r)
  match recOrder r with
  | 0 => digitsLast es j
  | 1 => digitsFirst es j
  | 2 => serpentine 0 (digitsLast es j) es
  | _ =>
    let plan := mortonPlan (es.map Nat.log2)
    (List.range es.length).map fun i =>
      ((List.range plan.length).filter fun k => (plan.getD k (0, 0)).1 == i && j.testBit k).foldl
        (fun acc k => acc + 2 ^ (plan.getD k (0, 0)).2) 0

/-! ### Sizes of a block (R155, R204) -/

/-- The size of a run: the budget in units of 8, rounded up to a power of two (R155). -/
def runEntries (units : Nat) : Nat := if units = 0 then 0 else 8 * 2 ^ (if isPow2 units then units.log2 else units.log2 + 1)

/-- Bytes of the extent, rounded up to 4 KiB (R204). -/
def extentBytes (r : LaunchRec) : Nat :=
  let n := recScr r * 1024 + recGroups r * recDivs r * 256
  (n + 4095) / 4096 * 4096

end Sys2Proof.Machine
end

