-- ==== Sys2Proof/Machine/Trace.lean ====
section
/-! DEFINITION. Event counters, trace records and watchpoints (R301 to R308): what the debug unit notes while other
steps are taken. Nothing here changes a value that a launch computes (R298). -/

namespace Sys2Proof.Machine
open Sys2Proof

/-- x + n, saturating at 64 bits. -/
def satAdd (x : DWord) (n : Nat) : DWord := if 2 ^ 64 ≤ x.toNat + n then 0xFFFFFFFFFFFFFFFF else x + BitVec.ofNat 64 n

/-- x + 1, saturating at 64 bits. -/
def satInc (x : DWord) : DWord := satAdd x 1

/-- The registers of one name that hold something other than their reset value: index and stored value. -/
def State.regsOf (s : State) (r : RegName) : List (Nat × DWord) :=
  (s.dev.filter fun e => e.1 / 65536 == regCode r).map fun e => (e.1 % 65536, e.2 ^^^ regReset r)

/-- A unit (UKIND, UNIT) covers an event of a core, or of a cluster or die where the event has no narrower unit; the
event's place is given as die, cluster and core (R301). -/
def unitCovers (v : DWord) (die cl core : Nat) : Bool :=
  let u := (v.extractLsb' 16 12).toNat
  match (v.extractLsb' 28 3).toNat with
  | 0 => true
  | 1 => u == die
  | 2 => u == cl
  | _ => u == core

/-- Counts n events of a source at a place (R301, R302). -/
def State.countMany (s : State) (src n die cl core : Nat) : State :=
  let hits := (s.regsOf .evcSel).filter fun e =>
    e.2.getLsbD 31 && (e.2.extractLsb' 0 16).toNat == src && unitCovers e.2 die cl core
  { s with dbg := { s.dbg with evc := hits.foldl (fun m e => FMap.set 0 m e.1 (satAdd (FMap.get 0 m e.1) n)) s.dbg.evc } }

/-- Counts one event. -/
def State.countAt (s : State) (src die cl core : Nat) : State := s.countMany src 1 die cl core

/-- Counts one event of a core. -/
def State.countCore (s : State) (src core : Nat) : State := s.countAt src (core / 64) (core / 4) core

/-- Counts n events of a cluster. -/
def State.countCluster (s : State) (src n cl : Nat) : State := s.countMany src n (cl / 16) cl 65536

/-- Counts one event of a die or of the package. -/
def State.countDie (s : State) (src die : Nat) : State := s.countAt src die 65536 65536

/-- The data slots of the management messages that this package takes from their flit (log entry 18): a kind byte and
doublewords. -/
def mgmtData : RelayMsg → List Byte
  | .watchSet n line wpm wpv wpvm mode =>
    bytesLE 8 (1 + 256 * n + 65536 * mode) ++ bytesLE 8 line.toNat ++ bytesLE 8 wpm.toNat ++ bytesLE 8 wpv.toNat
      ++ bytesLE 16 wpvm.toNat
  | .defer tag => bytesLE 16 (2 + 256 * tag)
  | .present home page size => bytesLE 8 (3 + 256 * home + 65536 * size) ++ bytesLE 8 page.toNat
  | .marker home page => bytesLE 8 (4 + 256 * home) ++ bytesLE 8 page.toNat
  | .invalDone cmd => bytesLE 16 (5 + 256 * cmd)
  | .cause tag cause => bytesLE 16 (6 + 256 * tag + 2 ^ 20 * cause)
  | _ => []

/-- Sends a management message to another package, on VL 3 (R29). -/
def State.mgmtTo (s : State) (pkg : Nat) (m : RelayMsg) : State :=
  let p : Packet := {
    hdr := BitVec.ofNat 9 pkg ++ BitVec.ofNat 9 s.own ++ (0x08 : BitVec 6) ++ BitVec.ofNat 4 ((mgmtData m).length / 16)
      ++ (0 : BitVec 12) ++ (0 : BitVec 8) ++ (0xC4 : BitVec 16) ++ (0 : BitVec 64)
    data := mgmtData m, relay := some m }
  { s with lnk := { s.lnk with queue := s.lnk.queue ++ [(3, pkg, p)] } }

/-! ### Trace (R308) -/

/-- Bytes of the trace ring. -/
def State.traceSize (s : State) : Nat := 2 ^ ((s.reg .dbgTrsz 0).toNat % 32 + 12)

/-- Writes the oldest waiting trace records into the ring while its page takes them. -/
def State.traceOut (s : State) : List (Nat × List Byte) → State
  | [] => { s with dbg := { s.dbg with trace := [] } }
  | r :: rs =>
    let head := (s.reg .dbgTrhead 0).toNat
    let va := (s.reg .dbgTrbase 0 &&& 0xFFFFFFFFFFFFF000) + BitVec.ofNat 64 (head % s.traceSize)
    match s.check (homeOf va) .store va with
    | .ok key e size die addr =>
      if vaLegal va && s.isOwn va && vaRgn va ≤ 4 then
        let t := s.entryFor (homeOf va) va e size die addr
        let s := (s.cacheLeaf t).gather t (gathered .store none false)
        (State.setReg { s with fab := { s.fab with mem := s.fab.mem.setBytes key r.2 } } .dbgTrhead 0
          (BitVec.ofNat 64 (head + 32))).traceOut rs
      else { s with dbg := { s.dbg with trace := r :: rs } }
    | _ => { s with dbg := { s.dbg with trace := r :: rs } }

/-- Notes one trace record when its kind is enabled. -/
def State.trace (s : State) (kind core lcore gid : Nat) (pc : DWord) (tile : Nat) : State :=
  if (s.reg .dbgTrctl 0).getLsbD kind then
    let r := bytesLE 8 s.clk.gt ++ bytesLE 1 kind ++ bytesLE 1 (core / 64) ++ bytesLE 1 (core % 64) ++ bytesLE 1 lcore
      ++ bytesLE 2 gid ++ bytesLE 2 0 ++ bytesLE 8 pc.toNat ++ bytesLE 8 tile
    s.traceOut (s.dbg.trace ++ [(s.clk.ref, r)])
  else s

/-! ### Watchpoints (R303 to R307) -/

/-- What a write looks like to a watchpoint: its source kind, PC, the word of `DBG_WHID`, the line, its pieces as lane, first
byte and size, and the line before and after. -/
structure Watched where
  srck  : Nat
  pc    : DWord
  hid   : DWord
  line  : DWord
  parts : List (Nat × Nat × Nat)
  old   : List Byte
  new_  : List Byte
  deriving DecidableEq, Repr

/-- A piece holds a byte of the line. -/
def pieceHas (p : Nat × Nat × Nat) (i : Nat) : Bool := p.2.1 ≤ i && i < p.2.1 + p.2.2

/-- The doublewords of a line that hit, ascending (R304). -/
def watchWords (mode : Nat) (wpm val vm : DWord) (w : Watched) : List Nat :=
  let sel (i : Nat) : Bool := wpm.getLsbD i && w.parts.any fun p => pieceHas p i
  (List.range 8).filter fun d =>
    let bs := (List.range 8).filter fun j => sel (8 * d + j)
    let same (x y : Nat) (j : Nat) : Bool := x / 2 ^ (8 * j) % 256 == y / 2 ^ (8 * j) % 256
    let v := natOfBytes ((w.new_.drop (8 * d)).take 8)
    let o := natOfBytes ((w.old.drop (8 * d)).take 8)
    match mode with
    | 1 => !bs.isEmpty
    | 2 =>
      let m := (bs.foldl (fun acc j => acc + vm.toNat / 2 ^ (8 * j) % 256 * 2 ^ (8 * j)) 0)
      m != 0 && (v &&& m) == (val.toNat &&& m)
    | 3 => bs.any fun j => !same v o j
    | _ => false

/-- The lanes whose bytes hit: selected bytes of a doubleword that hit, in mode 3 those that changed (R304, R305). -/
def hitLanes (mode : Nat) (wpm : DWord) (ds : List Nat) (w : Watched) : Word :=
  let hit (i : Nat) : Bool :=
    wpm.getLsbD i && ds.contains (i / 8) && (mode != 3 || w.old.getD i 0 != w.new_.getD i 0)
  (w.parts.filter fun p => (List.range 64).any fun i => pieceHas p i && hit i).foldl (fun m p => m ||| (1#32 <<< p.1)) 0

/-- The value a hit records: the new value of the lowest doubleword that hit. -/
def hitValue (w : Watched) (d : Nat) : DWord := BitVec.ofNat 64 (natOfBytes ((w.new_.drop (8 * d)).take 8))

/-- A stop whose target is the present GTICK fires in it (R309). -/
def State.stopNow (s : State) : State :=
  if (s.reg .dbgStopc 0).getLsbD 0 && s.reg .dbgStopt 0 == BitVec.ofNat 64 s.clk.gt then
    { s with agenda := .event .stopFire {} :: s.agenda }
  else s

/-- Sets the target; one already past never fires and sets bit 31 (R309). -/
def State.setTarget (s : State) (v : DWord) : State :=
  let s := s.setReg .dbgStopt 0 v
  if v.toNat < s.clk.gt then s.setField .dbgStopc 0 31 1 1 else s.stopNow

/-- A stop is armed that fires no later than at a GTICK. -/
def State.stopBefore (s : State) (gt : Nat) : Bool :=
  (s.reg .dbgStopc 0).getLsbD 0 && s.clk.gt ≤ (s.reg .dbgStopt 0).toNat && (s.reg .dbgStopt 0).toNat ≤ gt

/-- Arms the stop of a hit, at package scope, unless an earlier one is armed (R307). -/
def State.armAt (s : State) (gt : Nat) : State :=
  if s.stopBefore gt then s else (s.setField .dbgStopc 0 0 2 1).setTarget (BitVec.ofNat 64 gt)

/-- Records a hit of watchpoint n (R305) and stops by R307. -/
def State.recordHit (s : State) (n : Nat) (h : WatchHit) : State :=
  let st := s.reg .dbgWstat n
  let count := (st.extractLsb' 32 16).toNat
  let count' := if count = 65535 then count else count + 1
  let s := s.setField .dbgWstat n 32 16 count'
  let s := if st.getLsbD 63 then s
    else
      let s := ((s.setField .dbgWstat n 63 1 1).setField .dbgWstat n 60 3 h.srck.toNat).setField .dbgWstat n 0 32 h.lanes.toNat
      (((s.setReg .dbgWhpc n h.pc).setReg .dbgWhid n h.hid).setReg .dbgWhgt n h.gtick).setReg .dbgWhd n h.value
  let s := s.trace 6 0 0 n (s.reg .dbgWpa n) 0
  if (s.reg .dbgWctl n).getLsbD 3 then State.armAt { s with dbg := { s.dbg with halt := true } } (h.gtick.toNat + 1) else s

/-- Tests one write against the watchpoints other packages have set on its line, and reports hits on VL 3 (R303, R305),
with source kind 3 or 4 and neither PC nor lanes (log entry 108). A watch that stops its package holds watched lines back until that
package's stop may have come (R307). -/
def State.watchRemote (s : State) (w : Watched) : State :=
  (s.dbg.remote.filter fun x => x.mode != 0 && x.line == w.line).foldl (fun (s : State) x =>
    match watchWords x.mode x.wpm x.wpv x.wpvm w with
    | [] => s
    | d :: _ =>
      let h : WatchHit := {
        srck := BitVec.ofNat 3 (if w.srck = 4 then 4 else 3), lanes := 0, pc := 0, hid := w.hid
        gtick := BitVec.ofNat 64 s.clk.gt, value := hitValue w d }
      let s := s.mgmtTo x.pkg (.watchHit x.n h)
      if x.stop then
        { s with dbg := { s.dbg with remote := s.dbg.remote.map fun y =>
            if y.pkg == x.pkg && y.n == x.n then { y with hold := some (s.clk.gt + 1) } else y } }
      else s) s

/-- The watchpoints of this package that are on and name a line, with their modes (R303). -/
def State.watchesOn (s : State) (line : DWord) : List (Nat × Nat) :=
  ((s.regsOf .dbgWctl).map fun e => (e.1, (e.2.extractLsb' 0 2).toNat)).filter fun e =>
    e.2 != 0 && lineOf (s.resolve (s.reg .dbgWpa e.1)) == line

/-- The doublewords by which a write hits a watchpoint. -/
def State.hitWords (s : State) (e : Nat × Nat) (w : Watched) : List Nat :=
  watchWords e.2 (s.reg .dbgWpm e.1) (s.reg .dbgWpv e.1) (s.reg .dbgWpvm e.1) w

/-- Tests one write against every watchpoint of this package on its line (R303 to R305). -/
def State.watch (s : State) (w : Watched) : State :=
  (s.watchesOn w.line).foldl (fun (s : State) e =>
    match s.hitWords e w with
    | [] => s
    | d :: ds => s.recordHit e.1 {
        srck := BitVec.ofNat 3 w.srck, lanes := if w.srck = 0 then hitLanes e.2 (s.reg .dbgWpm e.1) (d :: ds) w else 0
        pc := if w.srck = 0 ∨ w.srck = 2 then w.pc else 0, hid := w.hid, gtick := BitVec.ofNat 64 s.clk.gt
        value := hitValue w d })
    (s.watchRemote w)

/-- A write hits a watchpoint that stops its package (R307). -/
def State.stopHit (s : State) (w : Watched) : Bool :=
  ((s.watchesOn w.line).any fun e => (s.reg .dbgWctl e.1).getLsbD 3 && !(s.hitWords e w).isEmpty)
    || s.dbg.remote.any fun x => x.stop && x.line == w.line && !(watchWords x.mode x.wpm x.wpv x.wpvm w).isEmpty

/-- Some watchpoint, of this package or of another, names the line (R303). -/
def State.isWatched (s : State) (line : DWord) : Bool :=
  !(s.watchesOn line).isEmpty || s.dbg.remote.any fun x => x.mode != 0 && x.line == line

/-- Between a hit that armed a stop and the stop, of this package or of one that watches a line here (R307). -/
def State.isHalting (s : State) : Bool :=
  (s.dbg.halt && (s.reg .dbgStopc 0).getLsbD 0 && decide (s.clk.gt ≤ (s.reg .dbgStopt 0).toNat))
    || s.dbg.remote.any fun x => match x.hold with | some g => decide (s.clk.gt ≤ g) | none => false

end Sys2Proof.Machine
end

