-- ==== Sys2Proof/Machine/Ops.lean ====
section
/-! DEFINITION. The shared operations over blocks, groups, paths and frames: who is issuing, the divergence stack
(R165 to R168, R365 to R369), raising a fault and making its record (R183 to R189), and finishing an instruction
(R160 to R164). -/

namespace Sys2Proof.Machine
open Sys2Proof

/-! ### Access to blocks and groups -/

def State.block? (s : State) (uid : Nat) : Option Block := s.cores.blocks.find? fun b => b.uid == uid

def State.modBlock (s : State) (uid : Nat) (f : Block → Block) : State :=
  { s with cores := { s.cores with blocks := s.cores.blocks.map fun b => if b.uid == uid then f b else b } }

def blockGroup? (b : Block) (gid : Nat) : Option Group := b.groups.find? fun g => g.gid == gid

def blockModGroup (b : Block) (gid : Nat) (f : Group → Group) : Block :=
  { b with groups := b.groups.map fun g => if g.gid == gid then f g else g }

def State.group? (s : State) (uid gid : Nat) : Option Group :=
  match s.block? uid with
  | some b => blockGroup? b gid
  | none => none

def State.modGroup (s : State) (uid gid : Nat) (f : Group → Group) : State :=
  s.modBlock uid fun b => blockModGroup b gid f

/-- The path of a slot. -/
def groupSlot (g : Group) (slotB : Bool) : Option Path := if slotB then g.pb else g.pa

/-- The loop buffer of a path slot whose body must be decoded again before the path goes on (R468). -/
def staleLoop (g : Group) (slotB : Bool) : Option LoopBuf :=
  match groupSlot g slotB with
  | some p => p.loop.filter fun lb => lb.stale
  | none => none

def groupSetSlot (g : Group) (slotB : Bool) (p : Option Path) : Group :=
  if slotB then { g with pb := p } else { g with pa := p }

/-- Who is issuing: the run, its block, its group and its path. -/
structure Cur where
  run  : Run
  blk  : Block
  grp  : Group
  path : Path
  deriving DecidableEq, Repr

/-- The run that holds the issue slot of the current partition. -/
def State.current (s : State) : Option Cur :=
  match s.cores.cur with
  | none => none
  | some (core, part) =>
    match s.cores.runs.find? fun r => r.core == core && r.part == part with
    | none => none
    | some r =>
      match s.block? r.blk with
      | none => none
      | some b =>
        match blockGroup? b r.gid with
        | none => none
        | some g =>
          match groupSlot g r.slotB with
          | none => none
          | some p => some { run := r, blk := b, grp := g, path := p }

/-- Changes the issuing group. -/
def State.modCur (s : State) (c : Cur) (f : Group → Group) : State := s.modGroup c.run.blk c.run.gid f

/-- Changes the issuing path. -/
def State.modPath (s : State) (c : Cur) (f : Path → Path) : State :=
  s.modCur c fun g => groupSetSlot g c.run.slotB ((groupSlot g c.run.slotB).map f)

/-! ### Lanes -/

/-- The lanes of a mask, ascending. -/
def lanesOf (w : Word) : List Nat := (List.range 32).filter fun l => w.getLsbD l

/-- The mask of a list of lanes. -/
def maskOf (ls : List Nat) : Word := ls.foldl (fun m l => m ||| (1#32 <<< l)) 0

/-- The lanes for which a test holds. -/
def maskWhere (p : Nat → Bool) : Word := maskOf ((List.range 32).filter p)

/-- The lowest lane of a mask. -/
def lowest (w : Word) : Option Nat := (lanesOf w).head?

/-- A predicate register as read: p7 is all ones (R202). -/
def predOf (g : Group) (n : Nat) : Word := if n % 8 = 7 then 0xFFFFFFFF else FMap.get 0 g.r.p (n % 8)

/-- Writes a predicate register; a write to p7 is discarded (R202). -/
def setPred (g : Group) (n : Nat) (x : Word) : Group :=
  if n % 8 = 7 then g else { g with r := { g.r with p := FMap.set 0 g.r.p (n % 8) x } }

/-- The guard's value by lane (R344). -/
def guardOf (g : Group) (o : Op) : Word :=
  let p := predOf g o.gp.toNat
  if o.gi then ~~~p else p

/-! ### Frames of the divergence stack (R166, R366) -/

/-- The key of frame f of a group in scratch (R166, R204). -/
def frameKey (b : Block) (gid f : Nat) : Nat :=
  spaceKey (scratchSpace b.core) (b.ext + b.scr + gid * b.divs * 256 + 32 * (f - 1))

/-- A field of a frame: n bytes from an offset. -/
def frameNum (s : State) (b : Block) (gid f off n : Nat) : Nat := s.fab.mem.num (frameKey b gid f + off) n

def frameKind (s : State) (b : Block) (gid f : Nat) : Nat := frameNum s b gid f 26 1

/-- Sets a field of a frame. -/
def State.setFrame (s : State) (b : Block) (gid f off n x : Nat) : State :=
  { s with fab := { s.fab with mem := s.fab.mem.setNum (frameKey b gid f + off) n x } }

/-- A fresh frame: zeros, its kind, and the fields named as (offset, bytes, value). -/
def State.newFrame (s : State) (b : Block) (gid f kind : Nat) (fields : List (Nat × Nat × Nat)) : State :=
  fields.foldl (fun s x => s.setFrame b gid f x.1 x.2.1 x.2.2) ((s.setFrame b gid f 0 32 0).setFrame b gid f 26 1 kind)

/-- The highest frame at or below d that satisfies a test; 0 when there is none. -/
def frameBelow (p : Nat → Bool) : Nat → Nat
  | 0 => 0
  | d + 1 => if p (d + 1) then d + 1 else frameBelow p d

/-- The nearest frame of kind 0 or 2 at or below depth d; 0 when there is none (R368). -/
def nearestFork (s : State) (b : Block) (gid d : Nat) : Nat :=
  frameBelow (fun f => frameKind s b gid f == 0 || frameKind s b gid f == 2) d

/-- FX of the innermost region (R365); all ones outside every region. -/
def faceMask (s : State) (b : Block) (gid : Nat) (p : Path) : Word :=
  if p.rg = 0 then 0xFFFFFFFF
  else if p.rg ≤ 4 then p.fx.getLastD 0
  else
    let f := frameBelow (fun f => frameKind s b gid f == 1 && frameNum s b gid f 12 2 == p.rg) p.depth
    BitVec.ofNat 32 (frameNum s b gid f 16 4)

/-- The lane set of a path: its mask and the ACC of every meld loop above its fork (R368). -/
def laneSet (s : State) (b : Block) (gid : Nat) (p : Path) : Word :=
  let fork := nearestFork s b gid p.depth
  ((List.range (p.depth - fork)).filter fun i => frameKind s b gid (fork + 1 + i) == 3).foldl
    (fun m i => m ||| BitVec.ofNat 32 (frameNum s b gid (fork + 1 + i) 16 4)) p.mask

/-- The lanes of M guarded in by an instruction. -/
def guardedIn (c : Cur) (o : Op) : Word := c.path.mask &&& guardOf c.grp o

/-- The active lanes of an instruction (R365): guarded in, and of an enabled face. -/
def activeLanes (s : State) (c : Cur) (o : Op) : Word :=
  let m := guardedIn c o
  if o.twoFaced then
    let fx := faceMask s c.blk c.run.gid c.path
    (if o.xen then m &&& fx else 0) ||| (if o.yen then m &&& ~~~fx else 0)
  else m

/-! ### The depot (R222) -/

/-- A fresh number. -/
def State.fresh (s : State) : State × Nat :=
  ({ s with fab := { s.fab with nextId := s.fab.nextId + 1 } }, s.fab.nextId)

def State.modReq (s : State) (id : Nat) (f : Req → Req) : State :=
  { s with fab := { s.fab with reqs := s.fab.reqs.map fun r => if r.id == id then f r else r } }


/-- A request belongs to a group's own instructions. -/
def ofGroup (uid gid : Nat) (r : Req) : Bool :=
  match r.who with
  | .group b g _ => b == uid && g == gid
  | _ => false

/-- Sends the depot entries that hold a request a test picks: an entry's requests leave together, in the order they joined
(R222, R223). -/
def State.sendDepot (s : State) (p : Req → Bool) : State :=
  let entries := ((s.fab.reqs.filter fun r => r.phase == .depot && p r).map fun r => (r.core, r.line)).eraseDups
  entries.foldl (fun (s : State) e =>
    let (s, m) := s.fresh
    let s := (s.fab.reqs.filter fun r => r.phase == .depot && (r.core, r.line) == e).foldl (fun (s : State) r =>
      let (s, n) := s.fresh
      s.modReq r.id fun r => { r with phase := .flying, seq := n, sent := s.clk.ref, merge := m }) s
    s.countCore 0x0007 e.1) s

/-- Sends every depot line in which a group has a request (R222). -/
def State.sendDepotOf (s : State) (uid gid : Nat) : State :=
  let lines := (s.fab.reqs.filter fun r => r.phase == .depot && ofGroup uid gid r).map fun r => (r.core, r.line)
  s.sendDepot fun r => lines.contains (r.core, r.line)

/-! ### Faults (R183 to R189) -/

/-- A fault code of R185 with what the record takes from the instruction. -/
structure FaultInfo where
  code  : Nat
  lanes : Word := 0
  aux   : Word := 0
  addr  : DWord := 0
  deriving DecidableEq, Repr

def codeIllegal : Nat := 0x01
def codeAbsent : Nat := 0x02
def codeOverlen : Nat := 0x03
def codeRegbudget : Nat := 0x04
def codeHazard : Nat := 0x05
def codeShape : Nat := 0x06
def codeUniform : Nat := 0x07
def codePadmismatch : Nat := 0x08
def codeRetempty : Nat := 0x09
def codeRetdiverge : Nat := 0x0A
def codeDivovf : Nat := 0x0B
def codeCntovf : Nat := 0x0C
def codeHitch : Nat := 0x0D
def codeMeldstate : Nat := 0x0E
def codeTrap : Nat := 0x0F
def codeMisalign : Nat := 0x10
def codeScrbound : Nat := 0x11
def codeSparsemeta : Nat := 0x12
def codeBitmaplen : Nat := 0x13
def codeBreak : Nat := 0x14
def codeAddress : Nat := 0x20
def codeXltfault : Nat := 0x21
def codeParkto : Nat := 0x22
def codeUncorr : Nat := 0x23
def codeSldiscard : Nat := 0x27
def codeLaunchlost : Nat := 0x30
def codeNoplace : Nat := 0x31
def codeSavefail : Nat := 0x32

/-- The place of a code in the order of R186. A precise ADDRESS of a neighbour copy comes after the checks of the
list (R447, log entry 7). -/
def faultRank (code : Nat) : Nat :=
  match code with
  | 0x01 => 2 | 0x02 => 3 | 0x03 => 4 | 0x04 => 5 | 0x05 => 6 | 0x23 => 7 | 0x06 => 8 | 0x0E => 9 | 0x07 => 10
  | 0x08 => 11 | 0x09 => 12 | 0x0A => 13 | 0x0B => 14 | 0x0C => 15 | 0x0D => 16 | 0x10 => 17 | 0x11 => 18
  | 0x12 => 19 | 0x13 => 20 | 0x0F => 21 | 0x14 => 22
  | _ => 23

/-- `g` is reported before `f`: an earlier check of R186, or the same one failing in a lower lane. -/
def faultBefore (g f : FaultInfo) : Bool :=
  faultRank g.code < faultRank f.code
    || (g.code == f.code && (lowest g.lanes).getD 32 < (lowest f.lanes).getD 32)

/-- The failing check that leads the report; among equals the earlier of the list. -/
def leadFault : List FaultInfo → Option FaultInfo
  | [] => none
  | f :: fs =>
    match leadFault fs with
    | none => some f
    | some g => if faultBefore g f then some g else some f

/-- The fault an instruction reports: the first failing check, with every lane its code holds for, in both faces (R186). -/
def firstFault (fs : List FaultInfo) : Option FaultInfo :=
  (leadFault fs).map fun f =>
    { f with lanes := (fs.filter fun g => g.code == f.code).foldl (fun m g => m ||| g.lanes) 0 }

/-- Where the issuing instruction stands (R188). -/
def siteOf (s : State) (c : Cur) (lanes : Word) : Site :=
  { seq := c.grp.issued, pc := c.path.pc, slotB := c.run.slotB, depth := c.path.depth, mdepth := c.path.rg,
    fx := faceMask s c.blk c.run.gid c.path, inMeld := c.path.rg != 0, lanes := lanes }

/-- The logical core that names a physical core, by the maps of R89; the physical number itself where no map names
it (log entry 8). -/
def State.logical (s : State) (core : Nat) : Nat × Nat :=
  let hit := (List.range 256).find? fun i =>
    let e := (s.reg .dspLmap i).toNat
    e / 2 ^ 31 % 2 == 1 && e / 256 % 4 * 64 + e % 64 == core
  match hit with
  | some i => (i / 64, i % 64)
  | none => (core / 64, core % 64)

/-- FLAGS.FACE (R186, R188). -/
def faceCode (st : Site) (lanes : Word) : Nat :=
  if !st.inMeld then 0
  else
    let x := (lanes &&& st.fx) != 0
    let y := (lanes &&& ~~~st.fx) != 0
    if x && y then 3 else if y then 2 else 1

/-- The fault record of a candidate (R188). -/
def recordOf (s : State) (b : Block) (g : Group) (k : Cand) (more : Bool) : FaultRecord :=
  { code := BitVec.ofNat 8 k.code
    flags := BitVec.ofNat 8 (k.prec + 4 * faceCode k.site k.lanes + (if more then 16 else 0)
      + (if g.exited then 32 else 0) + (if k.site.slotB then 64 else 0))
    mdepth := BitVec.ofNat 8 (min k.site.mdepth 255)
    stat := BitVec.ofNat 8 k.stat
    gid := BitVec.ofNat 16 g.gid
    depth := BitVec.ofNat 16 k.site.depth
    pc := k.site.pc
    lanes := k.lanes
    aux := k.aux
    addr := k.addr
    gtick := BitVec.ofNat 64 s.clk.gt
    tile := BitVec.ofNat 64 (s.own * 2 ^ 48 + b.tile)
    die := BitVec.ofNat 8 (b.core / 64)
    lcore := BitVec.ofNat 8 (s.logical b.core).2
    pcore := BitVec.ofNat 8 (b.core % 64)
    engine := k.eng
    job := BitVec.ofNat 32 (recJob b.lrec) }

/-- The candidate earliest in program order (R187). -/
def earliest : List Cand → Option Cand
  | [] => none
  | k :: ks =>
    match earliest ks with
    | none => some k
    | some j => if j.site.seq < k.site.seq then some j else some k

/-- A stop by fault replaces every stop but a cancel that has already stopped the group (R198). -/
def faultStop (b : Block) (g : Group) : Option Stop :=
  if b.stop = some .cancel ∧ (g.stopped ∨ g.exited ∨ g.park.isSome) then b.stop else some .fault

/-- The parked groups of a block that stops send their depot entries: a parked group counts as stopped (R189, R222). -/
def State.sendParked (s : State) (b : Block) : State :=
  b.groups.foldl (fun (s : State) g => if g.park.isSome then s.sendDepotOf b.uid g.gid else s) s

/-- A register of the group still waits for a result under way; one whose operation failed waits for nothing. -/
def pendLive (g : Group) : Bool := g.pend.any fun p => g.ops.any fun o => o.id == p.2

/-- Makes a dead group's record once no register waits (R187, R189): LANES counts every lane the reported code holds for
(R186), and MORE says that another fault is known. -/
def State.makeRecord (s : State) (uid gid : Nat) : State :=
  match s.block? uid with
  | none => s
  | some b =>
    match blockGroup? b gid with
    | none => s
    | some g =>
      if g.dead && !g.recorded && !pendLive g then
        match earliest g.cands with
        | none => s
        | some k =>
          let same := g.cands.filter fun j => j.site.seq == k.site.seq && j.code == k.code
          let r := recordOf s b g { k with lanes := same.foldl (fun m j => m ||| j.lanes) 0 } (same.length < g.cands.length)
          let s := s.modBlock uid fun b =>
            { blockModGroup b gid (fun g => { g with recorded := true }) with
              records := b.records ++ [r], stop := faultStop b g }
          let s := if k.code = codeHazard ∨ k.code = codeOverlen ∨ k.code = codeUniform then s.countCore 0x0005 b.core else s
          (s.trace 2 b.core (s.logical b.core).2 gid k.site.pc b.tile).sendParked b
      else s

/-- Ends the turn of the run on a partition. -/
def State.endTurn (s : State) (core part : Nat) : State :=
  { s with cores := { s.cores with
      runs := s.cores.runs.filter fun r => !(r.core == core && r.part == part), cur := none } }

/-- A candidate fault of the issuing instruction. -/
def candOf (s : State) (c : Cur) (f : FaultInfo) (prec : Nat) : Cand :=
  { site := siteOf s c f.lanes, code := f.code, prec := prec, stat := 0, lanes := f.lanes, aux := f.aux,
    addr := s.resolve f.addr, eng := 0 }

/-- Raises a precise fault at the issuing instruction: it has no effect, its group stops, its turn ends, and the record
is made as soon as no register of the group waits (R183, R187, R189). -/
def raise (c : Cur) (f : FaultInfo) (s : State) : State :=
  (((s.modCur c fun g => { g with dead := true, cands := g.cands ++ [candOf s c f 0], park := none }).endTurn c.run.core
    c.run.part).sendDepotOf c.run.blk c.run.gid).makeRecord c.run.blk c.run.gid

/-- Stops a group by an error that has reached it, and makes its record when no register waits. -/
def State.deliver (s : State) (uid gid : Nat) : State :=
  ((s.modGroup uid gid fun g => if g.cands.isEmpty then g else { g with dead := true }).sendDepotOf uid gid).makeRecord uid gid

/-- After a result or an error has reached a group: a dead group's record is made; a group that waits at a drain seam,
has stopped or has ended takes its errors, and without errors leaves the drain seam (R164, R183), or stops there for its
block's stop (R181). -/
def State.settle (s : State) (uid gid : Nat) : State :=
  match s.group? uid gid with
  | none => s
  | some g =>
    if g.dead then s.makeRecord uid gid
    else if pendLive g then s
    else
      let draining := match g.park with | some p => p.cond == .drain | none => false
      if draining || g.stopped || g.exited then
        if g.cands.isEmpty then
          if draining then
            let stop := match s.block? uid with | some b => b.stop.isSome | none => false
            s.modGroup uid gid fun g => { g with park := none, pend := [], stopped := g.stopped || stop }
          else s
        else s.deliver uid gid
      else s

/-! ### Joins and ends of paths (R167 to R169, R380) -/

/-- Return entries in frames of kind 5 up to frame d (R377). -/
def State.returnFrames (s : State) (b : Block) (gid d : Nat) : Nat :=
  ((List.range d).filter fun i => frameKind s b gid (i + 1) == 5).length

/-- Loads a valid spill of frame d, the frame on top, into slot B, or into A while B is live (R167, R367): it takes the
return entries of the path in slot A, or of the live path, or of the path that left last (log entry 9), and counts them and
the frames of kind 5 below. -/
def State.loadSpill (s : State) (uid gid d : Nat) (last : Path) : State :=
  match s.block? uid with
  | none => s
  | some b =>
    match blockGroup? b gid with
    | none => s
    | some g =>
      if d = 0 ∨ frameNum s b gid d 25 1 % 2 = 0 ∨ (g.pa.isSome ∧ g.pb.isSome) then s
      else
        let like := match g.pa, g.pb with
          | some p, _ => p
          | none, some p => p
          | none, none => last
        let q : Path := {
          pc := BitVec.ofNat 64 (frameNum s b gid d 8 8), mask := BitVec.ofNat 32 (frameNum s b gid d 20 4)
          depth := d, rc := like.rets.length + s.returnFrames b gid d, rets := like.rets, lastRun := s.cores.runSeq }
        (s.modGroup uid gid fun g => if g.pb.isNone then { g with pb := some q } else { g with pa := some q }).setFrame
          b gid d 25 1 0

/-- The path that replaces a popped fork: J, ACC, and the return entries of the last path to arrive; below a kind-2
frame the regions kept by its kind-4 frame come back (R167, R380). -/
def mergedPath (s : State) (b : Block) (gid d : Nat) (last : Path) : Path :=
  let j := BitVec.ofNat 64 (frameNum s b gid d 0 8)
  let acc := BitVec.ofNat 32 (frameNum s b gid d 16 4)
  if frameKind s b gid d = 2 then
    let hw := frameNum s b gid (d - 1) 16 1
    { pc := j, mask := acc, depth := d - 2, rg := frameNum s b gid (d - 1) 18 2
      fx := (List.range hw).map fun i => BitVec.ofNat 32 (frameNum s b gid (d - 1) (4 * i) 4)
      rc := last.rc, rets := last.rets, lastRun := s.cores.runSeq }
  else
    { pc := j, mask := acc, depth := d - 1, rc := last.rc, rets := last.rets, lastRun := s.cores.runSeq }

/-- The path whose return entries the merged path of fork d takes: the last to arrive; where the last to leave has not
arrived, the one noted, or itself without the return frames above the fork (R369). -/
def State.lastArrived (s : State) (b : Block) (g : Group) (p : Path) (d : Nat) (arrive : Bool) : Path :=
  if arrive then p
  else
    match g.joined.find? fun x => x.1 == d with
    | some x => { p with rc := x.2.1, rets := x.2.2 }
    | none => { p with rc := p.rets.length + s.returnFrames b g.gid (d - 1) }

/-- A fork notes the return entries of a path that arrives. -/
def noteJoin (d : Nat) (p : Path) (arrive : Bool) (g : Group) : Group :=
  if arrive then { g with joined := (g.joined.filter fun x => x.1 != d) ++ [(d, p.rc, p.rets)] } else g

/-- A popped fork's note goes. -/
def dropJoin (d : Nat) (g : Group) : Group := { g with joined := g.joined.filter fun x => x.1 != d }

/-- A group without paths has ended (R167). A group that ends leaves the barrier of its block (R439). -/
def State.checkExit (s : State) (uid gid : Nat) : State :=
  s.modGroup uid gid fun g => if g.pa.isNone && g.pb.isNone then { g with exited := true } else g

/-- Path `p` of a slot leaves fork frame d, with or without adding its mask to ACC; `fuel` bounds the joins that
follow one another (R167). -/
def State.leaveFork (s : State) (uid gid : Nat) (slotB : Bool) (p : Path) (d : Nat) (arrive : Bool) : Nat → State
  | 0 => s
  | fuel + 1 =>
    match s.block? uid with
    | none => s
    | some b =>
      let acc := frameNum s b gid d 16 4
      let acc' := if arrive then (BitVec.ofNat 32 acc ||| p.mask).toNat else acc
      let cnt := frameNum s b gid d 24 1 - 1
      let s := (s.setFrame b gid d 16 4 acc').setFrame b gid d 24 1 cnt
      let last := match s.group? uid gid with | some g => s.lastArrived b g p d arrive | none => p
      let s := s.modGroup uid gid fun g => noteJoin d p arrive (groupSetSlot g slotB none)
      if cnt ≠ 0 then s.loadSpill uid gid d p
      else
        let q := mergedPath s b gid d last
        let s := s.modGroup uid gid fun g => dropJoin d { g with pa := some q, pb := none }
        let s := s.loadSpill uid gid q.depth q
        if laneSet s b gid q = 0 then
          let fork := nearestFork s b gid q.depth
          if fork = 0 then (s.modGroup uid gid fun g => { g with pa := none }).checkExit uid gid
          else s.leaveFork uid gid false q fork false fuel
        else if q.depth ≠ 0 ∧ frameKind s b gid q.depth = 0 ∧ q.rg = 0
            ∧ BitVec.ofNat 64 (frameNum s b gid q.depth 0 8) = q.pc then
          s.leaveFork uid gid false q q.depth true fuel
        else s

/-- The most joins one event can cause: a group holds at most 512 frames (R168). -/
def joinFuel : Nat := 520

/-- A path whose lane set is empty ends (R368). -/
def State.endPath (s : State) (c : Cur) (p : Path) : State :=
  let fork := nearestFork s c.blk c.run.gid p.depth
  if fork = 0 then
    (s.modCur c fun g => groupSetSlot g c.run.slotB none).checkExit c.run.blk c.run.gid
  else s.leaveFork c.run.blk c.run.gid c.run.slotB p fork false joinFuel

/-! ### Pushing and popping frames (R166, R168, R367) -/

/-- The frames a group's stack holds (R168, R204). -/
def frameLimit (b : Block) : Nat := 8 * b.divs

/-- DIVOVF of a push of n frames: AUX is the first frame that does not fit (R168, R367). -/
def pushFaults (c : Cur) (n : Nat) : List FaultInfo :=
  if frameLimit c.blk < c.path.depth + n then
    [{ code := codeDivovf, lanes := c.path.mask, aux := BitVec.ofNat 32 (max (frameLimit c.blk) c.path.depth + 1) }]
  else []

/-- The live path of the other slot that a push would have to spill and may not (R367). -/
def pushBlocked (g : Group) (slotB : Bool) (p : Path) : Bool :=
  match groupSlot g (!slotB) with
  | none => false
  | some q => q.rg != 0 || q.rets != p.rets || q.depth == 0

/-- Spills the other slot's live path into its frame (R166, R367). -/
def State.spillOther (s : State) (c : Cur) : State :=
  match groupSlot c.grp (!c.run.slotB) with
  | none => s
  | some q =>
    let s := ((s.setFrame c.blk c.run.gid q.depth 8 8 q.pc.toNat).setFrame c.blk c.run.gid q.depth 20 4
      q.mask.toNat).setFrame c.blk c.run.gid q.depth 25 1 1
    s.modCur c fun g => groupSetSlot g (!c.run.slotB) none

/-- Pushes frame d + 1 of a kind, with its fields as (offset, bytes, value) (R366, R367). -/
def State.pushFrame (s : State) (c : Cur) (kind : Nat) (fields : List (Nat × Nat × Nat)) : State :=
  ((s.spillOther c).newFrame c.blk c.run.gid (c.path.depth + 1) kind fields).modPath c fun p =>
    { p with depth := c.path.depth + 1, hold := .none }

/-- Pops the top frame of the issuing path, one of kinds 1, 3, 5 and 6; a spill of the frame now on top is loaded. -/
def State.popFrame (s : State) (c : Cur) : State :=
  let s := (s.setFrame c.blk c.run.gid c.path.depth 0 32 0).modPath c fun p => { p with depth := c.path.depth - 1 }
  s.loadSpill c.run.blk c.run.gid (c.path.depth - 1) c.path

/-- The issuing instruction waits at issue and keeps its partition's issue slot (R116, R164, R171, log entry 11). -/
def stallAt (c : Cur) (s : State) : State :=
  { s with cores := { s.cores with
      cur := none
      runs := s.cores.runs.map fun r =>
        if r.core == c.run.core && r.part == c.run.part then
          { r with stall := some (r.stall.getD s.clk.ref), tried := s.clk.ref, full := none }
        else r } }

/-- The issuing instruction waits for memory: within its run it keeps the issue slot, so that no other run comes between
(R164); as the first of its run it leaves the slot to others until what it waits for has come (R171, log entry 11). -/
def holdAt (c : Cur) (h : Hold) (s : State) : State :=
  if c.run.count = 0 then (s.modPath c fun p => { p with hold := h, begun := true }).endTurn c.run.core c.run.part
  else stallAt c s

/-- The path's turn ends at an instruction that waits: its slot is not ready until what it waits for has come, and it then
begins a new run; a stop of its block takes the place as the path's seam (R160, R367, R375, log entry 11). -/
def leaveAt (c : Cur) (h : Hold) (s : State) : State :=
  let stops (g : Group) : Bool := c.blk.stop.isSome && !g.dead
  let s := s.modCur c fun g => if stops g then { g with stopped := true } else g
  let s := if stops c.grp then s.sendDepotOf c.run.blk c.run.gid else s
  ((s.modPath c fun p => { p with hold := h, begun := false }).endTurn c.run.core c.run.part).settle c.run.blk c.run.gid

/-- A push that must wait does not issue: its slot is not ready until the other slot may be spilled (R367). -/
def waitPush (c : Cur) (s : State) : State := leaveAt c .push s

/-- The path's top frame is a fork of kind 0 whose join is this PC (R369). -/
def reachesJoin (s : State) (c : Cur) (p : Path) (next : DWord) : Bool :=
  p.depth != 0 && frameKind s c.blk c.run.gid p.depth == 0
    && BitVec.ofNat 64 (frameNum s c.blk c.run.gid p.depth 0 8) == next

/-- R369: passing control to J with a region open is MELDSTATE. -/
def joinFault (s : State) (c : Cur) (next : DWord) : List FaultInfo :=
  if reachesJoin s c c.path next && c.path.rg != 0 then
    [{ code := codeMeldstate, lanes := c.path.mask, aux := BitVec.ofNat 32 c.path.rg }]
  else []

/-! ### The lane-cycle record (R299, R300) -/

/-- The lanes of a group that have not exited: in a path, a spill or an ACC. -/
def liveLanes (s : State) (b : Block) (g : Group) : Word :=
  let ofPath (p : Option Path) : Word := match p with | some p => p.mask | none => 0
  let top := match g.pa, g.pb with
    | some p, some q => max p.depth q.depth
    | some p, none => p.depth
    | none, some q => q.depth
    | none, none => 0
  (List.range top).foldl (fun m i =>
    let f := i + 1
    let k := frameKind s b g.gid f
    let m := if k = 0 ∨ k = 2 ∨ k = 3 then m ||| BitVec.ofNat 32 (frameNum s b g.gid f 16 4) else m
    if (k = 0 ∨ k = 2) ∧ frameNum s b g.gid f 25 1 % 2 = 1 then m ||| BitVec.ofNat 32 (frameNum s b g.gid f 20 4) else m)
    (ofPath g.pa ||| ofPath g.pb)

/-- The range that counts a PC: the lowest that holds it, else bin 16 (R300). -/
def State.laneBin (s : State) (core : Nat) (pc : DWord) : Nat :=
  ((List.range 16).find? fun n =>
    let lo := s.resolve (s.reg .dbgLclo (32 * core + n))
    let hi := s.resolve (s.reg .dbgLchi (32 * core + n))
    lo.toNat ≤ (s.resolve pc).toNat && (s.resolve pc).toNat < hi.toNat).getD 16

/-- Where a partition's issue cycles are counted: by core and partition, a completed wait's by its group's (R299). -/
def slotKey (c : Cur) : Nat := 4 * c.blk.core + (if c.run.part < 4 then c.run.part else c.grp.gslot / 16 % 4)

/-- Classifies the lanes of an issued instruction, which takes a cycle of its partition's slot (R299). -/
def State.countLanes (s : State) (c : Cur) (o : Op) : State :=
  let live := liveLanes s c.blk c.grp
  let fx := faceMask s c.blk c.run.gid c.path
  let faces : Word := if o.twoFaced then (if o.xen then fx else 0) ||| (if o.yen then ~~~fx else 0) else 0xFFFFFFFF
  let inM := live &&& c.path.mask &&& faces
  let tile : Bool := match o.ext with
    | .extn true t k _ => (FMap.get 0 c.grp.r.t t.toNat).getLsbD k.toNat
    | _ => true
  let act := if tile then inM &&& guardOf c.grp o else 0
  let key := 128 * c.blk.core + 4 * s.laneBin c.blk.core c.path.pc
  let add (m : FMap DWord) (cls : Nat) (w : Word) : FMap DWord :=
    FMap.set 0 m (key + cls) (satAdd (FMap.get 0 m (key + cls)) (lanesOf w).length)
  { s with dbg := { s.dbg with
      slots := FMap.set 0 s.dbg.slots (slotKey c) (FMap.get 0 s.dbg.slots (slotKey c) + 1)
      lanes := add (add (add (add s.dbg.lanes 0 act) 1 (live &&& ~~~inM)) 2 (inM &&& ~~~act)) 3 (~~~live) } }

/-- The answers a path slot's fetches have used are forgotten (R341). -/
def State.fetchForget (s : State) (uid gid : Nat) (slotB : Bool) : State :=
  { s with fab := { s.fab with got := s.fab.got.filter fun r => r.who != .fetch uid gid slotB } }

/-! ### Finishing an instruction (R13, R160 to R164) -/

/-- The group's program order and every lane of the path's mask count one instruction (R13, R187). -/
def tally (m : Word) (g : Group) : Group :=
  { g with issued := g.issued + 1, ord := (lanesOf m).foldl (fun o l => FMap.set 0 o l (FMap.get 0 o l + 1)) g.ord }

/-- The run counts one instruction (R160). -/
def State.countRun (s : State) (c : Cur) : State :=
  { s with cores := { s.cores with runs := s.cores.runs.map fun r =>
      if r.core == c.run.core && r.part == c.run.part then { r with count := r.count + 1, stall := none, full := none } else r } }

/-- Counts one executed instruction: for every lane of the path's mask (R13), for the group's program order, for the
run (R160), and for the counters and the lane-cycle record. -/
def State.countOne (s : State) (c : Cur) (o : Op) : State :=
  ((((s.countLanes c o).countCore 0x0002 c.blk.core).fetchForget c.run.blk c.run.gid c.run.slotB).modCur c
    (tally c.path.mask)).countRun c

/-- At a seam the group takes imprecise errors that have reached it; it stops for its block's stop; at a drain seam it
parks while a register waits, and takes every error (R164, R178, R183). -/
def State.atSeam (s : State) (c : Cur) (drain : Bool) : State :=
  match s.block? c.run.blk with
  | none => s
  | some b =>
    let s := s.modCur c fun g =>
      let g := if g.cands.any fun k => k.prec == 2 then { g with dead := true } else g
      let g := if b.stop.isSome && !g.dead && !g.exited then { g with stopped := true } else g
      if drain && g.park.isNone && !g.exited && !g.dead then
        { g with park := some { cond := .drain, slotB := c.run.slotB } }
      else g
    let waits := match s.group? c.run.blk c.run.gid with | some g => pendLive g | none => false
    let s := if drain && waits then
        (s.countCore 0x0004 b.core).trace 1 b.core (s.logical b.core).2 c.run.gid c.path.pc b.tile else s
    let s := if drain || b.stop.isSome then s.sendDepotOf c.run.blk c.run.gid else s
    s.settle c.run.blk c.run.gid

/-- A path of the group waits at an instruction that a stop takes as its seam (R367, R375). -/
def waitsAtSeam (g : Group) : Bool :=
  let waits (p : Option Path) : Bool := match p with | some p => p.hold != .none | none => false
  waits g.pa || waits g.pb

/-- A turn has ended without a seam, its path gone: a path left that waits at its seam stops there for the block's stop. -/
def State.restOfGroup (s : State) (c : Cur) : State :=
  match s.group? c.run.blk c.run.gid with
  | none => s
  | some g =>
    if c.blk.stop.isSome && !g.dead && !g.exited && g.park.isNone && waitsAtSeam g then
      ((s.modCur c fun g => { g with stopped := true }).sendDepotOf c.run.blk c.run.gid).settle c.run.blk c.run.gid
    else s

/-- The turn's end, or its going on, after an instruction by its SEAM field; `cut` ends the turn in any case. -/
def State.seam (s : State) (c : Cur) (seam : BitVec 2) (cut : Bool) : State :=
  if seam = 0 then (if cut then (s.endTurn c.run.core c.run.part).restOfGroup c else s)
  else (s.endTurn c.run.core c.run.part).atSeam c (seam = 2)

/-- Passes control of the issuing path to `next`: reaching J ends the path there (R369). -/
def State.goto (s : State) (c : Cur) (next : DWord) : State × Bool :=
  match s.group? c.run.blk c.run.gid with
  | none => (s, true)
  | some g =>
    match groupSlot g c.run.slotB with
    | none => (s, true)
    | some p =>
      if laneSet s c.blk c.run.gid p = 0 then (s.endPath c p, true)
      else if reachesJoin s c p next then
        (s.leaveFork c.run.blk c.run.gid c.run.slotB p p.depth true joinFuel, true)
      else (s.modPath c fun p => { p with pc := next }, false)

/-- The next PC of an instruction that transfers nothing: within a loop buffer the body begins again after its last
instruction while trips are left (R466). -/
def fallThrough (c : Cur) (o : Op) : DWord :=
  let next := c.path.pc + BitVec.ofNat 64 o.len
  match c.path.loop with
  | some lb => if lb.place + 1 == lb.body.length && lb.trip + 1 < lb.trips then lb.pc + 32 else next
  | none => next

/-- A path's loop buffer after one body instruction (R466). -/
def loopStep (p : Path) : Path :=
  match p.loop with
  | none => p
  | some lb =>
    if lb.place + 1 < lb.body.length then { p with loop := some { lb with place := lb.place + 1 } }
    else if lb.trip + 1 < lb.trips then { p with loop := some { lb with place := 0, trip := lb.trip + 1 } }
    else { p with loop := none }

/-- Finishes an instruction that passes control to `next`. -/
def finishAt (c : Cur) (o : Op) (next : DWord) (s : State) : State :=
  let r := (s.countOne c o).goto c next
  r.1.seam c o.seam r.2

/-- Finishes an instruction that falls through. -/
def finish (c : Cur) (o : Op) (s : State) : State :=
  finishAt c o (fallThrough c o) (s.modPath c loopStep)

/-- Finishes an instruction that takes a frame off the stack: its lanes are counted as the frame still stands (R299). -/
def finishAfter (c : Cur) (o : Op) (next : DWord) (upd : State → State) (s : State) : State :=
  let r := (upd (s.countOne c o)).goto c next
  r.1.seam c o.seam r.2

/-- Finishes an instruction that ends its path slot's turn whatever its SEAM field. -/
def finishCut (c : Cur) (o : Op) (next : DWord) (s : State) : State :=
  ((s.countOne c o).goto c next).1.seam c o.seam true

/-- The issuing path has left its slot: counts the instruction, then `leave`, and its turn ends. -/
def finishLeave (c : Cur) (o : Op) (leave : State → State) (s : State) : State :=
  (leave (s.countOne c o)).seam c o.seam true

/-- A path slot of a group that is not issuing, as an instruction sees it. -/
def State.curOf (s : State) (uid gid : Nat) (slotB : Bool) : Option Cur :=
  match s.block? uid with
  | none => none
  | some b =>
    match blockGroup? b gid with
    | none => none
    | some g =>
      match groupSlot g slotB with
      | none => none
      | some p => some { run := { core := b.core, part := 4, blk := uid, gid := gid, slotB := slotB }, blk := b, grp := g, path := p }

/-- A waiting instruction completes: it counts as executed, its path goes on, and its SEAM field acts (R160, R169); in a block
that ends for a fault its group stays stopped (R189). -/
def State.finishPark (s : State) (uid gid : Nat) : State :=
  match s.group? uid gid with
  | none => s
  | some g =>
    match g.park with
    | none => s
    | some k =>
      let s := s.modGroup uid gid fun g => { g with park := none }
      match s.curOf uid gid k.slotB with
      | none => s
      | some c =>
        let s := (((s.modPath c loopStep).countOne c k.op).goto c (fallThrough c k.op)).1
        if k.op.seam = 0 then (if c.blk.stop = some .fault then s.modCur c fun g => { g with stopped := true } else s)
        else s.atSeam c (k.op.seam = 2)

/-- Some group of a block waits for a phase of an object in its scratch (R220). -/
def State.phaseWaited (s : State) (uid off : Nat) : Bool :=
  match s.block? uid with
  | some b => b.groups.any fun g => match g.park with | some k => k.cond == .phase off | none => false
  | none => false

/-- A wait on a phase of an object orders the engine operations that were to signal it: every parked group with such an
operation failed takes its error, since no arrival will end the wait (R184). -/
def State.orderedErrors (s : State) (uid off : Nat) : State :=
  if s.phaseWaited uid off then
    let owners := s.cores.blocks.flatMap fun b =>
      (b.groups.filter fun g => g.park.isSome && !g.dead && g.unsent.contains (uid, off)).map fun g => (b.uid, g.gid)
    owners.foldl (fun (s : State) g => s.deliver g.1 g.2) s
  else s

/-- The issuing group parks in this instruction, its PC unmoved, and its turn ends (R169, R448). -/
def parkAt (c : Cur) (o : Op) (cond : ParkCond) (s : State) : State :=
  let s := (s.modCur c fun g => { g with park := some { cond := cond, slotB := c.run.slotB, op := o } }).endTurn
    c.run.core c.run.part
  let s := if c.blk.stop.isSome then s.sendDepotOf c.run.blk c.run.gid else s
  if c.grp.unsent.any fun x => s.phaseWaited x.1 x.2 then s.deliver c.run.blk c.run.gid else s

end Sys2Proof.Machine
end

