-- ==== Sys2Proof/Machine/Operands.lean ====
section
/-! DEFINITION. Operand forms: which registers an instruction names, reading sources lane by lane (R201, R233, R418),
writing destinations by shape (R202, R397, R398), the checks every instruction makes (R186), and the wrapper that
issues an instruction. -/

namespace Sys2Proof.Machine
open Sys2Proof

/-! ### Reading registers (R201, R233) -/

/-- The 32-bit value of a register for lane l (R201). -/
def laneVal (c : Cur) (r : BitVec 8) (l : Nat) : Word :=
  match Reg.ofNum r with
  | some (.v n) => FMap.get 0 c.grp.r.v (32 * n + l)
  | some (.a n) =>
    let x := FMap.get 0 c.grp.r.a n
    x.setWidth 32 + BitVec.ofNat 32 l * (x >>> 32).setWidth 32
  | some (.s n) => FMap.get 0 c.grp.r.s n
  | some .lane => BitVec.ofNat 32 l
  | some .quarter => BitVec.ofNat 32 (l / 8)
  | some .gid => BitVec.ofNat 32 c.run.gid
  | some .bix => BitVec.ofNat 32 (c.blk.tile - c.blk.lrec.lbase.toNat)
  | _ => 0

/-- The 64-bit value of a register pair for lane l: `a` pairs in 64-bit arithmetic (R418). -/
def pairVal (c : Cur) (r : BitVec 8) (l : Nat) : DWord :=
  match Reg.ofNum r with
  | some (.a n) =>
    let lo := FMap.get 0 c.grp.r.a n
    let hi := FMap.get 0 c.grp.r.a (n + 1)
    let base : BitVec 64 := hi.extractLsb' 0 32 ++ lo.extractLsb' 0 32
    let stride : BitVec 64 := hi.extractLsb' 32 32 ++ lo.extractLsb' 32 32
    base + BitVec.ofNat 64 l * stride
  | some .zero => 0
  | _ => laneVal c (r + 1) l ++ laneVal c r l

/-- A source operand as a number: a pair for a 64-bit type, the lane's 32 bits otherwise. -/
def srcNat (c : Cur) (wide : Bool) (r : BitVec 8) (l : Nat) : Nat :=
  if wide then (pairVal c r l).toNat else (laneVal c r l).toNat

/-- One face's operand fields. -/
structure OpSet where
  d   : BitVec 8
  a   : BitVec 8
  b   : BitVec 8
  c   : BitVec 8
  imm : BitVec 16
  /-- the count: K, or face Y's C′ (R395) -/
  k   : Nat
  deriving DecidableEq, Repr

/-- Face X's operands. -/
def setX (o : Op) : OpSet := { d := o.d, a := o.a, b := o.b, c := o.c, imm := o.imm16, k := o.kInt.toNat }

/-- Face Y's operands (R345, R356). -/
def setY (o : Op) : OpSet :=
  match o.ext with
  | .face _ _ d a b c imm => { d := d, a := a, b := b, c := c, imm := imm, k := c.toNat % 32 }
  | _ => setX o

/-- The operand set lane l uses (R383). -/
def setFor (s : State) (c : Cur) (o : Op) (l : Nat) : OpSet :=
  if o.twoFaced && !(faceMask s c.blk c.run.gid c.path).getLsbD l then setY o else setX o

/-! ### Writing registers -/

/-- Writes lane l of a general register. -/
def setLane (g : Group) (r l : Nat) (x : Word) : Group :=
  { g with r := { g.r with v := FMap.set 0 g.r.v (32 * r + l) x, bad := g.r.bad.filter (· != 32 * r + l) } }

/-- Writes a uniform register. -/
def setUni (g : Group) (n : Nat) (x : Word) : Group :=
  { g with r := { g.r with s := FMap.set 0 g.r.s n x, bad := g.r.bad.filter (· != 8192 + n) } }

/-- Writes an affine register: base in bits 31 to 0, stride in bits 63 to 32 (R199). -/
def setAff (g : Group) (n : Nat) (base stride : Word) : Group :=
  { g with r := { g.r with a := FMap.set 0 g.r.a n (stride ++ base), bad := g.r.bad.filter (· != 4096 + n) } }

/-- Writes a tile-predicate register. -/
def setTile (g : Group) (n : Nat) (x : DWord) : Group := { g with r := { g.r with t := FMap.set 0 g.r.t n x } }

/-- Writes the pattern x for lane l of a general destination: the pair for a 64-bit type. -/
def setGen (g : Group) (wide : Bool) (r l x : Nat) : Group :=
  if wide then setLane (setLane g r l (BitVec.ofNat 32 x)) (r + 1) l (BitVec.ofNat 32 (x / 2 ^ 32))
  else setLane g r l (BitVec.ofNat 32 x)

/-- Writes the pattern x to a uniform destination: the pair for a 64-bit type. -/
def setUniN (g : Group) (wide : Bool) (n x : Nat) : Group :=
  if wide then setUni (setUni g n (BitVec.ofNat 32 x)) (n + 1) (BitVec.ofNat 32 (x / 2 ^ 32))
  else setUni g n (BitVec.ofNat 32 x)

/-! ### The registers an instruction names -/

/-- The registers of one operand: none of the specials, two for a pair. -/
def regsOf (cls : Cls) (wide : Bool) (r : BitVec 8) : List Nat :=
  let pair := match cls with
    | .sPair | .sPairZ | .vPair | .gPair | .vasPair | .dSV64 | .atB64 | .tOrSPair | .retA => true
    | _ => wide
  match cls, Reg.ofNum r with
  | .z, _ | .im, _ => []
  | _, some (.v _) | _, some (.a _) | _, some (.s _) => if pair then [r.toNat, r.toNat + 1] else [r.toNat]
  | _, _ => []

/-- The whole registers that some forms name by their first (R427, R455, R456). -/
def runRegs (opc : BitVec 10) (o : Op) : List Nat :=
  let up (r : BitVec 8) (n : Nat) := (List.range n).map (r.toNat + ·)
  match opc.toNat with
  | 0x186 | 0x187 => up o.d (2 ^ o.kMem.toNat)
  | 0x204 | 0x205 => if o.kEng.toNat = 1 then up o.d (o.pf 10 8 + 1) else []
  | 0x210 =>
    let n := if o.ty == .bf16 then 16 else 8
    up o.a n ++ up o.b n
  | 0x211 => up o.d 8
  | _ => []

/-- Every register an instruction names, in the order D, A, B, C, face X first. -/
def namedRegs (opc : BitVec 10) (o : Op) : List Nat :=
  match shapeOf opc o with
  | none => []
  | some sh =>
    let one (x : OpSet) : List Nat :=
      regsOf sh.d sh.wideD x.d ++ regsOf sh.a (srcWide opc sh 1) x.a ++ regsOf sh.b (srcWide opc sh 2) x.b
        ++ (if sh.cntY then [] else regsOf sh.c (srcWide opc sh 3) x.c)
    (if o.xen then one (setX o) else []) ++ (if o.yen then one (setY o) else []) ++ runRegs opc o

/-- A conversion that inserts an element and keeps D's others (R412). -/
def inserts (opc : BitVec 10) (o : Op) : Bool :=
  [0x118, 0x11A, 0x11B].contains opc.toNat && o.ty.isPacked && !((o.sty.getD .f32).isPacked)

/-- The forms that read D: stores, what COPY, NEST and MPATH take there, SPSEL (R415), and the inserting conversions. -/
def readsD (opc : BitVec 10) (o : Op) : Bool := [0x122, 0x181, 0x183, 0x218, 0x220, 0x228].contains opc.toNat || inserts opc o

/-- The registers an instruction reads, in the order D, A, B, C, face X first, each with the active lanes that read it:
those of its face (R383). -/
def readRegs (s : State) (c : Cur) (opc : BitVec 10) (o : Op) : List (Nat × Word) :=
  match shapeOf opc o with
  | none => []
  | some sh =>
    let act := activeLanes s c o
    let fx := if o.twoFaced then faceMask s c.blk c.run.gid c.path else 0xFFFFFFFF
    let one (x : OpSet) (ls : Word) : List (Nat × Word) :=
      ((if readsD opc o then regsOf sh.d sh.wideD x.d else []) ++ regsOf sh.a (srcWide opc sh 1) x.a
        ++ regsOf sh.b (srcWide opc sh 2) x.b ++ (if sh.cntY then [] else regsOf sh.c (srcWide opc sh 3) x.c)).map fun r => (r, ls)
    (if o.xen then one (setX o) (act &&& fx) else []) ++ (if o.yen then one (setY o) (act &&& ~~~fx) else [])
      ++ (if opc = 0x187 ∨ opc = 0x210 then (runRegs opc o).map fun r => (r, act) else [])

/-- The lanes for which a register's bank holds an uncorrectable error (R190). -/
def badLanes (g : Group) (r : Nat) : Word :=
  if r < 0x80 then maskOf ((List.range 32).filter fun l => g.r.bad.contains (32 * r + l))
  else if g.r.bad.contains (if r < 0xA0 then 4096 + (r - 0x80) else 8192 + (r - 0xA0)) then 0xFFFFFFFF else 0

/-- The fixed lane that RDLANE and WRLANE read (R405). -/
def fixedLane (c : Cur) (o : Op) : Nat := if o.var = 1 then (laneVal c o.b 0).toNat % 32 else o.kInt.toNat

/-- The lanes of QMMA that read a register with these bad lanes: a quarter's own eight lanes hold its A, and its B but in the
B0 form, which takes B and its metadata from lanes 0 to 7 (R251). -/
def qmmaReads (o : Op) (r : Nat) (bad : Word) : Word :=
  let n := if o.ty == .bf16 then 16 else 8
  let isA := o.a.toNat ≤ r && r < o.a.toNat + n
  let isB := o.b.toNat ≤ r && r < o.b.toNat + n
  let isS := o.kEng.getLsbD 4 && r == o.c.toNat
  let b0 := o.kEng.getLsbD 3
  let quarter (q : Nat) : Bool := (bad >>> (8 * q)) &&& 0xFF != 0
  maskWhere fun l => (isA || isS || !b0 && isB) && quarter (l / 8) || b0 && (isB || isS) && quarter 0

/-- Among lanes that read register r, those for which the read meets an uncorrectable error (R190). -/
def failLanes (c : Cur) (opc : BitVec 10) (o : Op) (r : Nat) (ls : Word) : Word :=
  let bad := badLanes c.grp r
  match opc.toNat with
  | 0x0B9 => if bad.getLsbD (fixedLane c o) then ls else 0
  | 0x0BA => bad &&& ls &&& (1#32 <<< fixedLane c o)
  | 0x210 => qmmaReads o r bad &&& ls
  | _ => bad &&& ls

/-- UNCORR of the operand reads, each with its register's number (R186, R190). -/
def operandFaults (s : State) (c : Cur) (opc : BitVec 10) (o : Op) : List FaultInfo :=
  if c.grp.r.bad.isEmpty then []
  else
    (readRegs s c opc o).filterMap fun x =>
      let lanes := failLanes c opc o x.1 x.2
      if lanes = 0 then none else some { code := codeUncorr, lanes := lanes, aux := BitVec.ofNat 32 x.1 }

/-- UNCORR of the divergence stack, which every instruction of the path reads: its offset in the block's scratch
(R166, R190, log entry 39). -/
def stackFaults (s : State) (c : Cur) (ls : Word) : List FaultInfo :=
  let off (f : Nat) : Nat := c.blk.scr + c.run.gid * c.blk.divs * 256 + 32 * (f - 1)
  ((List.range c.path.depth).filter fun i => s.uncorrIn (frameKey c.blk c.run.gid (i + 1)) 32).map fun i =>
    { code := codeUncorr, lanes := ls, addr := BitVec.ofNat 64 (off (i + 1)) }

/-- A register lies inside the group's budget (R155, R200). -/
def inBudget (g : Group) (r : Nat) : Bool :=
  if r < 0x80 then r < g.w
  else if r < 0xA0 then 8 * ((r - 0x80) / 4) < g.n
  else if r < 0xE0 then 8 * ((r - 0xA0) / 8) < g.n
  else true

/-! ### The checks every instruction makes (R186) -/

/-- The first register outside the budget; the lowest where the form names a run of registers (R155, R456). -/
def beyondBudget (g : Group) (opc : BitVec 10) (o : Op) : Option Nat :=
  let out := (namedRegs opc o).filter fun r => !inBudget g r
  if (runRegs opc o).isEmpty then out.head? else out.min?

/-- The lowest feature bit that an instruction needs and the die lacks (R361). -/
def missingFeature (c : Cur) (opc : BitVec 10) (o : Op) : Option Nat :=
  let lack := featuresOf opc o &&& ~~~(Config.featMask (c.run.core / 64))
  (List.range 64).find? fun i => lack.getLsbD i

/-- Bit k of a tile predicate is 1, or the instruction carries none (R226, R446). -/
def tileOn (c : Cur) (o : Op) : Bool :=
  match o.ext with
  | .extn true t b _ => (FMap.get 0 c.grp.r.t t.toNat).getLsbD b.toNat
  | _ => true

/-- ILLEGAL, ABSENT, OVERLEN, REGBUDGET (an accumulator tile beyond ACCT too, R451) and HAZARD, each with the lanes that
are active, and UNCORR of the stack, or of a register, which an instruction with its tile predicate off does not read
(R226). -/
def commonFaults (s : State) (c : Cur) (opc : BitVec 10) (o : Op) : List FaultInfo :=
  let ls := activeLanes s c o
  let mk (ok : Bool) (f : FaultInfo) : List FaultInfo := if ok then [] else [f]
  (match checkOp opc o with
    | some e => [{ code := codeIllegal, lanes := ls, aux := e.word.setWidth 32 }]
    | none => [])
  ++ (match missingFeature c opc o with
    | some i => [{ code := codeAbsent, lanes := ls, aux := BitVec.ofNat 32 i }]
    | none => [])
  ++ mk (c.run.count < 24) { code := codeOverlen, lanes := ls }
  ++ (match beyondBudget c.grp opc o with
    | some r => [{ code := codeRegbudget, lanes := ls, aux := BitVec.ofNat 32 r }]
    | none => [])
  ++ mk (!(0x203 ≤ opc.toNat && opc.toNat ≤ 0x207) || o.pf 0 2 < c.blk.accts.length)
    { code := codeRegbudget, lanes := ls, aux := BitVec.ofNat 32 (0x100 + o.pf 0 2) }
  ++ (match (namedRegs opc o).find? fun r => c.grp.pend.any fun p => p.1 == r with
    | some r => [{ code := codeHazard, lanes := ls, aux := BitVec.ofNat 32 r }]
    | none => [])
  ++ stackFaults s c ls ++ (if tileOn c o then operandFaults s c opc o else [])

/-! ### Shapes of results (R202, R397, R398) -/

/-- A source is uniform: the same in every lane. -/
def uniformSrc (r : BitVec 8) : Bool :=
  match Reg.ofNum r with
  | some (.s _) | some .zero | some .gid | some .bix => true
  | _ => false

/-- Base and stride of an affine or uniform source (R397). -/
def affineSrc (c : Cur) (r : BitVec 8) : Option (Word × Word) :=
  match Reg.ofNum r with
  | some (.a n) => let x := FMap.get 0 c.grp.r.a n; some (x.setWidth 32, (x >>> 32).setWidth 32)
  | some .lane => some (0, 1)
  | some (.s _) | some .zero | some .gid | some .bix => some (laneVal c r 0, 0)
  | _ => none

/-- A value equal in every lane of the path's mask. -/
def equalOver (m x : Word) : Bool := (x &&& m) == 0 || (x &&& m) == m

/-- The guard is equal in every lane of M (R202). -/
def guardEven (c : Cur) (o : Op) : Bool := equalOver c.path.mask (guardOf c.grp o)

/-- A destination register number names an affine register. -/
def isAff (r : BitVec 8) : Bool := 0x80 ≤ r.toNat && r.toNat < 0xA0
/-- A destination register number names a uniform register. -/
def isUni (r : BitVec 8) : Bool := 0xA0 ≤ r.toNat && r.toNat < 0xE0

/-- Every source field of a shape is uniform or immediate; a predicate source equal over M (R202, R398). -/
def uniformSources (c : Cur) (opc : BitVec 10) (o : Op) : Bool :=
  match shapeOf opc o with
  | none => false
  | some sh =>
    let ok (cls : Cls) (r : BitVec 8) : Bool :=
      match cls with
      | .z | .im | .t | .tOrSPair => true
      | .pc => equalOver c.path.mask (predOf c.grp (r.toNat - 0xE0))
      | _ => uniformSrc r
    ok sh.a o.a && ok sh.b o.b && ok sh.c o.c

/-- SHAPE of a destination (R202): `aff` is the affine result the instruction has, if any (R397). -/
def shapeFaults (s : State) (c : Cur) (opc : BitVec 10) (o : Op) (aff : Option (Word × Word)) : List FaultInfo :=
  let bad : List FaultInfo := [{ code := codeShape, lanes := activeLanes s c o, aux := o.d.setWidth 32 }]
  if isUni o.d then (if uniformSources c opc o && guardEven c o then [] else bad)
  else if isAff o.d then (if aff.isSome && guardEven c o then [] else bad)
  else []

/-- Writes the results of a lane-wise instruction (R393): each active lane of a general destination, the one value of
a uniform destination, or base and stride. `f` gives a lane's pattern. -/
def writeResult (s : State) (c : Cur) (o : Op) (wide : Bool) (aff : Option (Word × Word)) (f : Nat → Nat) (g : Group) :
    Group :=
  let act := activeLanes s c o
  if isAff o.d then
    match aff with
    | some (b, st) => if act = 0 then g else setAff g (o.d.toNat - 0x80) b st
    | none => g
  else if isUni o.d then
    match lowest act with
    | some l => setUniN g wide (o.d.toNat - 0xA0) (f l)
    | none => g
  else (lanesOf act).foldl (fun g l => setGen g wide (setFor s c o l).d.toNat l (f l)) g

/-- Writes one bit of a predicate per active lane (R387, R404); the destination is the face's. -/
def writePred (s : State) (c : Cur) (o : Op) (f : Nat → Bool) (g : Group) : Group :=
  (lanesOf (activeLanes s c o)).foldl (fun g l =>
    let p := (setFor s c o l).d.toNat - 0xE0
    let old := predOf g p
    setPred g p (if f l then old ||| (1#32 <<< l) else old &&& ~~~(1#32 <<< l))) g

/-- The SR draw of an element for lane l of the issuing instruction (R13, R239). -/
def drawFor (c : Cur) (l e : Nat) : Nat :=
  drawSlice (srDraw c.blk.lrec.seed c.blk.tile l (16 * FMap.get 0 c.grp.ord l + BitVec.ofNat 64 c.run.gid)) e

/-! ### Issuing -/

/-- Issues an instruction: the common checks and its own in the order of R186, then its effect. -/
def issue (opc : BitVec 10) (o : Op) (s : State) (checks : Cur → List FaultInfo) (eff : Cur → State → State) :
    Host.Outcome State Fault Refusal :=
  match s.current with
  | none => .fault .noIssue
  | some c =>
    match firstFault (commonFaults s c opc o ++ checks c) with
    | some f => .next (raise c f s)
    | none => .next (eff c s)

/-- Issues an instruction that falls through (R369 checked). -/
def issuePlain (opc : BitVec 10) (o : Op) (s : State) (checks : Cur → List FaultInfo) (eff : Cur → State → State) :
    Host.Outcome State Fault Refusal :=
  issue opc o s (fun c => checks c ++ joinFault s c (fallThrough c o)) fun c s => finish c o (eff c s)

/-- Issues a lane-wise instruction on registers only: `aff` is its affine result, `f` a lane's pattern. -/
def issueLanes (opc : BitVec 10) (o : Op) (s : State) (wide : Bool) (aff : Cur → Option (Word × Word))
    (f : Cur → Nat → Nat) : Host.Outcome State Fault Refusal :=
  issuePlain opc o s (fun c => shapeFaults s c opc o (aff c)) fun c s' =>
    s'.modCur c (writeResult s c o wide (aff c) (f c))

/-! ### Operand patterns in the element type (R233, R241, R392) -/

/-- The pattern of A for lane l. -/
def patA (c : Cur) (o : Op) (x : OpSet) (l : Nat) : Nat := srcNat c o.ty.is64 x.a l % 2 ^ o.ty.width

/-- The pattern of B or of the immediate for lane l. -/
def patB (c : Cur) (o : Op) (x : OpSet) (l : Nat) : Nat :=
  if o.immBit then immPattern o.ty x.imm % 2 ^ o.ty.width else srcNat c o.ty.is64 x.b l % 2 ^ o.ty.width

/-- The pattern of C for lane l. -/
def patC (c : Cur) (o : Op) (x : OpSet) (l : Nat) : Nat := srcNat c o.ty.is64 x.c l % 2 ^ o.ty.width

/-- A pattern read as an integer of the type. -/
def intOf (t : Ty) (p : Nat) : Int := readInt t.isSigned t.width p

/-- The pattern a register keeps of a result of the type. -/
def laneOf (t : Ty) (p : Nat) : Nat := if t.is64 then p % 2 ^ 64 else fillLane t p

/-- The active lanes of lane l's face (R383, R388). -/
def faceLanes (s : State) (c : Cur) (o : Op) (l : Nat) : Word :=
  let fx := faceMask s c.blk c.run.gid c.path
  activeLanes s c o &&& (if fx.getLsbD l then fx else ~~~fx)

/-- Issues an integer instruction: `r` maps a lane's operand set and patterns to the result's pattern. -/
def issueInt (opc : BitVec 10) (o : Op) (s : State) (aff : Cur → Option (Word × Word))
    (r : Cur → Nat → OpSet → Nat → Nat → Nat → Nat) : Host.Outcome State Fault Refusal :=
  issueLanes opc o s o.ty.is64 aff fun c l =>
    let x := setFor s c o l
    laneOf o.ty (r c l x (patA c o x l) (patB c o x l) (patC c o x l))

/-- No affine result (R397). -/
def noAff (_ : Cur) : Option (Word × Word) := none

/-- The type, SAT and faces an affine result needs (R397). -/
def affOk (o : Op) : Bool := (o.ty == .i32 || o.ty == .n32) && !o.sat && !o.twoFaced

/-- Base and stride of B or of the immediate (R397). -/
def affB (c : Cur) (o : Op) : Option (Word × Word) :=
  if o.immBit then some (BitVec.ofNat 32 (immPattern o.ty o.imm16), 0) else affineSrc c o.b

/-- The shape of an affine result of two sources. -/
def affTwo (c : Cur) (o : Op) (f : Word × Word → Word × Word → Option (Word × Word)) : Option (Word × Word) :=
  if affOk o then
    match affineSrc c o.a, affB c o with
    | some x, some y => f x y
    | _, _ => none
  else none

/-- One lane of a packed or unpacked float result: `r` maps an element number and the lane's elements to a code. -/
def fltLane (o : Op) (a b c : Nat) (r : Nat → Nat → Nat → Nat → Nat) : Nat :=
  if o.ty.isPacked then
    packElems o.ty ((List.range o.ty.elems).map fun e => r e (elemOf o.ty a e) (elemOf o.ty b e) (elemOf o.ty c e))
  else fillLane o.ty (r 0 (elemOf o.ty a 0) (elemOf o.ty b 0) (elemOf o.ty c 0))

/-- Issues a float instruction of one element type: `r` maps the draw and the codes of the elements to a code. -/
def issueFlt (opc : BitVec 10) (o : Op) (s : State) (r : Fmt → Nat → Nat → Nat → Nat → Nat) :
    Host.Outcome State Fault Refusal :=
  issueLanes opc o s false noAff fun c l =>
    let x := setFor s c o l
    let b := if o.immBit then immPattern o.ty x.imm else (laneVal c x.b l).toNat
    fltLane o (laneVal c x.a l).toNat b (laneVal c x.c l).toNat fun e p q w =>
      r (o.ty.fmt.getD .f32) (drawFor c l e) p q w

/-- The rounding of a float instruction (R236). -/
def opMode (o : Op) : RMode := RMode.ofCode o.rm.toNat

/-! ### Whole-path instructions (R371, R422) -/

/-- How a whole-path instruction's guard stands: in every lane of M, in none, or in some. -/
inductive PathGuard where
  | all | none | some
  deriving DecidableEq, Repr

/-- R371, R422. With an empty mask no lane is guarded in (R368). -/
def pathGuard (c : Cur) (o : Op) : PathGuard :=
  let m := guardedIn c o
  if m = 0 then .none else if m = c.path.mask then .all else .some

/-- UNIFORM of a partial guard, with ADDR (R371). -/
def partialGuard (c : Cur) (o : Op) (addr : DWord) : List FaultInfo :=
  if pathGuard c o = .some then [{ code := codeUniform, lanes := guardedIn c o, addr := addr }] else []

/-- The whole-path forms with an `s` destination: ARWT, WAITMEM, LAUNCH, LWAIT. -/
def wholeUni (opc : BitVec 10) : Bool := [0x1A4, 0x1A7, 0x280, 0x281].contains opc.toNat

/-- A whole-path guard that differs over M: SHAPE where the form writes an `s` register (R202), UNIFORM at every other
(R422, R444). -/
def wholeGuard (s : State) (c : Cur) (opc : BitVec 10) (o : Op) : List FaultInfo :=
  if wholeUni opc && !guardEven c o then
    [{ code := codeShape, lanes := activeLanes s c o, aux := o.d.setWidth 32 }]
  else partialGuard c o 0

/-- Issues a whole-path instruction whose effect falls through; with no lane guarded in it only advances. -/
def issueWhole (opc : BitVec 10) (o : Op) (s : State) (checks : Cur → List FaultInfo) (eff : Cur → State → State) :
    Host.Outcome State Fault Refusal :=
  issue opc o s
    (fun c => wholeGuard s c opc o ++ (if pathGuard c o = .all then checks c else []) ++ joinFault s c (fallThrough c o))
    fun c s => if pathGuard c o = .all then eff c s else finish c o s

/-- Issues a whole-path engine instruction: with its tile predicate off it makes checks 1 to 6 only and advances
(R226, R445, R446). -/
def issueEngine (opc : BitVec 10) (o : Op) (s : State) (checks : Cur → List FaultInfo) (eff : Cur → State → State) :
    Host.Outcome State Fault Refusal :=
  issue opc o s
    (fun c =>
      if tileOn c o then
        partialGuard c o 0 ++ (if pathGuard c o = .all then checks c else []) ++ joinFault s c (fallThrough c o)
      else [])
    fun c s => if tileOn c o && pathGuard c o == .all then eff c s else finish c o s

end Sys2Proof.Machine
end

