-- ==== Sys2Proof/Machine/Packet.lean ====
section
/-! DEFINITION. What messages between packages and to the host hold (R17, R29, R33, R37): headers, and the data slots of
requests (log entry 18: the spec gives them no layout). -/

namespace Sys2Proof.Machine
open Sys2Proof

/-- Replaces bytes of a line at an offset. -/
def patchBytes (data : List Byte) (off : Nat) (bs : List Byte) : List Byte :=
  data.take off ++ bs ++ data.drop (off + bs.length)

/-- A piece of a store laid over a line's bytes. -/
def patchPart (line : DWord) (data : List Byte) (p : Part) : List Byte :=
  patchBytes data (p.va.toNat - line.toNat) (bytesLE p.size p.data.toNat)

/-- The number of an access kind in a page-fault record. -/
def kindCode : AccKind → Nat
  | .load | .prefetch => 0
  | .store => 1
  | .reduce => 2
  | .atom => 3
  | .fetch => 4
  | .copyRd => 5
  | .copyWr => 6

/-! ### Headers (R29) -/

/-- A message header. -/
def header (dpkg spkg opc len tag stat srcid : Nat) (addr : DWord) : BitVec 128 :=
  BitVec.ofNat 9 dpkg ++ BitVec.ofNat 9 spkg ++ BitVec.ofNat 6 opc ++ BitVec.ofNat 4 len ++ BitVec.ofNat 12 tag
    ++ BitVec.ofNat 8 stat ++ BitVec.ofNat 16 srcid ++ addr

def hdrDpkg (h : BitVec 128) : Nat := (h.extractLsb' 119 9).toNat
def hdrSpkg (h : BitVec 128) : Nat := (h.extractLsb' 110 9).toNat
def hdrOpc (h : BitVec 128) : Nat := (h.extractLsb' 104 6).toNat
def hdrLen (h : BitVec 128) : Nat := (h.extractLsb' 100 4).toNat
def hdrTag (h : BitVec 128) : Nat := (h.extractLsb' 88 12).toNat
def hdrStat (h : BitVec 128) : Nat := (h.extractLsb' 80 8).toNat
def hdrSrcid (h : BitVec 128) : BitVec 16 := h.extractLsb' 64 16
def hdrAddr (h : BitVec 128) : DWord := h.extractLsb' 0 64

/-- The opcodes. -/
def opcRd : Nat := 1
def opcWr : Nat := 2
def opcAtom : Nat := 3
def opcRsp : Nat := 4
def opcAck : Nat := 5
def opcErr : Nat := 6

/-! ### What requests carry (log entry 18) -/

/-- The bytes of its line a request touches, as a mask. -/
def lineMask (r : Req) : Nat :=
  if r.fill then 2 ^ 64 - 1
  else
    (r.parts.flatMap fun p => (List.range p.size).map fun i => p.va.toNat - r.line.toNat + i).eraseDups.foldl
      (fun m i => m + 2 ^ i) 0

/-- The line's bytes as a store lays them, zero elsewhere. -/
def lineData (r : Req) : List Byte := r.parts.foldl (patchPart r.line) (List.replicate 64 0)

/-- The kind of an access on the wire; prefetch is 7. -/
def wireKind : AccKind → Nat
  | .prefetch => 7
  | k => kindCode k

def ofWireKind : Nat → AccKind
  | 1 => .store
  | 2 => .reduce
  | 3 => .atom
  | 4 => .fetch
  | 5 => .copyRd
  | 6 => .copyWr
  | 7 => .prefetch
  | _ => .load

def atomCode : AtomOp → Nat
  | .add => 0 | .min => 1 | .max => 2 | .and => 3 | .or => 4 | .xor => 5 | .xch => 6 | .cas => 7 | .maxr => 8

def ofAtomCode : Nat → AtomOp
  | 1 => .min | 2 => .max | 3 => .and | 4 => .or | 5 => .xor | 6 => .xch | 7 => .cas | 8 => .maxr | _ => .add

/-- The block whose acquire or release a request is, 0 for none. -/
def blkOf (r : Req) : Nat := match r.who with | .group b _ _ | .watch b _ => b | _ => 0

/-- What promotion needs of a request at a home of another package (R287): its acquire in bits 3 to 0 and its release in bits
7 to 4, each one more than the scope, and the core it comes from. -/
def syncCode (r : Req) : Nat :=
  (match r.acq with | some sc => sc + 1 | none => 0) + 16 * (match r.rel with | some sc => sc + 1 | none => 0) + 256 * r.core

/-- The messages of a request: piece, opcode, ADDR and data. An atomic sends one message a lane. -/
def messagesOf (r : Req) : List (Nat × Nat × DWord × List Byte) :=
  let mask := bytesLE 8 (lineMask r) ++ bytesLE 1 (wireKind r.kind) ++ bytesLE 7 (syncCode r) ++ bytesLE 16 (blkOf r)
  match r.kind with
  | .store | .copyWr => [(0, opcWr, r.line, mask ++ lineData r)]
  | .atom | .reduce =>
    (List.range r.parts.length).map fun i =>
      let p := r.parts.getD i { lane := 0, va := 0, size := 4 }
      (i, opcAtom, p.va, bytesLE 1 (atomCode r.aop) ++ bytesLE 1 r.ty.code.toNat ++ bytesLE 1 p.size
        ++ bytesLE 1 (wireKind r.kind) ++ bytesLE 4 (syncCode r) ++ bytesLE 8 p.data.toNat ++ bytesLE 8 p.cmp.toNat
        ++ bytesLE 8 (blkOf r))
  | _ => [(0, opcRd, r.line, mask)]

/-! ### Planes (R36, R37) -/

/-- The live planes of this package, ascending. -/
def State.livePlanes (s : State) : List Nat :=
  (List.range 18).filter fun k => (FMap.get {} s.lnk.cplr k).state == .active

/-- The other packages a pod-scope message goes to. -/
def State.otherPkgs (s : State) : List Nat := if s.livePlanes.isEmpty then [] else Config.podMembers.filter fun q => q != s.own

/-- Tells every package of the pod. -/
def State.mgmtAll (s : State) (m : RelayMsg) : State := s.otherPkgs.foldl (fun (s : State) q => s.mgmtTo q m) s

/-- The plane of a message of VL 0 or VL 1 to package q (R37). -/
def State.planeOf (s : State) (q : Nat) (addr : DWord) : Option Nat :=
  let l := s.livePlanes
  let h := (q + (addr.extractLsb' 12 32).toNat) % 4096
  if l.isEmpty then none else l[h % l.length]?

/-- The 4 KiB granule of an address. -/
def granuleOf (addr : DWord) : Nat := addr.toNat / 4096

/-- Puts a message in the queue of messages to send. -/
def State.queuePacket (s : State) (vl pkg : Nat) (p : Packet) : State :=
  { s with lnk := { s.lnk with queue := s.lnk.queue ++ [(vl, pkg, p)] } }

/-! ### Requests to other packages (R33, R34) -/

/-- A tag is free: neither in use nor dead. -/
def State.freeTag (s : State) : Option Nat :=
  (List.range 4096).find? fun t => s.lnk.away.all (fun a => a.out || a.tag != t) && s.lnk.dead.all fun d => d.1 != t || d.2 ≤ s.clk.ref

end Sys2Proof.Machine
end

