-- ==== Sys2Proof/Machine/Fabric.lean ====
section
/-! DEFINITION. Requests on the on-package fabric: sending them, the order in which a home takes them, performing them,
the L1, promotion, the side log and the park table (R110 to R118, R208, R222, R282, R283, R287, R426). -/

namespace Sys2Proof.Machine
open Sys2Proof

/-! ### Atomics (R430) -/

/-- The value an atomic or a COPYR update leaves: `old` at the address, operand b, comparand d (R430). -/
def atomNew (op : AtomOp) (t : Ty) (old b d : Nat) : Nat :=
  match op with
  | .and => old &&& b
  | .or => old ||| b
  | .xor => old ^^^ b
  | .xch | .maxr => b
  | .cas => if old = d then b else old
  | .add =>
    match t.fmt with
    | some f => roundVal f .rne false 0 ((decFmt f old).add .rne (decFmt f b))
    | none => wrapNat t.width (intOf t old + intOf t b)
  | .min =>
    match t.fmt with
    | some f => roundVal f .rne false 0 ((decFmt f old).min2 (decFmt f b))
    | none => if intOf t b < intOf t old then b else old
  | .max =>
    match t.fmt with
    | some f => roundVal f .rne false 0 ((decFmt f old).max2 (decFmt f b))
    | none => if intOf t old < intOf t b then b else old

/-! ### Kinds of access -/

/-- The access writes. -/
def AccKind.writes : AccKind → Bool
  | .store | .reduce | .atom | .copyWr => true
  | _ => false

/-- Two pieces share a byte. -/
def partsMeet (a b : Part) : Bool := a.va.toNat < b.va.toNat + b.size && b.va.toNat < a.va.toNat + a.size

/-- Two requests come from one group. -/
def sameGroup (a b : Req) : Bool :=
  match a.who, b.who with
  | .group u g _, .group v h _ | .group u g _, .watch v h | .watch u g, .group v h _ => u == v && g == h
  | _, _ => false

/-- Two requests of one core, or of one group, share a byte; a group that has moved keeps the order of its accesses (R280). -/
def reqsMeet (a b : Req) : Bool :=
  a.scr == b.scr && (a.core == b.core || (!a.scr && sameGroup a b)) && a.parts.any fun p => b.parts.any fun q => partsMeet p q

/-- The request is on its way or waits at its home. -/
def inFlight (r : Req) : Bool :=
  match r.phase with
  | .flying | .parked _ | .deferred | .cxl _ _ _ | .hosted _ | .away => true
  | _ => false

/-- The request has been performed or has failed. -/
def reqDone (r : Req) : Bool :=
  match r.phase with
  | .answered | .failed _ _ => true
  | _ => false

/-! ### Requests -/

/-- Sends a request, numbering it (R426). -/
def State.send (s : State) (r : Req) : State × Nat :=
  let id := s.fab.nextId
  ({ s with fab := { s.fab with
      reqs := s.fab.reqs ++ [{ r with id := id, seq := id, sent := s.clk.ref }], nextId := id + 1 } }, id)

def State.req? (s : State) (id : Nat) : Option Req := s.fab.reqs.find? fun r => r.id == id

def State.dropReq (s : State) (id : Nat) : State :=
  { s with fab := { s.fab with reqs := s.fab.reqs.filter fun r => r.id != id } }

/-- An answer that has reached a unit. -/
def State.got? (s : State) (id : Nat) : Option Req := s.fab.got.find? fun r => r.id == id

def State.dropGot (s : State) (id : Nat) : State :=
  { s with fab := { s.fab with got := s.fab.got.filter fun r => r.id != id } }

/-- A request has been performed with respect to every agent, promotes included (R282, R283, R287). -/
def State.performed (s : State) (id : Nat) : Bool :=
  (s.fab.reqs.all fun r => r.id != id || reqDone r) && (s.fab.side.all fun e => e.req.id != id)
    && s.fab.proms.all fun p => p.req != id

/-- The requests of a group not yet performed, side log included. -/
def State.outstanding (s : State) (uid gid : Nat) : List Req :=
  (s.fab.reqs.filter fun r => ofGroup uid gid r && r.kind != .prefetch && !s.performed r.id)
    ++ ((s.fab.side.filter fun e => ofGroup uid gid e.req).map fun e => e.req)

/-- Acquires of a group not yet performed: later accesses wait for them (R283). -/
def State.acqDeps (s : State) (uid gid : Nat) : List Nat :=
  ((s.outstanding uid gid).filter fun r => r.acq.isSome).map fun r => r.id

/-- Every access of the group has been acknowledged, side log included: what a release waits for at any scope (R115,
R184, R282). -/
def State.acked (s : State) (uid gid : Nat) : Bool :=
  (s.fab.reqs.all fun r => !ofGroup uid gid r || r.kind == .prefetch)
    && s.fab.side.all fun e => !ofGroup uid gid e.req

/-- No acquire of the group is under way, and no scratch access waits behind one (R207, R283). -/
def State.scrClear (s : State) (uid gid : Nat) : Bool :=
  (s.acqDeps uid gid).isEmpty && s.fab.reqs.all fun r => !(ofGroup uid gid r && r.scr && inFlight r)

/-- Releases of a group not yet performed: its later acquires wait for them (R284, R297). -/
def State.relDeps (s : State) (uid gid : Nat) : List Nat :=
  ((s.outstanding uid gid).filter fun r => r.rel.isSome).map fun r => r.id

/-- An acquire of the group may be performed on the core at once (R283, R284, R297). -/
def State.memClear (s : State) (uid gid : Nat) : Bool := s.scrClear uid gid && (s.relDeps uid gid).isEmpty

/-- The group has performed a release (R287). -/
def State.noteRelease (s : State) (uid gid : Nat) : State :=
  s.modGroup uid gid fun g => { g with rels := s.fab.nextId }

/-- The SRCID of a group's requests (R495). -/
def groupSrc (b : Block) (g : Group) : BitVec 16 :=
  BitVec.ofNat 16 (b.core / 64 % 4 * 2 ^ 14 + b.core % 64 * 2 ^ 8 + g.gslot % 64)

/-- The SRCID of a copy channel (R495). -/
def channelSrc (core ch : Nat) : BitVec 16 := BitVec.ofNat 16 (core / 64 % 4 * 2 ^ 14 + core % 64 * 2 ^ 8 + 64 + ch)

/-- XLT_PFTO (R118). -/
def State.pfto (s : State) : Nat := (s.reg .xltPfto 0).toNat % 2 ^ 32

/-- A time that began at t has run out by XLT_PFTO; it stands still while the clock of the issuing core's cluster is gated (R55). -/
def State.pftoOver (s : State) (core t : Nat) : Bool := s.pfto != 0 && t + s.pfto ≤ s.clk.ref && !s.standsStill core

/-- The SRCID of a host port (R495): port A on I/O die 0, port B on I/O die 1. -/
def hostSrc (port : Nat) : BitVec 16 := BitVec.ofNat 16 (port * 2 ^ 14 + 192 + port)

/-- The SRCID of an I/O-die agent (R495): 4 firmware, 5 relays, 6 queue engine and Yeleno engines. -/
def unitSrc (u : Nat) : BitVec 16 := BitVec.ofNat 16 (192 + u)

/-! ### The depot (R222) -/

/-- The lines pending in a core's depot. -/
def State.depotLines (s : State) (core : Nat) : List DWord :=
  ((s.fab.reqs.filter fun r => r.phase == .depot && r.core == core).map fun r => r.line).eraseDups

/-! ### The L1 (R208) -/

def State.l1? (s : State) (core : Nat) (line : DWord) : Option L1Line :=
  s.fab.l1.find? fun l => l.core == core && l.line == line

def State.l1Drop (s : State) (core : Nat) (line : DWord) : State :=
  { s with fab := { s.fab with l1 := s.fab.l1.filter fun l => !(l.core == core && l.line == line) } }

/-- Invalidates every line of a core; data that other packages have read for it before, still on their way, fill no line
(R283, R286, R443). -/
def State.l1Clear (s : State) (core : Nat) : State :=
  { s with fab := { s.fab with
      l1 := s.fab.l1.filter fun l => l.core != core
      reqs := s.fab.reqs.map fun r => if r.core == core && r.phase == .away then { r with fill := false } else r } }

/-- An acquire of clu or wider has been performed: the core's L1 is cleared, and the group's fetches see its own stores (R283,
R341). -/
def State.l1Acquire (s : State) (who : Agent) (core : Nat) : State :=
  match who with
  | .group b g _ | .watch b g => (s.modGroup b g fun g => { g with codeOld := [] }).l1Clear core
  | _ => s.l1Clear core

/-- A store updates a present line (R208). -/
def State.l1Store (s : State) (core : Nat) (line : DWord) (ps : List Part) : State :=
  { s with fab := { s.fab with l1 := s.fab.l1.map fun l =>
      if l.core == core && l.line == line then { l with data := ps.foldl (patchPart line) l.data } else l } }

/-- Later stores of the same core to a line that are on their way or in the depot, laid over its bytes (R280). -/
def State.younger (s : State) (r : Req) (data : List Byte) : List Byte :=
  (s.fab.reqs.filter fun q =>
    q.core == r.core && q.kind == .store && !q.scr && q.line == r.line && r.seq < q.seq && (inFlight q || q.phase == .depot)).foldl
    (fun d q => q.parts.foldl (patchPart r.line) d) data

/-- A store performed at its home stands in the line of its core where one is present, later stores over it (R208, R280). -/
def State.l1Written (s : State) (r : Req) : State :=
  { s with fab := { s.fab with l1 := s.fab.l1.map fun l =>
      if l.core == r.core && l.line == r.line then { l with data := s.younger r (r.parts.foldl (patchPart r.line) l.data) } else l } }

/-- Fills a line with the home's bytes, later stores of the core laid over them; the oldest line of a full L1 gives way (log
entry 10). -/
def State.l1Fill (s : State) (r : Req) (data : List Byte) : State :=
  let data := s.younger r data
  let mine := (s.l1Drop r.core r.line).fab.l1.filter fun l => l.core == r.core
  let s := s.l1Drop r.core r.line
  let s := match mine with
    | l :: _ => if 2048 ≤ mine.length then s.l1Drop l.core l.line else s
    | [] => s
  { s with fab := { s.fab with l1 := s.fab.l1 ++ [{ core := r.core, line := r.line, data := data }] } }

/-! ### Scopes (R278) and promotion (R287) -/

/-- Core b lies in scope sc of core a; grp and blk never reach another block. -/
def coreInScope (sc a b : Nat) : Bool :=
  match sc with
  | 0 | 1 => false
  | 2 => a / 4 == b / 4
  | 3 => a / 64 == b / 64
  | _ => true

/-- The cores that hold blocks or have requests on their way. -/
def State.busyCores (s : State) : List Nat :=
  ((s.cores.blocks.map fun b => b.core) ++ (s.fab.reqs.map fun r => r.core)
    ++ (s.fab.side.map fun e => e.core)).eraseDups.filter fun c => c < 256

/-- Where a request comes from: its package, core and block; another package's says so itself (R287). -/
def State.originOf (s : State) (r : Req) : Nat × Nat × Nat :=
  match r.who with
  | .peer pkg _ => (pkg, r.of_.1, r.of_.2)
  | _ => (s.own, r.core, blkOf r)

/-- Marks of narrower releases that an acquire of scope sc must promote (R287); within one package an acquire of scope pod does
what one of scope pkg does (R288). -/
def State.promotable (s : State) (r : Req) (sc : Nat) (keys : List (Nat × Nat)) : Bool :=
  let o := s.originOf r
  s.fab.marks.any fun m =>
    (keys.any fun k => m.key < k.1 + k.2 && k.1 < m.key + m.size) && m.pkg == o.1 && m.scope < min sc 4 && m.blk != o.2.2
      && coreInScope sc o.2.1 m.core && !coreInScope m.scope m.core o.2.1

/-- Sends the promotes of an acquire. -/
def State.sendPromotes (s : State) (r : Req) (sc : Nat) : State :=
  (s.busyCores.filter fun c => c == r.core || coreInScope sc r.core c).foldl (fun (s : State) c =>
    let (s, n) := s.fresh
    let q : Promote := { id := n, core := c, req := r.id }
    let s : State := { s with fab := { s.fab with proms := s.fab.proms ++ [q] } }
    s.countCore 0x000D r.core) s

/-- The marks after a write (R285, R287): a plain write ends the release sequence of its bytes, an atomic continues it,
and a release leaves its own mark. -/
def State.markWrite (s : State) (r : Req) (keys : List (Nat × Nat)) : State :=
  let hit (m : RelMark) : Bool := keys.any fun k => m.key < k.1 + k.2 && k.1 < m.key + m.size
  let o := s.originOf r
  let kept := if (r.kind == .atom || r.kind == .reduce) && r.rel.isNone then s.fab.marks else s.fab.marks.filter fun m => !hit m
  let own : List RelMark := match r.rel with
    | some sc => if sc < 4 then keys.map fun k => { key := k.1, size := k.2, scope := sc, pkg := o.1, blk := o.2.2, core := o.2.1 } else []
    | none => []
  { s with fab := { s.fab with marks := kept ++ own } }

/-! ### Performing a request -/

/-- Performs one piece at a key: the memory after it, and the value it returns. -/
def performPart (m : Memory) (r : Req) (p : Part) (key : Nat) : Memory × DWord :=
  let old := m.num key p.size
  match r.kind with
  | .store | .copyWr => (m.setNum key p.size p.data.toNat, 0)
  | .atom | .reduce =>
    (m.setNum key p.size (atomNew r.aop r.ty old (p.data.toNat % 2 ^ (8 * p.size)) (p.cmp.toNat % 2 ^ (8 * p.size))),
      BitVec.ofNat 64 old)
  | _ => (m, BitVec.ofNat 64 old)

/-- Performs the pieces of a request in ascending lane order (R425, R431). -/
def performParts (m : Memory) (r : Req) (keyOf : DWord → Nat) : List Part → Memory × List DWord
  | [] => (m, [])
  | p :: ps =>
    let (m, v) := performPart m r p (keyOf p.va)
    let (m, vs) := performParts m r keyOf ps
    (m, v :: vs)

/-- What a watchpoint sees of a performed write (R303, R305). -/
def State.watchReq (s : State) (r : Req) (old new_ : List Byte) : State :=
  let src : Nat × DWord := match r.who with
    | .peer pkg _ => (3, BitVec.ofNat 64 (pkg * 65536))
    | .unit 4 _ => (4, BitVec.ofNat 64 (s.own * 65536))
    | .channel _ ch =>
      if r.kind == .reduce then (2, BitVec.ofNat 64 (s.own * 65536)) else (1, BitVec.ofNat 64 (ch * 2 ^ 25 + s.own * 65536))
    | _ => (if r.kind == .atom || r.kind == .reduce then 2 else 0, BitVec.ofNat 64 (s.own * 65536))
  let w : Watched := {
    srck := src.1, pc := r.pc, hid := src.2 ||| r.srcid.setWidth 64, line := r.line, old := old, new_ := new_
    parts := r.parts.map fun p => (p.lane, p.va.toNat - r.line.toNat, p.size) }
  let s' := s.watch w
  match r.who with
  | .channel core ch =>
    if s.stopHit w then { s' with dbg := { s'.dbg with halted := (core, ch) :: s'.dbg.halted } } else s'
  | _ => s'

/-- A write to a watched line that the home holds back until the stop of a hit (R307). -/
def State.heldByStop (s : State) (r : Req) : Bool := s.isHalting && r.kind.writes && !r.scr && s.isWatched r.line

/-- A channel whose write hit delivers nothing more before the stop (R306, R307). -/
def State.haltedChan (s : State) (core ch : Nat) : Bool := s.isHalting && s.dbg.halted.contains (core, ch)

/-- Notes the bits of an access performed under its leaf (R102, R105). -/
def State.gatherReq (s : State) (r : Req) : State :=
  match r.leaf with
  | none => s
  | some t =>
    let src := if r.core < 256 then some (r.core / 64) else none
    let peer := match r.who with | .peer _ _ => true | _ => false
    s.gather t (gathered r.kind src peer)

/-- What else a request performed at this package's homes or at its host does: gathered bits, marks of a write, the release of
its group, promotes (sent for an acquire here; the home of another package's says in its answer that there are some; found
before the write changes the marks, R287), and the L1 of its core. An acquire of scope clu or wider clears that L1 (R283). `keys`
are the keys and sizes of its pieces, `new_` the line's bytes after it. -/
def State.performedAs (s : State) (r : Req) (keys : List (Nat × Nat)) (new_ : List Byte) : State :=
  let narrow (sc : Nat) : Bool := s.promotable r sc keys
  let s := if r.scr then s else s.gatherReq r
  let s := if r.kind.writes && !r.scr then s.markWrite r keys else s
  let s := match r.who, r.rel with
    | .group b g _, some _ => s.modGroup b g fun g => { g with rels := max g.rels r.id }
    | _, _ => s
  let s := match r.who, r.acq with
    | .peer _ _, _ => s
    | _, some sc =>
      let s := if 2 ≤ sc && !r.scr && narrow sc then s.sendPromotes r sc else s
      if 2 ≤ sc then s.l1Acquire r.who r.core else s
    | _, none => s
  let s := if r.scr then s else if r.kind == .store then s.l1Written r else if r.fill then s else s.l1Drop r.core r.line
  if r.fill then s.l1Fill r new_ else s

/-- A request fails, and with it every other one merged into its depot entry that is under way (R223). -/
def State.failAll (s : State) (r : Req) (stat cause : Nat) : State :=
  let hit (q : Req) : Bool := q.id == r.id || (r.merge != 0 && q.merge == r.merge && inFlight q)
  { s with fab := { s.fab with reqs := s.fab.reqs.map fun q => if hit q then { q with phase := .failed stat cause } else q } }

/-- Performs pieces of an atomic lane by lane, each lane's update a write of its own (R429, R431): the watchpoints see it, and a
hit that stops a package holds the lanes after it back (R304 to R307). Answers the old values of the lanes performed. -/
def State.performLanes (s : State) (r : Req) (keyOf : DWord → Nat) : List Part → State × List DWord
  | [] => (s, [])
  | p :: ps =>
    let old := s.fab.mem.bytes (keyOf r.line) 64
    let (m, v) := performPart s.fab.mem r p (keyOf p.va)
    let s' : State := { s with fab := { s.fab with mem := m } }
    let s' := s'.watchReq { r with parts := [p] } old (m.bytes (keyOf r.line) 64)
    if s'.heldByStop r && decide (r.done < r.parts.length) then (s', [v])
    else
      let (s', vs) := s'.performLanes r keyOf ps
      (s', v :: vs)

/-- Performs the pieces of a request in the memory of this package, as one write or, an atomic's, lane by lane: the old values of
those performed. -/
def State.performData (s : State) (r : Req) (keyOf : DWord → Nat) (ps : List Part) : State × List DWord :=
  if r.kind == .atom && !r.scr then s.performLanes r keyOf ps
  else
    let old := s.fab.mem.bytes (keyOf r.line) 64
    let (m, vals) := performParts s.fab.mem r keyOf ps
    let s' : State := { s with fab := { s.fab with mem := m } }
    (if r.kind.writes && !r.scr then s'.watchReq r old (m.bytes (keyOf r.line) 64) else s', vals)

/-- The lanes of an atomic that it has performed already. -/
def lanesDone (r : Req) : Nat := if r.kind == .atom && decide (r.done < r.parts.length) then r.done else 0

/-- Performs a request whose checks have passed in the memory of this package: its data, what else it does, and the answer.
A line with an uncorrectable error is never delivered, and a die cache's is invalidated (R15, R190). -/
def State.perform (s : State) (r : Req) (keyOf : DWord → Nat) : State :=
  let keys := r.parts.map fun p => (keyOf p.va, p.size)
  let lk := keyOf r.line
  let n := lanesDone r
  if !r.scr && (s.fab.bad ++ s.fab.cbad).any fun k => lk ≤ k && k < lk + 64 then
    State.failAll { s with fab := { s.fab with cbad := s.fab.cbad.filter fun k => !(lk ≤ k && k < lk + 64) } } r statUncorr 0
  else
    let promote := match r.who, r.acq with | .peer _ _, some sc => s.promotable r sc keys | _, _ => false
    let (s, vals) := s.performData r keyOf (r.parts.drop n)
    let vals := r.vals.take n ++ vals
    if vals.length < r.parts.length then s.modReq r.id fun r => { r with phase := .flying, vals := vals, done := vals.length }
    else
      (s.performedAs r keys (s.fab.mem.bytes lk 64)).modReq r.id fun r =>
        { r with phase := .answered, vals := vals, fill := r.fill || promote }

/-! ### Page faults (R112) -/

/-- The SRCID of the relays, of the queue engine and the Yeleno engines, and of the firmware (R495); the die field is I/O
die 0. -/
def relaySrc : BitVec 16 := unitSrc 5
def queueSrc : BitVec 16 := unitSrc 6
def firmSrc : BitVec 16 := unitSrc 4

/-- The core number the requests of I/O-die agents carry: none. -/
def ioCore : Nat := 256

/-- The pieces of an access of n bytes at an address, of at most 8 bytes each and within lines, with their data. -/
def bytePieces (va : DWord) (bs : List Byte) : Nat → Nat → List Part
  | 0, _ => []
  | fuel + 1, i =>
    if bs.length ≤ i then []
    else
      let a := va + BitVec.ofNat 64 i
      let n := min (8 - a.toNat % 8) (bs.length - i)
      { lane := i, va := a, size := n, data := BitVec.ofNat 64 (natOfBytes ((bs.drop i).take n)) }
        :: bytePieces va bs fuel (i + n)

/-- Sends a relay message to another package, on VL 2 (R29). -/
def State.relayTo (s : State) (pkg : Nat) (m : RelayMsg) : State :=
  let p : Packet := {
    hdr := BitVec.ofNat 9 pkg ++ BitVec.ofNat 9 s.own ++ (0x07 : BitVec 6) ++ (0 : BitVec 4) ++ (0 : BitVec 12)
      ++ (0 : BitVec 8) ++ relaySrc ++ (0 : BitVec 64), relay := some m }
  { s with lnk := { s.lnk with queue := s.lnk.queue ++ [(2, pkg, p)] } }

/-- Sends one access of bytes of one line by an I/O-die agent; `purpose` and `arg` say what it serves (log entry 13). -/
def State.unitSend (s : State) (purpose arg : Nat) (src : BitVec 16) (kind : AccKind) (va : DWord) (bs : List Byte)
    (deps : List Nat) (rel : Option Nat) : State × Nat :=
  let va := s.resolve va
  s.send {
    id := 0, kind := kind, core := ioCore, who := .unit purpose arg, line := lineOf va
    parts := bytePieces va bs bs.length 0, deps := deps, rel := rel, srcid := src }

/-- Splits bytes at an address into the parts of each line. -/
def lineChunks (va : DWord) (bs : List Byte) : Nat → List (DWord × List Byte)
  | 0 => []
  | fuel + 1 =>
    if bs.isEmpty then []
    else
      let n := 64 - va.toNat % 64
      (va, bs.take n) :: lineChunks (va + BitVec.ofNat 64 n) (bs.drop n) fuel

/-- A ring is set: its base is a region 6 VA of this package (R112, R192). -/
def State.ringSet (s : State) (ring : DWord) : Bool :=
  let base := ring &&& 0xFFFFFFFFFFFFF000
  base != 0 && vaLegal base && s.isOwn base && vaRgn base == 6

/-- A slot of a ring in host memory: the VA of entry k of a ring register's ring of 2^(SZ + 4) entries, and whether entry k may be
written, the host having taken `head` (R112, R192). -/
def ringSlot (ring : DWord) (k bytes : Nat) : DWord :=
  (ring &&& 0xFFFFFFFFFFFFF000) + BitVec.ofNat 64 (k % 2 ^ ((ring.extractLsb' 8 4).toNat + 4) * bytes)
def State.ringRoom (s : State) (ring head : DWord) (k : Nat) : Bool :=
  s.ringSet ring && decide ((BitVec.ofNat 32 k - head.setWidth 32).toNat < 2 ^ ((ring.extractLsb' 8 4).toNat + 4))

/-- Writes the oldest page-fault record into the host's ring when a slot is free, one record at a time; while port A is down the
firmware waits (R112, log entry 40). -/
def State.pageFaultOut (s : State) : State :=
  match s.fw.pf with
  | [] => s
  | r :: _ =>
    let ring := s.reg .xltHring 0
    if s.fw.pfBusy || !s.ringRoom ring (s.reg .xltHhead 0) s.fw.pfTail || !s.portUp 0 then s
    else (State.unitSend { s with fw := { s.fw with pfBusy := true } } 8 0 firmSrc .store (ringSlot ring s.fw.pfTail 32) r [] none).1

/-- Entries of the error log are dropped and counted (R192). -/
def State.lostEntries (s : State) (n : Nat) : State :=
  s.setReg .fwcEllost 0 (BitVec.ofNat 64 (min (2 ^ 32 - 1) ((s.reg .fwcEllost 0).toNat + n)))

/-- Writes the oldest accepted entry of the error log, both its lines at once; those that wait while no ring is set any more are
dropped (R192). -/
def State.errorLogOut (s : State) : State :=
  match s.fw.el with
  | [] => s
  | e :: _ =>
    if s.fw.elBusy ≠ 0 then s
    else if !s.ringSet (s.reg .fwcElog 0) then State.lostEntries { s with fw := { s.fw with el := [] } } s.fw.el.length
    else if !s.portUp 0 then s
    else
      let va := ringSlot (s.reg .fwcElog 0) e.1 128
      (lineChunks va e.2 2).foldl (fun (s : State) c =>
        (State.unitSend { s with fw := { s.fw with elBusy := s.fw.elBusy + 1 } } 9 0 firmSrc .store c.1 c.2 [] none).1)
        { s with fw := { s.fw with elBad := false } }

/-- The page that an absent address lies in: its leaf's, and 64 KiB where nothing is mapped (log entry 88). -/
def State.absentPage (s : State) (home : Nat) (va : DWord) : DWord :=
  match s.lookup home va with
  | .leaf _ size _ _ => va &&& ~~~(BitVec.ofNat 64 (size - 1))
  | _ => pageOf va

/-- Posts a page-fault record the first time a home finds a page absent (R112). -/
def State.postAbsent (s : State) (home : Nat) (r : Req) (cause : Nat) : State :=
  let page := s.absentPage home (s.resolve r.line)
  if s.fab.posted.contains (home, page) then s
  else
    let pkg := match r.who with | .peer p _ => p | _ => s.own
    let rec_ := bytesLE 8 page.toNat ++ bytesLE 1 (kindCode r.kind) ++ bytesLE 1 cause ++ bytesLE 2 pkg
      ++ bytesLE 2 r.srcid.toNat ++ bytesLE 2 0 ++ bytesLE 8 s.clk.ref ++ bytesLE 8 s.fw.pfSeq
    State.pageFaultOut { s with
      fab := { s.fab with posted := (home, page) :: s.fab.posted }
      fw := { s.fw with pfSeq := s.fw.pfSeq + 1, pf := s.fw.pf ++ [rec_] } }

/-! ### The host's memory (R17, R19, R100) -/

/-- The package number under which messages to the host stand among those outstanding: no package's. -/
def hostPkg : Nat := 512

/-- Sends one message of a region 6 access on port A; it carries the host address. The host answers without a time-out of
CPLR_E2ETO, which R33 gives for the Coupler (DESIGN CHOICE, log entry 109). -/
def State.hostMessage (s : State) (r : Req) (base : DWord) (m : Nat × Nat × DWord × List Byte) : State :=
  match s.freeTag with
  | none => s
  | some t =>
    let addr := base + (m.2.2.1 - r.line)
    let p : Packet := { hdr := header s.own s.own m.2.1 (m.2.2.2.length / 16) t 0 r.srcid.toNat addr, data := m.2.2.2 }
    let a : Away := { id := r.id, piece := m.1, pkg := hostPkg, tag := t, granule := granuleOf addr, due := 0, began := s.clk.ref }
    { s with lnk := { s.lnk with away := s.lnk.away ++ [a] }, sent := s.sent ++ [.host 0 p] }

/-- Tags are free for a number of messages. -/
def State.tagsFor (s : State) (n : Nat) : Bool :=
  decide ((s.lnk.away.filter fun a => !a.out).length + (s.lnk.dead.filter fun d => s.clk.ref < d.2).length + n ≤ 4096)

/-- A region 6 access leaves for the host; while tags are short it waits. -/
def State.sendHost (s : State) (r : Req) (key : Nat) : State :=
  let ms := messagesOf r
  if s.tagsFor ms.length then
    let s := s.modReq r.id fun q => { q with phase := .hosted s.fab.epoch, leaf := r.leaf, vals := List.replicate r.parts.length 0 }
    ms.foldl (fun (s : State) m => s.hostMessage r (BitVec.ofNat 64 (key - spaceKey hostSpace 0)) m) s
  else s

/-! ### The order at a home -/

/-- An earlier request of the same core to a common byte is still under way (R282, R426). -/
def State.blockedBy (s : State) (r : Req) : Bool :=
  s.fab.reqs.any fun q => q.id != r.id && q.seq < r.seq && inFlight q && reqsMeet q r

/-- A scratch request waits for every earlier one of its group (R207). -/
def State.blockedScr (s : State) (r : Req) : Bool :=
  r.scr && s.fab.reqs.any fun q => q.scr && q.seq < r.seq && inFlight q && q.core == r.core

/-- A deferred access of the same core to a common byte has not been performed. -/
def State.blockedSide (s : State) (r : Req) : Bool := s.fab.side.any fun e => reqsMeet e.req r

/-- The access takes DEFER on an absent page (R110); those of a relay, an engine of commands or the firmware park
(R494). -/
def defers (r : Req) : Bool :=
  r.kind.writes && (match r.who with | .unit _ _ => false | _ => true)

/-- An access that no home of this package serves. -/
def State.isAway (s : State) (r : Req) : Bool := !r.scr && !s.isOwn r.line

/-- The parked requests of a home. -/
def State.parkedReqs (s : State) (home : Nat) : List Req :=
  s.fab.reqs.filter fun r =>
    (match r.phase with | .parked _ => true | _ => false) && homeOf r.line == home && !r.scr

/-- The park table of a home: parked requests, and the side-log entries handed to it (R111, R115). -/
def State.parkedAt (s : State) (home : Nat) : List Req :=
  s.parkedReqs home ++ (s.fab.side.filter fun e => e.handed && e.home == home && s.isOwn e.page).map fun e => e.req

/-- An earlier request that another package sent for the same granule has not been performed: the two are performed in the order
sent (R37). One that is parked or deferred holds nothing back. -/
def State.peerBehind (s : State) (r : Req) : Bool :=
  let waits (q : Req) : Bool :=
    match q.phase with
    | .flying => q.came.isNone
    | .cxl _ _ _ | .hosted _ => true
    | _ => false
  match r.who with
  | .peer pkg _ => s.fab.reqs.any fun q =>
      decide (q.seq < r.seq) && waits q && (match q.who with | .peer p _ => p == pkg | _ => false)
        && granuleOf q.addr == granuleOf r.addr
  | _ => false

/-- An acquire waits for the earlier releases of its group (R284, R297). -/
def State.behindRelease (s : State) (r : Req) : Bool :=
  r.acq.isSome && ((s.fab.reqs.any fun q => decide (q.seq < r.seq) && q.rel.isSome && sameGroup q r && (inFlight q || q.phase == .depot))
    || s.fab.side.any fun e => decide (e.req.seq < r.seq) && e.req.rel.isSome && sameGroup e.req r)

/-- A scratch load that waited for acquires meets an uncorrectable error (R190). -/
def State.scrBad (s : State) (r : Req) : Bool :=
  r.scr && r.kind == .load && r.parts.any fun p => s.uncorrIn (spaceKey (scratchSpace r.core) p.va.toNat) p.size

/-- The rules of order let a flying request go on. -/
def State.inTurn (s : State) (r : Req) : Bool :=
  r.phase == .flying && r.deps.all s.performed && !s.blockedBy r && !s.behindRelease r

/-- A flying request may come to its home or to its core's scratch now. -/
def State.mayCome (s : State) (r : Req) : Bool :=
  s.inTurn r && !s.blockedScr r && !s.isAway r && !s.peerBehind r
    && (!s.blockedSide r || (defers r && (match s.check (homeOf r.line) r.kind r.line with | .absent _ => true | _ => false)))

/-- A flying request may be taken there. -/
def State.mayReach (s : State) (r : Req) : Bool := s.mayCome r && !s.scrBad r

/-- The check that fails a request, or another request merged into its depot entry: all of an entry fail together (R223). -/
def State.entryFail (s : State) (home : Nat) (r : Req) : Option (Nat × Nat) :=
  let mates := s.fab.reqs.filter fun q => r.merge != 0 && q.merge == r.merge && q.id != r.id && inFlight q
  (r :: mates).findSome? fun q => match s.check home q.kind q.line with | .fail stat cause => some (stat, cause) | _ => none

/-- A request and those merged with it fail at their home; a prefetch of this package is dropped (R101). -/
def State.failAt (s : State) (r : Req) (stat cause : Nat) : State :=
  if r.kind == .prefetch && (match r.who with | .peer _ _ => false | _ => true) then s.dropReq r.id
  else s.failAll r stat cause

/-- A request meets an absent page (R110, R111, R494): a prefetch is dropped (another package's is told, log entry 18), a write
of a core takes DEFER, and anything else parks in its order of arrival, or waits in front of a full park table. -/
def State.meetAbsent (s : State) (home : Nat) (r : Req) (cause : Nat) : State :=
  if r.kind == .prefetch then s.failAt r statXlt 0
  else
    let s := s.postAbsent home r cause
    if defers r then s.modReq r.id fun r => { r with phase := .deferred }
    else
      let came := r.came.getD (s.clk.ref, s.fab.nextId)
      let s := s.fresh.1
      if (s.parkedAt home).length < 4096 then
        (s.modReq r.id fun r => { r with phase := .parked came.1, came := some came }).countDie 0x0009 home
      else s.modReq r.id fun r => { r with came := some came }

/-- A request translated under a leaf: it waits for an expander, leaves for the host, or is performed (R17, R19 to R22); for an
expander or the host, behind the earlier ones of its package and granule (R37). -/
def State.reachLeaf (s : State) (home : Nat) (r : Req) (t : TlbEntry) : State :=
  let key := targetKey home t.leaf t.size
  let s := s.cacheLeaf t
  if 5 ≤ vaRgn r.line ∧ s.peerBehind r then s
  else if vaRgn r.line = 5 then
    let limit := (s.reg .cxlReqto 0).toNat % 2 ^ 32
    let d := s.hdmOf (key r.line - spaceKey tierSpace 0)
    State.modReq { s with sent := s.sent ++ [.cxl d.1 r.id d.2] } r.id fun q => { q with
      phase := .cxl (if limit = 0 then 0 else s.clk.ref + limit) s.fab.epoch (key r.line), leaf := some t, began := s.clk.ref }
  else if vaRgn r.line = 6 then
    s.sendHost { r with leaf := some t } (key r.line)
  else s.perform { r with leaf := some t } key

/-- A home takes a request (R101, R110, R111), unless the stop of a watchpoint's hit holds it back (R307). -/
def State.reach (s : State) (r : Req) : State :=
  if s.heldByStop r then s
  else if r.scr then s.perform r fun va => spaceKey (scratchSpace r.core) va.toNat
  else
    let home := homeOf r.line
    match s.entryFail home r with
    | some (stat, cause) => s.failAt r stat cause
    | none =>
      match s.check home r.kind r.line with
      | .absent cause => s.meetAbsent home r cause
      | .fail stat cause => s.failAt r stat cause
      | .ok _ e size die addr => s.reachLeaf home r (s.entryFor home r.line e size die addr)

/-- HOME_ACCESS: request `id` reaches its home when the rules of ordering let it; a scratch load that meets an uncorrectable error
there fails (R190). -/
def State.homeTake (s : State) (id : Nat) : State :=
  match s.req? id with
  | none => s
  | some r =>
    if s.mayReach r then s.reach r
    else if s.mayCome r then s.failAll r statUncorr 255
    else s

/-! ### Answers -/

/-- The precision class of an error (R185): 1 seam-precise, 2 imprecise. -/
def errPrec (o : LongOp) : Nat :=
  match o.kind, o.dest with
  | .load, _ | .fetch, _ => 1
  | .atom, .none => 2
  | .atom, _ => 1
  | _, _ => 2

/-- The fault code of a status; a reserved one is treated as UNCORR (R33, R185). -/
def codeOfStat (stat : Nat) : Nat := 0x20 + (if stat = 0 ∨ 7 ≤ stat then statUncorr else stat)

/-- A replay's error that is its entry's discarding (R118): its time has run out (status 7 with cause 255), or this package's own
home refuses it. -/
def State.isDiscard (s : State) (r : Req) (stat cause : Nat) : Bool :=
  r.slot.isSome && ((stat == 7 && cause == 255) || (stat == statXlt && s.isOwn r.line))

/-- STAT of a failed request, 0 for an error raised at the requester (R188): a cause of 255 says so, and NOROUTE, LINKDOWN and
TIMEOUT of a request to another package came in no ERR unless its cause is 254. -/
def State.statOf (s : State) (r : Req) (stat cause : Nat) : Nat :=
  if cause = 255 ∨ (cause = 0 ∧ s.isAway r ∧ (stat = statNoroute ∨ stat = statLinkdown ∨ stat = statTimeout)) then 0 else stat

/-- The lanes a failed request names: a scratch load's are those whose bytes hold the error (R186). -/
def State.badLanes (s : State) (r : Req) : Word :=
  let ps := if r.scr then r.parts.filter fun p => s.uncorrIn (spaceKey (scratchSpace r.core) p.va.toNat) p.size else r.parts
  maskOf (ps.map fun p => p.lane % 32)

/-- The address an error of a request names: of scratch, the offset in its block (R185). -/
def State.errAddr (s : State) (r : Req) : DWord :=
  let bad := if r.scr then r.parts.filter fun p => s.uncorrIn (spaceKey (scratchSpace r.core) p.va.toNat) p.size else r.parts
  let va := match bad with | p :: _ => p.va | [] => r.line
  if r.scr then
    match r.who with
    | .group u _ _ => match s.block? u with | some b => va - BitVec.ofNat 64 b.ext | none => va
    | _ => va
  else s.resolve va

/-- The error of a request as its group meets it (R185, R188). A load of scratch fails precisely (R190). A replay that fails its own home's checks is a discarded entry (R118); any other error of a replay names the entry in
AUX (R191). -/
def errCand (s : State) (o : LongOp) (r : Req) (stat cause : Nat) : Cand :=
  let discard := s.isDiscard r stat cause
  let aux : Nat := match r.slot with
    | some k => k + 2 ^ 31
    | none => if stat = statXlt then cause else 0
  { site := o.site, code := if discard then codeSldiscard else codeOfStat stat
    prec := if r.slot.isSome then 2 else if r.scr then 0 else errPrec o
    stat := if discard then 0 else s.statOf r stat cause, lanes := s.badLanes r
    aux := BitVec.ofNat 32 aux, addr := s.errAddr r, eng := 0 }

/-- One request of a group's operation has been answered. Values are kept by the piece's lane. -/
def opAnswer (o : LongOp) (r : Req) (errs : List Cand) : LongOp :=
  { o with
    left := o.left - 1
    vals := (List.zip r.parts r.vals).foldl (fun m x => FMap.put m x.1.lane x.2) o.vals
    errs := o.errs ++ errs }

/-- Changes a group, of a resident or of a saved block. -/
def State.modAnyGroup (s : State) (uid gid : Nat) (f : Group → Group) : State :=
  let s := s.modGroup uid gid f
  { s with cores := { s.cores with saved := s.cores.saved.map fun v =>
      if v.block.uid == uid then { v with block := blockModGroup v.block gid f } else v } }

/-- The answer of a group's request reaches it: values are kept until the result returns; an operation that holds no
register ends with its last answer, and its error is delivered at once (R183). -/
def State.groupAnswer (s : State) (uid gid op : Nat) (r : Req) (fail : Option (Nat × Nat)) : State :=
  let s' := s.modAnyGroup uid gid fun g =>
    match g.ops.find? fun o => o.id == op with
    | none => g
    | some o =>
      let errs := match fail with | some (st, ca) => [errCand s o r st ca] | none => []
      let now := errs.filter fun k => k.prec == 2
      let o' := opAnswer o r (errs.filter fun k => k.prec != 2)
      let ops := if o'.left = 0 ∧ o.dest = .none then g.ops.filter fun p => p.id != op
        else g.ops.map fun p => if p.id == op then o' else p
      { g with ops := ops, cands := g.cands ++ now }
  s'.settle uid gid

/-- An answer reaches its initiator: a group's operation, or the list from which units, channels, fetches and watching
groups take theirs. -/
def State.answerTo (s : State) (r : Req) (fail : Option (Nat × Nat)) : State :=
  let s := s.dropReq r.id
  match r.who with
  | .group b g op => s.groupAnswer b g op r fail
  | _ => { s with fab := { s.fab with got := s.fab.got ++ [r] } }

/-! ### Side log (R113 to R118) -/

/-- The entries in use of a core's side log. -/
def State.sideOf (s : State) (core : Nat) : List SideEntry := s.fab.side.filter fun e => e.core == core && !e.handed

/-- The lowest free slot of a core's side log. -/
def State.freeSlot (s : State) (core : Nat) : Option Nat :=
  (List.range 256).find? fun k => (s.sideOf core).all fun e => e.slot != k

/-- A DEFER places its access in the side log (R113); XLT_SLSTAT counts a log that becomes full (R118). -/
def State.deferTake (s : State) (r : Req) : State :=
  match s.freeSlot r.core with
  | none => s
  | some k =>
    let s := s.dropReq r.id
    let e : SideEntry := {
      slot := k, core := r.core, req := { r with phase := .flying, slot := some k }
      home := homeOf r.line, page := pageOf (s.resolve r.line), since := s.clk.ref }
    let s : State := { s with fab := { s.fab with side := s.fab.side ++ [e] } }
    let s := s.countCore 0x0008 r.core
    if (s.sideOf r.core).length = 256 then
      let n := s.field .xltSlstat r.core 24 8
      s.setField .xltSlstat r.core 24 8 (if n = 255 then 255 else n + 1)
    else s

/-- Takes the entries of a test out of the side log and sends them again in age order, each in its own place in the order
of sending (R117). -/
def State.replaySide (s : State) (p : SideEntry → Bool) : State × List Nat :=
  let es := s.fab.side.filter p
  let s := { s with fab := { s.fab with side := s.fab.side.filter fun e => !p e } }
  (es.foldl (fun (s : State) e =>
    { s with fab := { s.fab with reqs := s.fab.reqs ++ [{ e.req with phase := .flying, sent := s.clk.ref }] } }) s,
    es.map fun e => e.req.id)

/-- A home takes a request that it has held back; one that was parked is performed whole. -/
def State.takeHeld (s : State) (id : Nat) : State :=
  match s.req? id with
  | some r =>
    let q := { r with phase := .flying, came := none }
    let parked := match r.phase with | .parked _ => true | _ => false
    (s.modReq id fun _ => q).reach (if parked then { q with done := r.parts.length } else q)
  | none => s

/-- An address lies in a page of some size. -/
def inPage (page : DWord) (size : Nat) (a : DWord) : Bool := page.toNat ≤ a.toNat && a.toNat < page.toNat + size

/-- A home performs the side-log entries handed to its park table for a page, in age order (R115). -/
def State.releaseHanded (s : State) (home : Nat) (page : DWord) (size : Nat) : State :=
  let (s, handed) := s.replaySide fun e => e.handed && e.home == home && inPage page size e.page
  handed.foldl (fun (s : State) id => s.takeHeld id) s

/-- A home performs what it has held for a page: entries handed to it, then its parked requests in their order of arrival
(R115, R117). -/
def State.releaseParked (s : State) (home : Nat) (page : DWord) (size : Nat) : State :=
  let s := s.releaseHanded home page size
  let parked := sortOn (fun (r : Req) => (r.came.getD (0, 0)).2) ((s.parkedReqs home).filter fun r => inPage page size (s.resolve r.line))
  (parked.map fun r => r.id).foldl (fun (s : State) id => s.takeHeld id) s

/-- Another package's access is deferred there: its DEFER goes out with the management messages (log entry 18). -/
def State.deferPeer (s : State) (r : Req) (pkg tag : Nat) : State :=
  let s := (s.dropReq r.id).mgmtTo pkg (.defer tag)
  { s with fab := { s.fab with peerDef := s.fab.peerDef ++ [(pkg, homeOf r.line, pageOf (s.resolve r.line))] } }

/-- DEFERs under way for a page are taken before the signal that it is back, which stands behind them (R117). -/
def State.settleDefers (s : State) (home : Nat) (page : DWord) (size : Nat) : State :=
  (s.fab.reqs.filter fun r => r.phase == .deferred && homeOf r.line == home && inPage page size (s.resolve r.line)).foldl
    (fun (s : State) r => match r.who with | .peer pkg tag => s.deferPeer r pkg tag | _ => s.deferTake r) s

/-- A page stops being absent (R117): entries handed to the home, older than any other of their groups, are performed (R115);
then cores, of this package and of others, with deferred entries replay; without any the parked requests go on. A package stands in `marks` as 256 × (package + 1). -/
def State.pagePresent (s : State) (home : Nat) (page : DWord) (size : Nat) : State :=
  let s := (s.settleDefers home page size).releaseHanded home page size
  let here := inPage page size
  let s : State := { s with fab := { s.fab with posted := s.fab.posted.filter fun x => !(x.1 == home && here x.2) } }
  let cores := ((s.fab.side.filter fun e => e.home == home && here e.page).map fun e => e.core).eraseDups
  let peers := ((s.fab.peerDef.filter fun x => x.2.1 == home && here x.2.2).map fun x => x.1).eraseDups
  let s : State := { s with fab := { s.fab with peerDef := s.fab.peerDef.filter fun x => !(x.2.1 == home && here x.2.2) } }
  let s := peers.foldl (fun (s : State) p => s.mgmtTo p (.present home page size)) s
  if cores.isEmpty && peers.isEmpty then s.releaseParked home page size
  else
    let w : Wake := { home := home, page := page, size := size, cores := cores, marks := peers.map fun p => (256 * (p + 1), []) }
    { s with fab := { s.fab with wakes := s.fab.wakes ++ [w] } }

/-- A discarded side-log entry (R118): SLDISCARD for a group, a failed answer for any other initiator. -/
def State.discardSide (s : State) (e : SideEntry) : State :=
  let s := { s with fab := { s.fab with side := s.fab.side.filter fun x => !(x.core == e.core && x.req.id == e.req.id) } }
  s.answerTo { e.req with phase := .failed 7 255 } (some (7, 255))

/-! ### Reads served on the core -/

/-- The pieces of the group's deferred stores that cover a byte, youngest last. -/
def State.sideByte (s : State) (uid gid : Nat) (a : Nat) : Option Byte :=
  (s.fab.side.filter fun e => ofGroup uid gid e.req && e.req.kind == .store && !e.req.scr).foldl (fun acc e =>
    e.req.parts.foldl (fun acc p =>
      if p.va.toNat ≤ a && a < p.va.toNat + p.size then
        some (BitVec.ofNat 8 (p.data.toNat / 2 ^ (8 * (a - p.va.toNat)))) else acc) acc) none

/-- A piece served whole from the group's side log (R114): every byte covered by plain stores, and by nothing else; not past a
younger store of the group that is on its way or in the depot (R426). -/
def State.sideServe (s : State) (uid gid : Nat) (p : Part) : Option Nat :=
  let mine (r : Req) : Bool := ofGroup uid gid r && !r.scr && r.parts.any fun q => partsMeet p q
  let other := s.fab.side.any fun e => e.req.kind != .store && mine e.req
  let younger := s.fab.reqs.any fun r => r.kind.writes && (inFlight r || r.phase == .depot) && mine r
    && s.fab.side.any fun e => mine e.req && decide (e.req.seq < r.seq)
  if other || younger then none
  else
    let bs := (List.range p.size).map fun i => s.sideByte uid gid (p.va.toNat + i)
    if bs.all Option.isSome then some (natOfBytes (bs.map fun b => b.getD 0)) else none

/-- A piece served by an L1 line (R208): the line is present and no request of the core to it is under way. -/
def State.l1Serve (s : State) (core : Nat) (p : Part) : Option Nat :=
  let line := lineOf p.va
  if s.fab.reqs.any fun q => q.core == core && q.line == line && !q.scr && (inFlight q || q.phase == .depot) then none
  else if s.fab.side.any fun e => e.core == core && e.req.line == line && e.req.parts.any fun q => partsMeet p q then none
  else
    match s.l1? core line with
    | some l => some (natOfBytes ((l.data.drop (p.va.toNat - line.toNat)).take p.size))
    | none => none

/-! ### Instruction fetch (R341) -/

/-- What a read of one instruction word answers. -/
inductive FetchWord where
  | word (w : DWord)
  /-- the fetch fails: a code, STAT and AUX -/
  | fail (code stat aux : Nat)
  /-- the read must wait at its home: the line to request -/
  | wait (line : DWord)
  deriving DecidableEq, Repr

/-- An answered fetch of a path slot for a line. -/
def State.gotFetch (s : State) (uid gid : Nat) (slotB : Bool) (line : DWord) : Option Req :=
  s.fab.got.find? fun r => r.who == .fetch uid gid slotB && r.line == line

/-- A word as a group fetches it: bytes that its own stores have changed since its last acquire of clu or wider as they were
before (R341). -/
def State.ownCode (s : State) (uid gid : Nat) (va w : DWord) : DWord :=
  match s.group? uid gid with
  | none => w
  | some g =>
    if g.codeOld.isEmpty then w
    else BitVec.ofNat 64 (natOfBytes ((List.range 8).map fun i =>
      (FMap.get none g.codeOld (va.toNat + i)).getD (BitVec.ofNat 8 (w.toNat / 2 ^ (8 * i)))))

/-- Reads one word at a PC: from an answer that has arrived, from the L1, or at its home when nothing delays it (R110,
R185, R341). -/
def State.fetchWord (s : State) (uid gid core : Nat) (slotB : Bool) (pc : DWord) : FetchWord :=
  if !vaLegal pc then .fail codeAddress 0 0
  else
    let va := s.resolve pc
    let line := lineOf va
    let off := (va.toNat - line.toNat) / 8
    match s.gotFetch uid gid slotB line with
    | some r =>
      match r.phase with
      | .failed stat cause => .fail (codeOfStat stat) (s.statOf r stat cause) (if stat = statXlt then cause else 0)
      | _ => .word (s.ownCode uid gid va (r.vals.getD off 0))
    | none =>
      if s.acqDeps uid gid ≠ [] ∨ !s.isOwn va then .wait line
      else
        match s.l1Serve core { lane := 0, va := va, size := 8 } with
        | some w => .word (s.ownCode uid gid va (BitVec.ofNat 64 w))
        | none =>
          match s.check (homeOf va) .fetch va with
          | .ok key _ _ _ _ =>
            if 5 ≤ vaRgn va || (s.fab.reqs.any fun q => q.core == core && q.line == line && inFlight q && !q.scr)
                || (s.fab.bad ++ s.fab.cbad).any fun k => key / 64 == k / 64 then .wait line
            else .word (s.ownCode uid gid va (BitVec.ofNat 64 (s.fab.mem.num key 8)))
          | .fail stat cause => .fail (codeOfStat stat) stat (if stat = statXlt then cause else 0)
          | .absent _ => .wait line

/-- Fills the line of a fetched word into the L1 and gathers the page's bits (R102, R208). -/
def State.fetchFill (s : State) (uid gid core : Nat) (slotB : Bool) (pc : DWord) : State :=
  let va := s.resolve pc
  let line := lineOf va
  if (s.gotFetch uid gid slotB line).isSome ∨ (s.l1? core line).isSome then s
  else
    match s.check (homeOf va) .fetch va with
    | .ok _ e size die addr =>
      let t := s.entryFor (homeOf va) va e size die addr
      let s := (s.cacheLeaf t).gather t (gathered .fetch (some (core / 64)) false)
      s.l1Fill { id := 0, kind := .fetch, core := core, who := .fetch uid gid slotB, line := line, parts := [], seq := s.fab.nextId }
        (s.fab.mem.bytes (targetKey (homeOf va) e size line) 64)
    | _ => s

/-- Requests a line of instructions for a path slot, unless it is on its way; answers the request's number (R110). -/
def State.fetchReq (s : State) (c : Cur) (line : DWord) : State × Nat :=
  match s.fab.reqs.find? fun r => r.who == .fetch c.run.blk c.run.gid c.run.slotB && r.line == line with
  | some r => (s, r.id)
  | none => s.send {
    id := 0, kind := .fetch, core := c.blk.core, who := .fetch c.run.blk c.run.gid c.run.slotB, line := line
    parts := (List.range 8).map fun i => { lane := i, va := line + BitVec.ofNat 64 (8 * i), size := 8 }
    deps := s.acqDeps c.run.blk c.run.gid, fill := vaRgn line != 6, srcid := groupSrc c.blk c.grp, pc := c.path.pc }

/-- The instruction to issue waits for a line of its words (R110). -/
def State.fetchSend (s : State) (c : Cur) (line : DWord) : State :=
  let (s, id) := s.fetchReq c line
  holdAt c (.fetch id) s

/-- A PAD check waits for its word: the path's turn ends (R375). -/
def State.padSend (s : State) (c : Cur) (line : DWord) : State :=
  let (s, id) := s.fetchReq c line
  leaveAt c (.fetch id) s

/-- A precise fault of a fetch or of a decoding, at the PC fetched (R185, R467); an error of the fetch names it in ADDR. -/
def fetchFaultFor (c : Cur) (lanes : Word) (pc : DWord) (code stat aux : Nat) (s : State) : State :=
  let k := { candOf s c {
      code := code, lanes := lanes, aux := BitVec.ofNat 32 aux, addr := if code = codeIllegal then 0 else pc } 0 with
    stat := stat }
  let k := { k with site := { k.site with pc := pc } }
  (((s.modCur c fun g => { g with dead := true, cands := g.cands ++ [k], park := none }).endTurn c.run.core
    c.run.part).sendDepotOf c.run.blk c.run.gid).makeRecord c.run.blk c.run.gid

/-- A failing fetch of the path's next instruction, or of a loop body's: it stops every lane of the path (R186). -/
def fetchFault (c : Cur) (pc : DWord) (code stat aux : Nat) (s : State) : State :=
  fetchFaultFor c c.path.mask pc code stat aux s

end Sys2Proof.Machine
end

