-- ==== Sys2Proof/Machine/Fetch.lean ====
section
/-! DEFINITION. What a partition's turn executes: the instruction at the path's PC (R341, R363), or the next body
instruction of its loop buffer, renamed (R466, R467). -/

namespace Sys2Proof.Machine
open Sys2Proof

/-! ### Renaming (R465 to R467) -/

/-- What a selector adds to a register number per trip. -/
def selInc (lb : LoopBuf) (sel : Nat) : Nat :=
  match sel with
  | 0 => 0
  | 1 => 1
  | 2 => 2
  | _ => lb.stride.toNat

/-- The selector of field f (0 D, 1 A, 2 B, 3 C) of the body instruction to execute. -/
def selOf (lb : LoopBuf) (f : Nat) : Nat := (lb.sel.extractLsb' (8 * lb.place + 2 * f) 2).toNat

/-- The rows of the table of R351. -/
def regRow (n : Nat) : Nat :=
  if n < 0x80 then 0 else if n < 0xA0 then 1 else if n < 0xE0 then 2 else if n < 0xE8 then 3 else if n < 0xF0 then 4
  else if n < 0xF8 then 5 else if n < 0xFD then 6 else 7

/-- A field's register number on this trip; nothing when it leaves its class or reaches 0xFD (R467). -/
def renamedNum (lb : LoopBuf) (f : Nat) (r : BitVec 8) : Option (BitVec 8) :=
  let n := r.toNat + lb.trip * selInc lb (selOf lb f)
  if n < 0xFD ∧ regRow n = regRow r.toNat then some (BitVec.ofNat 8 n) else none

/-- A class names a register, so that its field is renamed. -/
def Cls.isReg : Cls → Bool
  | .z | .im => false
  | _ => true

/-- The fields that body instructions use as registers, D, A, B, C (R350). -/
def regFields (sh : Shape) : List Bool := [Cls.isReg sh.d, Cls.isReg sh.a, Cls.isReg sh.b, Cls.isReg sh.c]

/-- Renames one field when its class is a register's. -/
def renamedField (lb : LoopBuf) (cls : Cls) (f : Nat) (r : BitVec 8) : Option (BitVec 8) :=
  if Cls.isReg cls then renamedNum lb f r else some r

/-- A face word's field, renamed; one whose renaming fails takes the number 0xFF, which no class admits, so that the
instruction is ILLEGAL in that word (R351, R363, R467). -/
def renamedFace (lb : LoopBuf) (cls : Cls) (f : Nat) (r : BitVec 8) : BitVec 8 := (renamedField lb cls f r).getD 0xFF

/-- The fields of face X, renamed. -/
def renamedSet (lb : LoopBuf) (sh : Shape) (d a b c : BitVec 8) : Option (BitVec 8 × BitVec 8 × BitVec 8 × BitVec 8) :=
  match renamedField lb sh.d 0 d, renamedField lb sh.a 1 a, renamedField lb sh.b 2 b, renamedField lb sh.c 3 c with
  | some d, some a, some b, some c => some (d, a, b, c)
  | _, _, _, _ => none

/-- The face word's fields, renamed; a face that is written `-` has none, and face Y's count is no register. -/
def renamedExt (lb : LoopBuf) (sh : Shape) : Ext → Ext
  | .face xen yen d a b c imm =>
    if yen then
      .face xen yen (renamedFace lb sh.d 0 d) (renamedFace lb sh.a 1 a) (renamedFace lb sh.b 2 b)
        (if sh.cntY then c else renamedFace lb sh.c 3 c) imm
    else .face xen yen d a b c imm
  | e => e

/-- The body instruction of this place and trip, renamed (R466). -/
def renamedOp (lb : LoopBuf) (opc : BitVec 10) (o : Op) : Option Op :=
  match shapeOf opc o with
  | none => none
  | some sh =>
    let x := if o.xen then renamedSet lb sh o.d o.a o.b o.c else some (o.d, o.a, o.b, o.c)
    x.map fun (d, a, b, c) => { o with d := d, a := a, b := b, c := c, ext := renamedExt lb sh o.ext }

/-- The instruction a loop buffer gives; nothing where R467 makes its base word ILLEGAL. -/
def loopInstr (lb : LoopBuf) : Option Instr :=
  match lb.body[lb.place]? with
  | none => none
  | some (opc, o) =>
    match renamedOp lb opc o with
    | some o' => Instr.ofOp opc o'
    | none => none

/-! ### Reading an instruction (R341) -/

/-- What a read of whole words answers. -/
inductive FetchWords where
  | words (ws : List DWord)
  | fail (code stat aux : Nat)
  | wait (line : DWord)
  deriving DecidableEq, Repr

/-- Reads n words from a PC for a path slot. -/
def State.fetchWords (s : State) (c : Cur) : Nat → DWord → FetchWords
  | 0, _ => .words []
  | n + 1, pc =>
    match s.fetchWord c.run.blk c.run.gid c.blk.core c.run.slotB pc with
    | .wait line => .wait line
    | .fail code stat aux => .fail code stat aux
    | .word w =>
      match s.fetchWords c n (pc + 8) with
      | .words ws => .words (w :: ws)
      | e => e

/-- Reads the words at a PC: a base word, and as many words as its LEN announces. -/
def State.instrWords (s : State) (c : Cur) (pc : DWord) : FetchWords :=
  match s.fetchWords c 1 pc with
  | .words (w :: _) =>
    match lenWords w with
    | some (n + 2) =>
      match s.fetchWords c (n + 1) (pc + 8) with
      | .words ws => .words (w :: ws)
      | e => e
    | _ => .words [w]
  | e => e

/-! ### Reading a loop buffer's body (R350, R467) -/

/-- The selectors, the trip count and the body length of an LBUF (R350). -/
def lbufSel (o : Op) : BitVec 128 := o.payload.extractLsb' 0 128
def lbufTrips (o : Op) : Nat := (o.payload.extractLsb' 132 32).toNat
def lbufLen (o : Op) : Nat := (o.payload.extractLsb' 128 4).toNat + 1

/-- What reading a loop buffer's body comes to. -/
inductive BodyRead where
  /-- the decoded body and the words it takes -/
  | ok (body : List (BitVec 10 × Op)) (words : Nat)
  /-- a line must be fetched first -/
  | wait (line : DWord)
  /-- a body instruction at this PC fails (R467) -/
  | bad (pc : DWord) (code stat aux : Nat)
  /-- a selector names a field that is no register (R350), in this word of the LBUF -/
  | selector (word : Nat)
  deriving DecidableEq, Repr

/-- The first field of body instruction j that has a selector and is no register (R350). -/
def badSelector (sel : BitVec 128) (j : Nat) (opc : BitVec 10) (o : Op) : Option Nat :=
  match shapeOf opc o with
  | none => none
  | some sh =>
    (List.range 4).find? fun f => (sel.extractLsb' (8 * j + 2 * f) 2) != 0 && !((regFields sh).getD f false)

/-- Reads and decodes n body instructions from number j at a PC on (R467). -/
def State.readBody (s : State) (c : Cur) (sel : BitVec 128) : Nat → Nat → DWord → BodyRead
  | 0, _, _ => .ok [] 0
  | n + 1, j, pc =>
    match s.instrWords c pc with
    | .wait line => .wait line
    | .fail code stat aux => .bad pc code stat aux
    | .words ws =>
      match decodeWords ws with
      | .error e => .bad pc codeIllegal 0 e.word.toNat
      | .ok (i, _) =>
        match i.parts with
        | none => .bad pc codeIllegal 0 0
        | some (opc, o) =>
          if o.words = 4 ∨ familyOf opc = .control ∨ familyOf opc = .system then .bad pc codeIllegal 0 0
          else
            match badSelector sel j opc o with
            | some f => .selector (1 + (8 * j + 2 * f) / 60)
            | none =>
              match s.readBody c sel n (j + 1) (pc + BitVec.ofNat 64 (8 * ws.length)) with
              | .ok body w => .ok ((opc, o) :: body) (w + ws.length)
              | e => e

/-- The words of an LBUF that fails decoding, its error in a later word of its payload: a selector that names no register
fails in an earlier word, so that the body is read first (R350, R363). -/
def lateLbuf (ws : List DWord) : Option (Op × Nat) :=
  match ws, decodeWords ws with
  | w :: rest, .error e =>
    if opcodeOf w = 0x221 ∧ 2 ≤ e.word.toNat then (readOp w (readExt w rest)).map fun o => (o, e.word.toNat) else none
  | _, _ => none

/-- Reads the instruction at a PC. -/
def State.fetchInstr (s : State) (c : Cur) (pc : DWord) : FetchWords :=
  match s.instrWords c pc with
  | .words ws =>
    match lateLbuf ws with
    | none => .words ws
    | some (o, late) =>
      match s.readBody c (lbufSel o) (lbufLen o) 0 (pc + 32) with
      | .wait line => .wait line
      | .selector w => if w < late then .fail codeIllegal 0 w else .words ws
      | _ => .words ws
  | e => e

/-- What fetching n words leaves in the L1 and in the gathered bits. -/
def State.fetchFills (s : State) (c : Cur) (n : Nat) (pc : DWord) : State :=
  (List.range n).foldl (fun (s : State) k =>
    s.fetchFill c.run.blk c.run.gid c.blk.core c.run.slotB (pc + BitVec.ofNat 64 (8 * k))) s

/-! ### Resuming in a loop (R468) -/

/-- A resumed path decodes the body of its loop again, from the saved PC, before it goes on; words that are no LBUF any more are
ILLEGAL there (log entry 43). -/
def State.reload (s : State) (uid gid : Nat) (slotB : Bool) : State :=
  match s.curOf uid gid slotB with
  | none => s
  | some c =>
    match staleLoop c.grp slotB with
    | none => s
    | some lb =>
      let fail (pc : DWord) (code stat aux : Nat) : State :=
        let t := fetchFault c pc code stat aux s
        { t with cores := { t.cores with runs := t.cores.runs.filter fun r => !(r.blk == uid && r.gid == gid) } }
      match s.fetchInstr c lb.pc with
      | .wait line => (s.fetchReq c line).1
      | .fail code stat aux => fail lb.pc code stat aux
      | .words ws =>
        match decodeWords ws with
        | .error e => fail lb.pc codeIllegal 0 e.word.toNat
        | .ok (.lbuf o, _) =>
          match s.readBody c (lbufSel o) (lbufLen o) 0 (lb.pc + 32) with
          | .wait line => (s.fetchReq c line).1
          | .bad pc code stat aux => fail pc code stat aux
          | .selector w => fail lb.pc codeIllegal 0 w
          | .ok body words =>
            let s := (s.fetchFills c 4 lb.pc).fetchFills c words (lb.pc + 32)
            (s.modPath c fun p => { p with
              loop := some { lb with trips := lbufTrips o, body := body, sel := lbufSel o, stale := false } }).fetchForget uid gid slotB
        | .ok _ => fail lb.pc codeIllegal 0 0

/-! ### A turn -/

/-- What a partition's turn comes to: an instruction to execute, or a state in which nothing is executed. -/
inductive Ready where
  | run (i : Instr) (s : State)
  | done (s : State)
  deriving DecidableEq, Repr

/-- A turn of the path slot that issues. -/
def State.readyCur (s : State) (c : Cur) : Ready :=
  let illegal (aux : Word) : FaultInfo := { code := codeIllegal, lanes := c.path.mask, aux := aux }
  match c.path.loop with
  | some lb =>
    match loopInstr lb with
    | some i => .run i s
    | none => .done (raise c (illegal 0) s)
  | none =>
    match s.fetchInstr c c.path.pc with
    | .wait line => .done (s.fetchSend c line)
    | .fail code stat aux => .done (fetchFault c c.path.pc code stat aux s)
    | .words ws =>
      match decodeWords ws with
      | .ok (i, _) =>
        .run i (s.fetchFills c ws.length c.path.pc)
      | .error e => .done (raise c (illegal (e.word.setWidth 32)) s)

/-- A partition's turn: its run's next instruction; nothing where it has no run. -/
def State.ready (s : State) (core part : Nat) : Ready :=
  let s' : State := { s with cores := { s.cores with cur := some (core, part) } }
  match s'.current with
  | some c => s'.readyCur c
  | none => .done s

end Sys2Proof.Machine
end

