-- ==== Sys2Proof/Machine/Crypto.lean ====
section
/-! DEFINITION. SHA-512, Ed25519 verification and CRC-32C, which the spec names by their standards (R25, R61 to R64; log
entry 31). -/

namespace Sys2Proof.Machine
open Sys2Proof

/-! ### SHA-512 (FIPS 180-4) -/

/-- The first 80 primes. -/
def primes80 : List Nat :=
  [2, 3, 5, 7, 11, 13, 17, 19, 23, 29, 31, 37, 41, 43, 47, 53, 59, 61, 67, 71, 73, 79, 83, 89, 97, 101, 103, 107, 109, 113]
    ++ [127, 131, 137, 139, 149, 151, 157, 163, 167, 173, 179, 181, 191, 193, 197, 199, 211, 223, 227, 229, 233, 239, 241]
    ++ [251, 257, 263, 269, 271, 277, 281, 283, 293, 307, 311, 313, 317, 331, 337, 347, 349, 353, 359, 367, 373, 379, 383]
    ++ [389, 397, 401, 409]

/-- The integer k-th root of n, of at most 72 bits. -/
def iroot (k n : Nat) : Nat := (List.range 72).reverse.foldl (fun r b => if (r + 2 ^ b) ^ k ≤ n then r + 2 ^ b else r) 0

/-- Round constant: the first 64 bits of the fraction of the cube root of a prime. -/
def shaK (p : Nat) : DWord := BitVec.ofNat 64 (iroot 3 (p * 2 ^ 192))

/-- The initial hash: the same of the square roots of the first eight. -/
def shaInit : List DWord := (primes80.take 8).map fun p => BitVec.ofNat 64 (iroot 2 (p * 2 ^ 128))

def shaBig0 (x : DWord) : DWord := x.rotateRight 28 ^^^ x.rotateRight 34 ^^^ x.rotateRight 39
def shaBig1 (x : DWord) : DWord := x.rotateRight 14 ^^^ x.rotateRight 18 ^^^ x.rotateRight 41
def shaSmall0 (x : DWord) : DWord := x.rotateRight 1 ^^^ x.rotateRight 8 ^^^ (x >>> 7)
def shaSmall1 (x : DWord) : DWord := x.rotateRight 19 ^^^ x.rotateRight 61 ^^^ (x >>> 6)

/-- The big-endian number of some bytes. -/
def natBE (bs : List Byte) : Nat := natOfBytes bs.reverse

/-- The n big-endian bytes of a number. -/
def bytesBE (n x : Nat) : List Byte := (bytesLE n x).reverse

/-- The 16 words of a block, and 64 more; newest first. -/
def shaSchedule (block : List Byte) : List DWord :=
  let first := (List.range 16).foldl (fun (acc : List DWord) i => BitVec.ofNat 64 (natBE ((block.drop (8 * i)).take 8)) :: acc) []
  ((List.range 64).foldl (fun (acc : List DWord) _ =>
    (shaSmall1 (acc.getD 1 0) + acc.getD 6 0 + shaSmall0 (acc.getD 14 0) + acc.getD 15 0) :: acc) first).reverse

/-- One round on the eight working variables. -/
def shaRound (v : List DWord) (kw : DWord) : List DWord :=
  match v with
  | [a, b, c, d, e, f, g, h] =>
    let t1 := h + shaBig1 e + ((e &&& f) ^^^ (~~~e &&& g)) + kw
    let t2 := shaBig0 a + ((a &&& b) ^^^ (a &&& c) ^^^ (b &&& c))
    [t1 + t2, a, b, c, d + t1, e, f, g]
  | _ => v

/-- The hash after one block of 128 bytes. -/
def shaBlock (h : List DWord) (block : List Byte) : List DWord :=
  let kw := (List.zip (primes80.map shaK) (shaSchedule block)).map fun x => x.1 + x.2
  (List.zip h (kw.foldl shaRound h)).map fun x => x.1 + x.2

/-- The message with its padding: 1, zeros, and its length in bits. -/
def shaPad (m : List Byte) : List Byte :=
  m ++ 0x80 :: List.replicate ((239 - m.length % 128) % 128) 0 ++ bytesBE 16 (8 * m.length)

/-- SHA-512 of a message: 64 bytes. -/
def sha512 (m : List Byte) : List Byte :=
  let p := shaPad m
  ((List.range (p.length / 128)).foldl (fun h i => shaBlock h ((p.drop (128 * i)).take 128)) shaInit).flatMap fun w =>
    bytesBE 8 w.toNat

/-! ### Ed25519 (RFC 8032) -/

/-- The field's prime and the order of the base point. -/
def edP : Nat := 2 ^ 255 - 19
def edL : Nat := 2 ^ 252 + 27742317777372353535851937790883648493

/-- b to the power e modulo p, bit by bit of e. -/
def powMod (p b e : Nat) : Nat :=
  (List.range 256).reverse.foldl (fun r i => if e.testBit i then r * r % p * b % p else r * r % p) 1

def edInv (x : Nat) : Nat := powMod edP x (edP - 2)
def edSub (a b : Nat) : Nat := (a + edP - b % edP) % edP
def edD : Nat := edSub 0 (121665 * edInv 121666 % edP)

/-- A point in extended coordinates. -/
structure EdPoint where
  x : Nat
  y : Nat
  z : Nat
  t : Nat
  deriving DecidableEq, Repr

def edZero : EdPoint := ⟨0, 1, 1, 0⟩

def edAdd (p q : EdPoint) : EdPoint :=
  let a := edSub p.y p.x * edSub q.y q.x % edP
  let b := (p.y + p.x) * (q.y + q.x) % edP
  let c := 2 * p.t * q.t % edP * edD % edP
  let d := 2 * p.z * q.z % edP
  let e := edSub b a
  let f := edSub d c
  let g := (d + c) % edP
  let h := (b + a) % edP
  ⟨e * f % edP, g * h % edP, f * g % edP, e * h % edP⟩

/-- n times a point. -/
def edMul (n : Nat) (p : EdPoint) : EdPoint :=
  (List.range 256).reverse.foldl (fun r i =>
    let r := edAdd r r
    if n.testBit i then edAdd r p else r) edZero

/-- The x coordinate of a y with a sign bit. -/
def edX (y sign : Nat) : Option Nat :=
  if edP ≤ y then none
  else
    let x2 := edSub (y * y) 1 * edInv (edD * (y * y % edP) % edP + 1) % edP
    let x := powMod edP x2 ((edP + 3) / 8)
    let x := if x * x % edP = x2 then x else x * powMod edP 2 ((edP - 1) / 4) % edP
    if x * x % edP ≠ x2 then none
    else if x = 0 ∧ sign = 1 then none
    else some (if x % 2 = sign then x else edP - x)

/-- The point that 32 bytes encode. -/
def edDecode (bs : List Byte) : Option EdPoint :=
  let n := natOfBytes bs
  let y := n % 2 ^ 255
  match edX y (n / 2 ^ 255) with
  | some x => some ⟨x, y, 1, x * y % edP⟩
  | none => none

def edBase : EdPoint :=
  let y := 4 * edInv 5 % edP
  match edX y 0 with
  | some x => ⟨x, y, 1, x * y % edP⟩
  | none => edZero

def edSame (p q : EdPoint) : Bool := edSub (p.x * q.z) (q.x * p.z) == 0 && edSub (p.y * q.z) (q.y * p.z) == 0

/-- The signature (R, S) of a message verifies with a public key. -/
def edVerify (key sig msg : List Byte) : Bool :=
  match edDecode key, edDecode (sig.take 32) with
  | some a, some r =>
    let sn := natOfBytes ((sig.drop 32).take 32)
    let k := natOfBytes (sha512 (sig.take 32 ++ key ++ msg)) % edL
    sn < edL && edSame (edMul 8 (edMul sn edBase)) (edMul 8 (edAdd r (edMul k a)))
  | _, _ => false

/-- The 32 bytes of a point. -/
def edEncode (p : EdPoint) : List Byte :=
  let zi := edInv p.z
  bytesLE 32 (p.y * zi % edP + p.x * zi % edP % 2 * 2 ^ 255)

/-- The scalar and the prefix of a secret key. -/
def edExpand (key : BitVec 256) : Nat × List Byte :=
  let h := sha512 (bytesLE 32 key.toNat)
  (natOfBytes (h.take 32) % 2 ^ 254 / 8 * 8 + 2 ^ 254, h.drop 32)

/-- The public key of a secret key. -/
def edPublic (key : BitVec 256) : List Byte := edEncode (edMul (edExpand key).1 edBase)

/-- The signature of a message with a secret key: R and S. -/
def edSign (key : BitVec 256) (msg : List Byte) : List Byte :=
  let x := edExpand key
  let r := natOfBytes (sha512 (x.2 ++ msg)) % edL
  let rb := edEncode (edMul r edBase)
  let k := natOfBytes (sha512 (rb ++ edPublic key ++ msg)) % edL
  rb ++ bytesLE 32 ((r + k * x.1) % edL)

/-! ### CRC-32C -/

/-- One bit of the reflected CRC-32C, polynomial 0x1EDC6F41. -/
def crcBit (c : Word) : Word := if c.getLsbD 0 then (c >>> 1) ^^^ 0x82F63B78 else c >>> 1

/-- CRC-32C of some bytes. -/
def crc32c (bs : List Byte) : Word :=
  ~~~(bs.foldl (fun c b => (List.range 8).foldl (fun c _ => crcBit c) (c ^^^ b.setWidth 32)) (0xFFFFFFFF : Word))

end Sys2Proof.Machine
end

