-- ==== Sys2Proof/Machine/Matrix.lean ====
section
/-! DEFINITION. The arithmetic of the matrix engines: the element formats of R255, one group of 32 along K (R243 to
R246, R264), planes (R255 to R257), and which groups are slice operations (R273). -/

namespace Sys2Proof.Machine
open Sys2Proof

/-! ### Formats (R255) -/

/-- The float format of a code; none for I8 and N8. -/
def matFmt : Nat → Option Fmt
  | 0 => some .e4m3
  | 1 => some .e5m2
  | 2 => some .e3m2
  | 3 => some .e2m3
  | 4 => some .e2m1
  | 5 => some .bf16
  | _ => none

/-- An element's value at scale 1, with its block's metadata word (R243, R264). -/
def matDec (f : Nat) (bits md : Nat) : Val :=
  match matFmt f with
  | some x => decUnsc x bits md
  | none =>
    let i := readInt (f == 6) 8 bits
    .fin (i < 0) i.natAbs 0

/-- Largest magnitude of a format, E2M1 with its spare (R244, R264). -/
def matLargest (f : Nat) : Val :=
  match matFmt f with
  | some .e2m1 => decFmt .e3m2 0x1F
  | some x => decFmt x x.maxCode
  | none => .fin false (if f = 6 then 128 else 255) 0

/-- The least weight of a non-zero element, E2M1 with its spare (R273). -/
def matLeast (f : Nat) : Int :=
  match f with
  | 0 => -9
  | 1 => -16
  | 2 => -4
  | 3 => -3
  | 4 => -4
  | _ => 0

/-- Both sides are integers (R245). -/
def intPair (fa fb : Nat) : Bool := 6 ≤ fa && 6 ≤ fb

/-- BF16 stands on a side. -/
def bfPair (fa fb : Nat) : Bool := fa == 5 || fb == 5

/-- The cut of a pair at a fidelity; none is unlimited (R244, R245). -/
def matCut (fa fb fid : Nat) : Option Nat := if intPair fa fb then none else kcut (bfPair fa fb) fid

/-- ANCHOR of a group (R244, R264). -/
def matAnchor (fa fb : Nat) (ps : List Val) : Option Int :=
  if bfPair fa fb then topWeight ps else ((matLargest fa).mul (matLargest fb)).weight

/-- Groups of this pair are slice operations: its product weights span more than the cut, BF16's at fidelity 0 too (R244,
R273). -/
def sliced (fa fb fid : Nat) : Bool :=
  !intPair fa fb &&
    (bfPair fa fb ||
      match ((matLargest fa).mul (matLargest fb)).weight, matCut fa fb fid with
      | some w, some k => (k : Int) < w - (matLeast fa + matLeast fb) + 1
      | _, _ => false)

/-- step and tstep of one group of 32: patterns and metadata of both sides (R243). -/
def matStep (fa fb fid : Nat) (xs ys : List Nat) (ma mb : Nat) : AccTail :=
  let m (x : Nat) : Nat := if intPair fa fb then plainMeta else x
  let ps := List.zipWith (fun x y => (matDec fa x ma).mul (matDec fb y mb)) xs ys
  groupStep (matCut fa fb fid) (matAnchor fa fb ps) ps (m ma) (m mb)

/-- The width bits from bit `pos` of some bytes. -/
def bitsAt (bs : List (BitVec 8)) (pos width : Nat) : Nat :=
  (List.range 4).foldl (fun acc i => acc + ((bs.getD (pos / 8 + i) 0).toNat) * 2 ^ (8 * i)) 0 / 2 ^ (pos % 8) % 2 ^ width

end Sys2Proof.Machine
end

