-- ==== Sys2Proof/Machine/Memory.lean ====
section
/-! DEFINITION. Loads, stores, gathers, scatters, scratch tiles and prefetch (R418 to R428). -/

namespace Sys2Proof.Machine
open Sys2Proof

/-! ### Addresses (R418 to R421) -/

/-- Lane l's effective address: the pair and the displacement (R418). -/
def laneEa (c : Cur) (x : OpSet) (l : Nat) : DWord := pairVal c x.a l + x.imm.signExtend 64

/-- Lane l's scratch offset (R419). -/
def laneOff (c : Cur) (x : OpSet) (l : Nat) : DWord := (laneVal c x.a l + x.imm.signExtend 32).setWidth 64

/-- A memory form names scratch (R358). -/
def inScratch (o : Op) : Bool := o.space == 1

/-- The addresses or offsets of some lanes, in ascending lane order. -/
def lanePlaces (s : State) (c : Cur) (o : Op) (ls : Word) : List (Nat × DWord) :=
  (lanesOf ls).map fun l => (l, if inScratch o then laneOff c (setFor s c o l) l else laneEa c (setFor s c o l) l)

/-- MISALIGN and SCRBOUND over the places of the active lanes (R206, R421); `ls` is what LANES names, all failing lanes
where it is zero. -/
def placeFaults (c : Cur) (scr : Bool) (align size : Nat) (ps : List (Nat × DWord)) : List FaultInfo :=
  let mk (code : Nat) (bad : List (Nat × DWord)) : List FaultInfo :=
    match bad with
    | [] => []
    | p :: _ => [{ code := code, lanes := maskOf (bad.map fun p => p.1), addr := p.2 }]
  mk codeMisalign (ps.filter fun p => p.2.toNat % align != 0)
    ++ (if scr then mk codeScrbound (ps.filter fun p => c.blk.scr < p.2.toNat + size) else [])

/-- UNCORR at the places a scratch load reads (R190). -/
def scrUncorr (s : State) (c : Cur) (scr : Bool) (size : Nat) (ps : List (Nat × DWord)) : List FaultInfo :=
  let key (p : Nat × DWord) : Nat := spaceKey (scratchSpace c.blk.core) (c.blk.ext + p.2.toNat)
  match ps.filter fun p => scr && s.uncorrIn (key p) size with
  | [] => []
  | p :: rest => [{ code := codeUncorr, lanes := maskOf ((p :: rest).map fun q => q.1), addr := p.2 }]

/-- UNCORR of what an instruction reads once its other checks have passed (R186, R206). -/
def readLast (s : State) (c : Cur) (o : Op) (checks uncorr : List FaultInfo) : List FaultInfo :=
  checks ++ (if (checks ++ joinFault s c (fallThrough c o)).isEmpty then uncorr else [])

/-- The lanes whose address no requester may send (R91). -/
def badPlaces (ps : List (Nat × DWord)) : List (Nat × DWord) := ps.filter fun p => !vaLegal p.2

/-- Inserts a number in ascending order. -/
def insertNat (x : Nat) : List Nat → List Nat
  | [] => [x]
  | y :: ys => if x < y then x :: y :: ys else if x = y then y :: ys else y :: insertNat x ys

/-- The different lines of some pieces, ascending (R113). -/
def linesOf (ps : List Part) : List DWord :=
  (ps.foldl (fun acc p => insertNat (lineOf p.va).toNat acc) []).map (BitVec.ofNat 64)

/-- The physical place of a scratch offset on its core (R204). -/
def scrPlace (b : Block) (off : DWord) : DWord := off + BitVec.ofNat 64 b.ext

/-! ### Operations that hold registers -/

/-- The registers of a general destination: the pair for a 64-bit type (R233). -/
def destRegs (wide : Bool) (r : BitVec 8) : List Nat := if wide then [r.toNat, r.toNat + 1] else [r.toNat]

/-- The destination registers of the faces that have lanes among `ls`. -/
def faceDests (s : State) (c : Cur) (o : Op) (ls : Word) : List Nat :=
  let fx := faceMask s c.blk c.run.gid c.path
  (if !o.twoFaced || (ls &&& fx) != 0 then destRegs o.ty.is64 o.d else [])
    ++ (if o.twoFaced && (ls &&& ~~~fx) != 0 then destRegs o.ty.is64 (setY o).d else [])

/-- Marks registers as pending on an operation (R162). -/
def pendOn (op : Nat) (rs : List Nat) (g : Group) : Group := { g with pend := g.pend ++ rs.map fun r => (r, op) }

/-- Adds an operation of the issuing group. -/
def State.addOp (s : State) (c : Cur) (op : LongOp) (rs : List Nat) : State :=
  s.modCur c fun g => { pendOn op.id rs g with ops := g.ops ++ [op] }

/-- R91 fails in some lane: no lane is performed, the error waits for the seam, and the destinations stay pending
(R183, R421); without a destination the group's next release takes it (R184). -/
def badAddress (c : Cur) (bad : List (Nat × DWord)) (rs : List Nat) (s : State) : State :=
  let lanes := maskOf (bad.map fun p => p.1)
  let k := { candOf s c { code := codeAddress, lanes := lanes, addr := match bad with | p :: _ => p.2 | [] => 0 } 1 with
    loose := rs.isEmpty }
  let (s, id) := s.fresh
  s.modCur c fun g => { pendOn id rs g with cands := g.cands ++ [k] }

/-- The scope a form carries, where it carries an order (R358). -/
def acqOf (o : Op) : Option Nat := if o.ord.getLsbD 0 then some o.scope.toNat else none
def relOf (o : Op) : Option Nat := if o.ord.getLsbD 1 then some o.scope.toNat else none

/-- R279: a scope at scratch is at most clu. -/
def scrScope (sc : Option Nat) : Option Nat := sc.map (min 2)

/-- An acquire has been performed at once: at clu and wider it clears the L1 of the core (R283). -/
def acquired (c : Cur) (sc : Option Nat) (s : State) : State :=
  match sc with
  | some n => if 2 ≤ n then s.l1Acquire (.watch c.run.blk c.run.gid) c.blk.core else s
  | none => s

/-- Before a global access of a group leaves for a line, the group's depot entries of that line are sent (R426). -/
def State.beforeLine (s : State) (c : Cur) (line : DWord) : State :=
  if s.fab.reqs.any fun r => r.phase == .depot && r.core == c.blk.core && r.line == line && ofGroup c.run.blk c.run.gid r then
    s.sendDepot fun r => r.core == c.blk.core && r.line == line
  else s

/-- A group's request for one line. -/
def groupReq (c : Cur) (op : Nat) (kind : AccKind) (line : DWord) (ps : List Part) : Req :=
  { id := 0, kind := kind, core := c.blk.core, who := .group c.run.blk c.run.gid op, line := line
    parts := ps.filter fun p => lineOf p.va == line, srcid := groupSrc c.blk c.grp, pc := c.path.pc }

/-- Sends one request for each line of some pieces, in ascending order; `f` completes each. -/
def State.sendLines (s : State) (c : Cur) (op : Nat) (kind : AccKind) (ps : List Part) (f : Req → Req) : State :=
  (linesOf ps).foldl (fun (s : State) line => ((s.beforeLine c line).send (f (groupReq c op kind line ps))).1) s

/-- A place has joined the depot: with all 64 entries in use the oldest entry is sent (R222). -/
def State.joinDepot (s : State) (c : Cur) (r : Req) : State :=
  let lines := s.depotLines c.blk.core
  let s := if 64 ≤ lines.length ∧ !lines.contains r.line then
      match lines with
      | l :: _ => s.sendDepot fun q => q.core == c.blk.core && q.line == l
      | [] => s
    else s
  (s.send { r with phase := .depot }).1

/-- Puts one request for each line of some pieces into the depot (R222). -/
def State.depotAll (s : State) (c : Cur) (op : Nat) (kind : AccKind) (ps : List Part) (f : Req → Req) : State :=
  (linesOf ps).foldl (fun (s : State) line => s.joinDepot c (f (groupReq c op kind line ps))) s

/-! ### Releases -/

/-- Some error of an operation that holds no register has reached the group. -/
def hasImprecise (g : Group) : Bool := g.cands.any fun k => k.prec == 2 || k.loose

/-- A release: it waits until every earlier access of its group has been acknowledged, takes their errors (R184), and
otherwise goes on (R115, R282). -/
def afterRelease (c : Cur) (eff : State → State) (s : State) : State :=
  let s := s.sendDepotOf c.run.blk c.run.gid
  if !s.acked c.run.blk c.run.gid then holdAt c (.mem true) s
  else if hasImprecise c.grp then (s.endTurn c.run.core c.run.part).deliver c.run.blk c.run.gid
  else eff (s.noteRelease c.run.blk c.run.gid)

/-- A form that carries a release waits as one; any other goes on at once. -/
def ifRelease (c : Cur) (o : Op) (eff : State → State) (s : State) : State :=
  if (relOf o).isSome then afterRelease c eff s else eff s

/-- An operation on scratch, or of an engine, waits for the acquires before it (R283). -/
def afterAcquires (c : Cur) (eff : State → State) (s : State) : State :=
  if s.scrClear c.run.blk c.run.gid then eff s else holdAt c (.mem false) s

/-- An acquire on the core waits for the acquires and releases before it (R283, R284, R297). -/
def asAcquire (c : Cur) (eff : State → State) (s : State) : State :=
  if s.memClear c.run.blk c.run.gid then eff s else holdAt c .acq s

/-! ### Loads (R424) -/

/-- The pieces of some places. -/
def partsOf (s : State) (size : Nat) (ps : List (Nat × DWord)) : List Part :=
  ps.map fun p => { lane := p.1, va := s.resolve p.2, size := size }

/-- A piece served on the core (R114, R208); nothing where it must go to its home. What may not come from the L1, an acquire among
it, waits for the group's releases under way (R284, R297). -/
def State.serve (s : State) (c : Cur) (l1 : Bool) (p : Part) : Option Nat :=
  if !l1 && !(s.relDeps c.run.blk c.run.gid).isEmpty then none
  else
    match s.sideServe c.run.blk c.run.gid p with
    | some v => some v
    | none => if l1 && vaRgn p.va ≤ 5 then s.l1Serve c.blk.core p else none

/-- The effect of a global load whose places are legal: what the core serves is taken at once, the rest is requested.
A gather goes through the depot. -/
def globalLoad (c : Cur) (o : Op) (depot : Bool) (dest : Dest) (ls : Word) (rs : List Nat) (ps : List (Nat × DWord))
    (s : State) : State :=
  let (s, id) := s.fresh
  let deps := s.acqDeps c.run.blk c.run.gid
  let acq := acqOf o
  let parts := partsOf s o.ty.bytes ps
  let hit (p : Part) : Option Nat := if deps.isEmpty then s.serve c (!depot && acq.isNone) p else none
  let rest := parts.filter fun p => (hit p).isNone
  let vals := parts.foldl (fun m p => match hit p with | some v => FMap.put m p.lane (BitVec.ofNat 64 v) | none => m) []
  let s := s.addOp c {
    id := id, site := siteOf s c ls, kind := .load, ty := o.ty, dest := dest, left := (linesOf rest).length, vals := vals } rs
  let f (r : Req) : Req := { r with ty := o.ty, deps := deps, acq := acq, fill := !depot && vaRgn r.line ≤ 5 }
  let s := if depot then s.depotAll c id .load rest f
    else (s.countMany 0x0006 ((linesOf rest).filter fun l => vaRgn l ≤ 5).length (c.blk.core / 64) (c.blk.core / 4)
      c.blk.core).sendLines c id .load rest f
  if rest.isEmpty then acquired c acq s else s

/-- The bytes of a scratch piece. -/
def State.scrRead (s : State) (b : Block) (off : DWord) (size : Nat) : Nat :=
  s.fab.mem.num (spaceKey (scratchSpace b.core) (scrPlace b off).toNat) size

/-- The effect of a scratch load: at the array at once, or behind the acquires before it (R207, R283). `ps` gives the
key a value is kept under, and its offset. -/
def scratchLoad (c : Cur) (o : Op) (size : Nat) (dest : Dest) (ls : Word) (rs : List Nat) (ps : List (Nat × DWord))
    (s : State) : State :=
  let (s, id) := s.fresh
  let acq := scrScope (acqOf o)
  let clear := if acq.isSome then s.memClear c.run.blk c.run.gid else s.scrClear c.run.blk c.run.gid
  let vals := if clear then
      ps.foldl (fun m p => FMap.put m p.1 (BitVec.ofNat 64 (s.scrRead c.blk p.2 size))) [] else []
  let s := s.addOp c {
    id := id, site := siteOf s c ls, kind := .load, ty := o.ty, dest := dest, left := if clear then 0 else 1, vals := vals } rs
  if clear then acquired c acq s
  else (s.send {
    id := 0, kind := .load, core := c.blk.core, who := .group c.run.blk c.run.gid id, line := 0, scr := true
    parts := ps.map fun p => { lane := p.1, va := scrPlace c.blk p.2, size := size }
    deps := s.acqDeps c.run.blk c.run.gid, acq := acq, srcid := groupSrc c.blk c.grp, pc := c.path.pc }).1

/-- LD and GATH (R424). -/
def execLoad (opc : BitVec 10) (depot : Bool) (o : Op) (s : State) : Host.Outcome State Fault Refusal :=
  issuePlain opc o s
    (fun c =>
      let ps := lanePlaces s c o (activeLanes s c o)
      readLast s c o (placeFaults c (inScratch o) o.ty.bytes o.ty.bytes ps) (scrUncorr s c (inScratch o) o.ty.bytes ps))
    fun c s =>
      let ls := activeLanes s c o
      let ps := lanePlaces s c o ls
      let rs := faceDests s c o ls
      let dest : Dest := .vec o.d.toNat (setY o).d.toNat
      if ls = 0 then s
      else if inScratch o then scratchLoad c o o.ty.bytes dest ls rs ps s
      else
        match badPlaces ps with
        | [] => globalLoad c o depot dest ls rs ps s
        | bad => badAddress c bad rs s

/-- LD (R424). -/
def execLd (o : Op) (s : State) : Host.Outcome State Fault Refusal := execLoad 0x180 false o s
/-- GATH (R424). -/
def execGath (o : Op) (s : State) : Host.Outcome State Fault Refusal := execLoad 0x182 true o s

/-- The one place LDU reads: that of its lowest active lane, kept under key 0 (R424). -/
def lduPlace (s : State) (c : Cur) (o : Op) : List (Nat × DWord) :=
  match lowest (activeLanes s c o) with
  | some l => (lanePlaces s c o (1#32 <<< l)).map fun p => (l, p.2)
  | none => []

/-- A check of the one place every active lane shares fails for them all (R186). -/
def allLanes (s : State) (c : Cur) (o : Op) (fs : List FaultInfo) : List FaultInfo :=
  fs.map fun f => { f with lanes := activeLanes s c o }

/-- MISALIGN and SCRBOUND of LDU (R421). -/
def lduFaults (s : State) (c : Cur) (o : Op) : List FaultInfo :=
  allLanes s c o (placeFaults c (inScratch o) o.ty.bytes o.ty.bytes (lduPlace s c o))

/-- LDU (R424): one read, for a uniform register or every active lane of a general one. -/
def execLdu (o : Op) (s : State) : Host.Outcome State Fault Refusal :=
  issuePlain 0x185 o s
    (fun c => readLast s c o (shapeFaults s c 0x185 o none ++ lduFaults s c o) (allLanes s c o
      (scrUncorr s c (inScratch o) o.ty.bytes (lduPlace s c o))))
    fun c s =>
      let ls := activeLanes s c o
      let ps := lduPlace s c o
      let rs := destRegs o.ty.is64 o.d
      let dest : Dest := if isUni o.d then .uni (o.d.toNat - 0xA0) else .all o.d.toNat
      if ls = 0 then s
      else if inScratch o then scratchLoad c o o.ty.bytes dest ls rs ps s
      else
        match badPlaces ps with
        | [] => globalLoad c o false dest ls rs ps s
        | p :: _ => badAddress c ((lanesOf ls).map fun l => (l, p.2)) rs s

/-! ### Stores (R425) -/

/-- The element bits lane l stores: the data register's, or the pair's (R233, R420). -/
def storeData (c : Cur) (o : Op) (x : OpSet) (l : Nat) : DWord :=
  if o.ty.is64 then pairVal c x.d l else (laneVal c x.d l).setWidth 64

/-- The pieces of a store, in ascending lane order, so that the highest lane's value is the last written (R207, R425). -/
def storeParts (s : State) (c : Cur) (o : Op) (ps : List (Nat × DWord)) : List Part :=
  ps.map fun p => { lane := p.1, va := s.resolve p.2, size := o.ty.bytes, data := storeData c o (setFor s c o p.1) p.1 }

/-- The bytes of a piece in an executable page, as fetches read them now: by address. -/
def State.codeBytes (s : State) (core : Nat) (p : Part) : List (Nat × Byte) :=
  let line := lineOf p.va
  let bytes (bs : List Byte) : List (Nat × Byte) := (List.range p.size).map fun i => (p.va.toNat + i, bs.getD i 0)
  match s.l1? core line with
  | some l => bytes (l.data.drop (p.va.toNat - line.toNat))
  | none =>
    if !s.isOwn p.va || 5 < vaRgn p.va then []
    else
      match s.check (homeOf p.va) .fetch p.va with
      | .ok key _ _ _ _ => bytes (s.fab.mem.bytes key p.size)
      | _ => []

/-- Before a group's own stores to executable pages: what its fetches go on reading there (R341, log entry 119). A store to a line that is
neither in the L1 nor homed in this package notes nothing. -/
def State.noteCode (s : State) (c : Cur) (ps : List Part) : State :=
  let old := ps.flatMap (s.codeBytes c.blk.core)
  s.modCur c fun g => { g with codeOld := old.foldl (fun m x =>
    if (FMap.get none m x.1).isSome then m else FMap.set none m x.1 (some x.2)) g.codeOld }

/-- The effect of a global store (R208, R425): it updates a present line and goes to its home, a scatter by the depot.
The operation is kept until its last answer, for its errors. -/
def globalStore (c : Cur) (o : Op) (depot : Bool) (ls : Word) (ps : List (Nat × DWord)) (s : State) : State :=
  let parts := storeParts s c o ps
  let (s, id) := s.fresh
  let s := s.addOp c {
    id := id, site := siteOf s c ls, kind := .store, ty := o.ty, dest := .none, left := (linesOf parts).length } []
  let deps := s.acqDeps c.run.blk c.run.gid
  let f (r : Req) : Req := { r with ty := o.ty, deps := deps, rel := relOf o }
  let s := s.noteCode c parts
  let s := (linesOf parts).foldl (fun (s : State) line =>
    s.l1Store c.blk.core line (parts.filter fun p => lineOf p.va == line)) s
  if depot then s.depotAll c id .store parts f else s.sendLines c id .store parts f

/-- Writes pieces into scratch. -/
def State.scrWrite (s : State) (b : Block) (ps : List Part) : State :=
  { s with fab := { s.fab with mem := ps.foldl (fun (m : Memory) p =>
      m.setNum (spaceKey (scratchSpace b.core) (scrPlace b p.va).toNat) p.size p.data.toNat) s.fab.mem } }

/-- The effect of a scratch store: at the array at once, or behind the acquires before it (R207, R283). -/
def scratchStore (c : Cur) (ps : List Part) (ls : Word) (s : State) : State :=
  if s.scrClear c.run.blk c.run.gid then s.scrWrite c.blk ps
  else
    let (s, id) := s.fresh
    let s := s.addOp c { id := id, site := siteOf s c ls, kind := .store, ty := .n8, dest := .none, left := 1 } []
    (s.send {
      id := 0, kind := .store, core := c.blk.core, who := .group c.run.blk c.run.gid id, line := 0, scr := true
      parts := ps.map fun p => { p with va := scrPlace c.blk p.va }
      deps := s.acqDeps c.run.blk c.run.gid, pc := c.path.pc }).1

/-- The side log of the core is full (R116). -/
def sideFull (s : State) (c : Cur) : Bool := 256 ≤ (s.sideOf c.blk.core).length

/-- An instruction that could defer an access waits at issue while the core's side log is full, from then on; the address is
that of its lowest lane (R116, R185). -/
def unlessFull (c : Cur) (lanes : Word) (addr : DWord) (eff : State → State) (s : State) : State :=
  if sideFull s c then
    let since := if c.run.full.isSome then c.run.stall else some s.clk.ref
    let s := stallAt c s
    { s with cores := { s.cores with runs := s.cores.runs.map fun r =>
        if r.core == c.run.core && r.part == c.run.part then { r with stall := since, full := some addr, fullLanes := lanes }
        else r } }
  else eff s

/-- The address of the lowest lane of some places. -/
def firstPlace (ps : List (Nat × DWord)) : DWord := match ps with | p :: _ => p.2 | [] => 0

/-- ST and SCAT (R425). -/
def execStore (opc : BitVec 10) (depot : Bool) (o : Op) (s : State) : Host.Outcome State Fault Refusal :=
  issue opc o s
    (fun c => placeFaults c (inScratch o) o.ty.bytes o.ty.bytes (lanePlaces s c o (activeLanes s c o))
      ++ joinFault s c (fallThrough c o))
    fun c s =>
      let ls := activeLanes s c o
      let ps := lanePlaces s c o ls
      if ls = 0 then finish c o s
      else if inScratch o then
        let parts := ps.map fun p =>
          ({ lane := p.1, va := p.2, size := o.ty.bytes, data := storeData c o (setFor s c o p.1) p.1 } : Part)
        ifRelease c o (fun s => finish c o (scratchStore c parts ls s)) s
      else
        match badPlaces ps with
        | [] => unlessFull c ls (firstPlace ps) (ifRelease c o fun s => finish c o (globalStore c o depot ls ps s)) s
        | bad => finish c o (badAddress c bad [] s)

/-- ST (R425). -/
def execSt (o : Op) (s : State) : Host.Outcome State Fault Refusal := execStore 0x181 false o s
/-- SCAT (R425). -/
def execScat (o : Op) (s : State) : Host.Outcome State Fault Refusal := execStore 0x183 true o s

/-! ### Scratch tiles (R427) -/

/-- The registers LDT and STT move. -/
def tileCount (o : Op) : Nat := 2 ^ o.kMem.toNat

/-- The offset of LDT and STT. -/
def tileOff (c : Cur) (o : Op) : DWord := laneOff c (setX o) 0

/-- Checks of LDT and STT. -/
def tileFaults (s : State) (c : Cur) (o : Op) : List FaultInfo :=
  let ls := activeLanes s c o
  let off := tileOff c o
  if ls = 0 then []
  else
    (if off.toNat % 16 ≠ 0 then [{ code := codeMisalign, lanes := ls, addr := off }] else [])
      ++ (if c.blk.scr < off.toNat + 128 * tileCount o then [{ code := codeScrbound, lanes := ls, addr := off }] else [])

/-- The rows and lanes LDT and STT move: key 32 × row + lane, and offset. -/
def tileParts (c : Cur) (o : Op) (ls : Word) : List (Nat × DWord) :=
  (List.range (tileCount o)).flatMap fun r =>
    (lanesOf ls).map fun l => (32 * r + l, tileOff c o + BitVec.ofNat 64 (128 * r + 4 * l))

/-- LDT (R427). -/
def execLdt (o : Op) (s : State) : Host.Outcome State Fault Refusal :=
  issuePlain 0x186 o s
    (fun c => readLast s c o (tileFaults s c o)
      (scrUncorr s c true 4 ((tileParts c o (activeLanes s c o)).map fun p => (p.1 % 32, p.2)))) fun c s =>
    let ls := activeLanes s c o
    if ls = 0 then s
    else scratchLoad c o 4 (.rows o.d.toNat (tileCount o)) ls
      ((List.range (tileCount o)).map (o.d.toNat + ·)) (tileParts c o ls) s

/-- STT (R427). -/
def execStt (o : Op) (s : State) : Host.Outcome State Fault Refusal :=
  issuePlain 0x187 o s (fun c => tileFaults s c o) fun c s =>
    let ls := activeLanes s c o
    let ps := (tileParts c o ls).map fun p =>
      ({ lane := p.1 % 32, va := p.2, size := 4, data := (FMap.get 0 c.grp.r.v (32 * o.d.toNat + p.1)).setWidth 64 } : Part)
    if ls = 0 then s else scratchStore c ps ls s

/-! ### Prefetch (R428) -/

/-- The lines PRF requests: those a requester may send, outside region 6. -/
def prfLines (s : State) (c : Cur) (o : Op) : List DWord :=
  linesOf (partsOf s 1 ((lanePlaces s c o (activeLanes s c o)).filter fun p => vaLegal p.2 && vaRgn p.2 ≤ 5))

/-- PRF (R428): no register, no counter, and nothing waits for it. -/
def execPrf (o : Op) (s : State) : Host.Outcome State Fault Refusal :=
  issuePlain 0x184 o s (fun _ => []) fun c s =>
    (prfLines s c o).foldl (fun (s : State) line =>
      ((s.beforeLine c line).send {
        id := 0, kind := .prefetch, core := c.blk.core, who := .group c.run.blk c.run.gid 0, line := line
        parts := [{ lane := 0, va := line, size := 64 }], deps := s.acqDeps c.run.blk c.run.gid, fill := true
        srcid := groupSrc c.blk c.grp, pc := c.path.pc }).1) s

end Sys2Proof.Machine
end

