-- ==== Sys2Proof/Machine/Sync.lean ====
section
/-! DEFINITION. Fences, barrier objects, hardware barriers, waits, milestones and INVL1 (R434 to R443). -/

namespace Sys2Proof.Machine
open Sys2Proof

/-! ### The end of a wait -/

/-- Sets the ARRIVED bit of a slot (R194). -/
def setArrived (slotB x : Bool) (g : Group) : Group := if slotB then { g with arrB := x } else { g with arrA := x }

/-- The number of an engine class. -/
def EngClass.num : EngClass → Nat
  | .copy => 0
  | .arr => 1
  | .qmu => 2
  | .nest => 3

/-- A wait orders an operation of the group that has failed: a WAITN the engine operations of its class, a wait for a phase the
copies that were to signal its object (R184). -/
def ordersError (g : Group) (uid : Nat) : ParkCond → Bool
  | .waitn k _ => g.cands.any fun e => e.prec == 2 && e.eng.toNat / 4096 == k.num + 1
  | .phase off => hasImprecise g && g.unsent.contains (uid, off)
  | _ => false

/-- A parked waiting instruction completes: errors it orders are delivered (R184), any other waits for the group's next seam
(R183); without one ARRIVED clears, the acquire of its scope is performed, and the group goes on. -/
def State.endWait (s : State) (uid gid : Nat) (sc : Nat) : State :=
  match s.group? uid gid, s.block? uid with
  | some g, some b =>
    match g.park with
    | none => s
    | some k =>
      if ordersError g uid k.cond then (s.modGroup uid gid fun g => { g with park := none }).deliver uid gid
      else
        let s := s.modGroup uid gid (setArrived k.slotB false)
        let s := if 2 ≤ sc then s.l1Acquire (.watch uid gid) b.core else s
        s.finishPark uid gid
  | _, _ => s

/-- A waiting instruction completes at issue. -/
def waitDone (c : Cur) (o : Op) (cond : ParkCond) (sc : Nat) (s : State) : State :=
  if ordersError c.grp c.run.blk cond then (s.endTurn c.run.core c.run.part).deliver c.run.blk c.run.gid
  else
    let s := acquired c (some sc) s
    finish c o (s.modCur c (setArrived c.run.slotB false))

/-! ### Fences (R434) -/

/-- FENCE (R434). -/
def execFence (o : Op) (s : State) : Host.Outcome State Fault Refusal :=
  issueWhole 0x1A0 o s (fun _ => []) fun c s =>
    afterRelease c (fun s => finish c o (acquired c (some o.scope.toNat) s)) s

/-! ### Barrier objects (R219 to R221, R436 to R438) -/

/-- The scratch offset a barrier instruction names. -/
def barOff (c : Cur) (o : Op) : DWord := (laneVal c o.a 0).setWidth 64

/-- MISALIGN and SCRBOUND of an object of 8 bytes (R436). -/
def objFaults (c : Cur) (o : Op) : List FaultInfo :=
  let off := barOff c o
  let ls := guardedIn c o
  (if off.toNat % 8 ≠ 0 then [{ code := codeMisalign, lanes := ls, addr := off }] else [])
    ++ (if c.blk.scr < off.toNat + 8 then [{ code := codeScrbound, lanes := ls, addr := off }] else [])

/-- UNCORR of an object that an instruction reads (R190). -/
def objUncorr (s : State) (c : Cur) (o : Op) : List FaultInfo :=
  (scrUncorr s c true 8 [(0, barOff c o)]).map fun f => { f with lanes := guardedIn c o }

/-- The key of an object of a block. -/
def objKey (b : Block) (off : Nat) : Nat := spaceKey (scratchSpace b.core) (b.ext + off)

/-- PHASE of an object (R219). -/
def State.phaseOf (s : State) (b : Block) (off : Nat) : Nat := s.fab.mem.num (objKey b off) 8 / 2 ^ 63

/-- The object after one arrival (R220). -/
def arrived (x : DWord) : DWord :=
  let count : BitVec 16 := x.extractLsb' 0 16 + 1
  let expect : BitVec 16 := x.extractLsb' 32 16
  if count = expect then ((x ^^^ 0x8000000000000000) &&& 0xFFFFFFFFFFFF0000)
  else (x &&& 0xFFFFFFFFFFFF0000) ||| count.setWidth 64

/-- The arrival completes the phase (R220). -/
def completes (x : DWord) : Bool := x.extractLsb' 0 16 + 1 == x.extractLsb' 32 16

/-- The groups of a block that wait for a phase of an object. -/
def phaseWaiters (b : Block) (off : Nat) : List (Nat × Nat) :=
  b.groups.filterMap fun g =>
    match g.park with
    | some k => if k.cond == .phase off then some (g.gid, k.op.scope.toNat) else none
    | none => none

/-- One arrival on an object, as one step at the scratch; a completed phase ends the waits on it (R220, R437). -/
def State.arriveAt (s : State) (uid off : Nat) : State :=
  match s.block? uid with
  | none => s
  | some b =>
    let key := objKey b off
    let x := BitVec.ofNat 64 (s.fab.mem.num key 8)
    let s : State := { s with fab := { s.fab with mem := s.fab.mem.setNum key 8 (arrived x).toNat } }
    if completes x then (phaseWaiters b off).foldl (fun (s : State) w => s.endWait uid w.1 (min w.2 2)) s else s

/-- CBAR (R437). -/
def execCbar (o : Op) (s : State) : Host.Outcome State Fault Refusal :=
  issueWhole 0x1A1 o s (fun c => objFaults c o) fun c s =>
    afterRelease c (fun s =>
      let x := (laneVal c o.b 0).toNat % 65536 * 2 ^ 32
      finish c o { s with fab := { s.fab with mem := s.fab.mem.setNum (objKey c.blk (barOff c o).toNat) 8 x } }) s

/-- ARRIVE (R437). -/
def execArrive (o : Op) (s : State) : Host.Outcome State Fault Refusal :=
  issueWhole 0x1A2 o s (fun c => readLast s c o (objFaults c o) (objUncorr s c o)) fun c s =>
    afterRelease c (fun s => finish c o (s.arriveAt c.run.blk (barOff c o).toNat)) s

/-- Parks in a wait for a phase of an object. -/
def parkPhase (c : Cur) (o : Op) (off : Nat) (s : State) : State :=
  (parkAt c o (.phase off) s).orderedErrors c.run.blk off

/-- The phase operand of WAITP (R437). -/
def waitPhase (c : Cur) (o : Op) : Nat :=
  if o.kMem.getLsbD 1 then (laneVal c o.b 0).toNat % 2 else o.kMem.toNat % 2

/-- WAITP (R437). -/
def execWaitp (o : Op) (s : State) : Host.Outcome State Fault Refusal :=
  issueWhole 0x1A3 o s (fun c => readLast s c o (objFaults c o) (objUncorr s c o)) fun c s =>
    asAcquire c (fun s =>
      let off := (barOff c o).toNat
      if s.phaseOf c.blk off ≠ waitPhase c o then waitDone c o (.phase off) (min o.scope.toNat 2) s
      else parkPhase c o off s) s

/-- The ARRIVED bit of the issuing slot. -/
def hasArrived (c : Cur) : Bool := if c.run.slotB then c.grp.arrB else c.grp.arrA

/-- ARWT's wait once it has arrived (R437, R438). -/
def arwtWait (c : Cur) (o : Op) (q : Nat) (s : State) : State :=
  let off := (barOff c o).toNat
  if s.phaseOf c.blk off ≠ q then waitDone c o (.phase off) (min o.scope.toNat 2) s else parkPhase c o off s

/-- ARWT (R437, R438). -/
def execArwt (o : Op) (s : State) : Host.Outcome State Fault Refusal :=
  issueWhole 0x1A4 o s (fun c => readLast s c o (objFaults c o) (objUncorr s c o)) fun c s =>
    if hasArrived c then
      asAcquire c (arwtWait c o ((FMap.get 0 c.grp.r.s (o.d.toNat - 0xA0)).toNat % 2)) s
    else
      afterRelease c (fun s =>
        let off := (barOff c o).toNat
        let q := s.phaseOf c.blk off
        let s := s.modCur c fun g => setArrived c.run.slotB true (setUni g (o.d.toNat - 0xA0) (BitVec.ofNat 32 q))
        arwtWait c o q (s.arriveAt c.run.blk off)) s

/-! ### Hardware barriers (R439, R440) -/

/-- The executing path of a hardware barrier stands at depth 0, outside every region, with every live lane (R439). -/
def barPath (s : State) (c : Cur) (o : Op) : List FaultInfo :=
  if c.path.depth = 0 ∧ c.path.rg = 0 ∧ liveLanes s c.blk c.grp = c.path.mask then []
  else [{ code := codeUniform, lanes := guardedIn c o }]

/-- A group waits in BAR.blk. -/
def inBarBlk (g : Group) : Bool := match g.park with | some k => k.cond == .barBlk | none => false

/-- BAR.blk completes once every group of the block that has not ended has arrived (R439). -/
def State.barBlkCheck (s : State) (uid : Nat) : State :=
  match s.block? uid with
  | none => s
  | some b =>
    if b.groups.all fun g => g.exited || inBarBlk g then
      (b.groups.filter inBarBlk).foldl (fun (s : State) g => s.endWait uid g.gid 1) s
    else s

/-- BAR.blk (R439). -/
def execBarBlk (o : Op) (s : State) : Host.Outcome State Fault Refusal :=
  issueWhole 0x1A5 o s (fun c => barPath s c o) fun c s =>
    if hasArrived c then (parkAt c o .barBlk s).barBlkCheck c.run.blk
    else
      afterRelease c (fun s =>
        (parkAt c o .barBlk (s.modCur c (setArrived c.run.slotB true))).barBlkCheck c.run.blk) s

/-- The cluster of a core. -/
def clusterOf (core : Nat) : Nat := core / 4

def State.cluster (s : State) (cl : Nat) : Cluster := FMap.get {} s.cores.clus cl

def State.modCluster (s : State) (cl : Nat) (f : Cluster → Cluster) : State :=
  { s with cores := { s.cores with clus := FMap.set {} s.cores.clus cl (f (s.cluster cl)) } }

/-- The barrier entries of a cluster with one key replaced; an entry with COUNT 0 and nobody in it is free (R440). -/
def setBar (e : CluBar) (bars : List CluBar) : List CluBar :=
  let rest := bars.filter fun b => !(b.key == e.key && b.k == e.k)
  if e.count = 0 ∧ e.inside = [] then rest else rest ++ [e]

/-- The barrier entry of a key, a fresh one where none is taken. -/
def barEntry (cl : Cluster) (key : LaunchId) (k : Nat) : CluBar :=
  (cl.bars.find? fun b => b.key == key && b.k == k).getD { key := key, k := k, count := 0, inside := [] }

/-- An arrival at cluster barrier k of a launch, of N participants (R440). -/
def State.barCluArrive (s : State) (c : Cur) (k n : Nat) : State :=
  let cl := clusterOf c.blk.core
  let e := barEntry (s.cluster cl) c.blk.key k
  let count := (e.count + 1) % 65536
  let inside := e.inside ++ [(c.run.blk, c.run.gid)]
  if count = n then
    let s := s.modCluster cl fun x => { x with bars := setBar { e with count := 0, inside := [] } x.bars }
    inside.foldl (fun (s : State) g => s.endWait g.1 g.2 2) s
  else s.modCluster cl fun x => { x with bars := setBar { e with count := count, inside := inside } x.bars }

/-- A parked participant of a cluster barrier withdraws (R440). -/
def State.withdraw (s : State) (uid gid : Nat) : State :=
  match s.block? uid, s.group? uid gid with
  | some b, some g =>
    match g.park with
    | some k =>
      match k.cond with
      | .barClu n =>
        let cl := clusterOf b.core
        let e := barEntry (s.cluster cl) b.key n
        let e' := { e with count := (e.count + 65535) % 65536, inside := e.inside.filter fun x => x != (uid, gid) }
        if !e.inside.contains (uid, gid) then s
        else (s.modCluster cl fun x => { x with bars := setBar e' x.bars }).modGroup uid gid (setArrived k.slotB false)
      | _ => s
    | none => s
  | _, _ => s

/-- No entry is held for the key and none of the cluster's 16 is free (R440). -/
def barFull (cl : Cluster) (key : LaunchId) (k : Nat) : Bool :=
  16 ≤ cl.bars.length && !(cl.bars.any fun b => b.key == key && b.k == k)

/-- BAR.clu (R440). -/
def execBarClu (o : Op) (s : State) : Host.Outcome State Fault Refusal :=
  issueWhole 0x1A5 o s (fun c => barPath s c o) fun c s =>
    let k := o.kMem.toNat
    if barFull (s.cluster (clusterOf c.blk.core)) c.blk.key k then stallAt c s
    else
      afterRelease c (fun s =>
        (parkAt c o (.barClu k) (s.modCur c (setArrived c.run.slotB true))).barCluArrive c k
          ((laneVal c o.a 0).toNat % 65536)) s

/-! ### Engine waits (R435) -/

/-- The engine class a number names (R185, R358). -/
def classOfNum : Nat → EngClass
  | 0 => .copy
  | 1 => .arr
  | 2 => .qmu
  | _ => .nest

def Counters.get (n : Counters) : EngClass → Nat
  | .copy => n.copy
  | .arr => n.arr
  | .qmu => n.qmu
  | .nest => n.nest

def Counters.set (n : Counters) (k : EngClass) (x : Nat) : Counters :=
  match k with
  | .copy => { n with copy := x }
  | .arr => { n with arr := x }
  | .qmu => { n with qmu := x }
  | .nest => { n with nest := x }

/-- WAITN (R435). -/
def execWaitn (o : Op) (s : State) : Host.Outcome State Fault Refusal :=
  issueWhole 0x1A6 o s (fun _ => []) fun c s =>
    let k := classOfNum o.kMem.toNat
    let n := o.imm16.toNat
    if c.grp.cnt.get k ≤ n then waitDone c o (.waitn k n) 0 s else parkAt c o (.waitn k n) s

/-- An issue that would take a class counter beyond 63 (R289). -/
def countFaults (c : Cur) (k : EngClass) (ls : Word) : List FaultInfo :=
  if 63 ≤ c.grp.cnt.get k then [{ code := codeCntovf, lanes := ls, aux := BitVec.ofNat 32 k.num }] else []

/-- Raises a class counter and notes the operation (R289). -/
def State.beginEng (s : State) (c : Cur) (k : EngClass) (ls : Word) : State × Nat :=
  let (s, id) := s.fresh
  (s.modCur c fun g => { g with
    cnt := g.cnt.set k (g.cnt.get k + 1)
    engs := g.engs ++ [{ id := id, cls := k, site := siteOf s c ls }] }, id)

/-- The finished operations at the head of a class leave it, oldest first (R289). -/
def dropDone (k : EngClass) : List EngOp → List EngOp × Nat
  | [] => ([], 0)
  | e :: es =>
    if e.cls == k then
      if e.done then let r := dropDone k es; (r.1, r.2 + 1) else (e :: es, 0)
    else let r := dropDone k es; (e :: r.1, r.2)

/-- An engine operation has completed, with its errors: the counter falls in issue order, and a WAITN it satisfies
ends (R184, R289). -/
def State.endEng (s : State) (uid gid id : Nat) (errs : List Cand) : State :=
  match s.group? uid gid with
  | none => s
  | some g =>
    match g.engs.find? fun e => e.id == id with
    | none => s
    | some e =>
      let marked := g.engs.map fun x => if x.id == id then { x with done := true } else x
      let r := dropDone e.cls marked
      let s := s.modGroup uid gid fun g =>
        { g with engs := r.1, cands := g.cands ++ errs, cnt := g.cnt.set e.cls (g.cnt.get e.cls - r.2) }
      let s := s.settle uid gid
      match g.park with
      | some k =>
        match k.cond with
        | .waitn cls n => if cls == e.cls && g.cnt.get e.cls - r.2 ≤ n && !g.dead then s.endWait uid gid 0 else s
        | _ => s
      | none => s

/-! ### Waiting on memory (R441) -/

/-- The place WAITMEM reads: an address, or a scratch offset. -/
def waitPlace (c : Cur) (o : Op) : DWord := if inScratch o then laneOff c (setX { o with b := 0, c := 0 }) 0 else pairVal c o.a 0

/-- WAITMEM's condition on the value read (R441). -/
def waitHolds (c : Cur) (o : Op) (x : Nat) : Bool :=
  let b := (atomB c o).toNat % 2 ^ (8 * o.ty.bytes)
  if o.kMem.getLsbD 0 then x == b else x != b
where
  /-- The value WAITMEM compares with. -/
  atomB (c : Cur) (o : Op) : DWord := if o.ty.is64 then pairVal c o.b 0 else (laneVal c o.b 0).setWidth 64

/-- The request of one read that a parked group waits on (R441). -/
def waitReq (s : State) (c : Cur) (o : Op) : Req :=
  let va := s.resolve (waitPlace c o)
  { id := 0, kind := .load, core := c.blk.core, who := .watch c.run.blk c.run.gid, line := lineOf va
    parts := [{ lane := 0, va := va, size := o.ty.bytes }], deps := s.acqDeps c.run.blk c.run.gid
    acq := acqOf o, srcid := groupSrc c.blk c.grp, pc := c.path.pc }

/-- An error of a waiting instruction's read: seam-precise at it, with the group still parked (R441). -/
def State.waitFault (s : State) (c : Cur) (code stat aux : Nat) (addr : DWord) : State :=
  let k := { candOf s c { code := code, lanes := c.path.mask, aux := BitVec.ofNat 32 aux, addr := addr } 1 with stat := stat }
  (s.modCur c fun g => { g with cands := g.cands ++ [k] }).deliver c.run.blk c.run.gid

/-- Sets the park condition of a group. -/
def State.setCond (s : State) (uid gid : Nat) (cond : ParkCond) : State :=
  s.modGroup uid gid fun g => { g with park := g.park.map fun k => { k with cond := cond } }

/-- A scratch read of WAITMEM: the condition holds and the wait ends, or it waits on (R441). -/
def State.waitScratch (s : State) (c : Cur) (o : Op) : State :=
  let off := waitPlace c o
  let x := s.scrRead c.blk off o.ty.bytes
  if !(scrUncorr s c true o.ty.bytes [(0, off)]).isEmpty then s.waitFault c codeUncorr 0 0 off
  else if waitHolds c o x then
    (s.modGroup c.run.blk c.run.gid fun g => setUniN g o.ty.is64 (o.d.toNat - 0xA0) x).endWait c.run.blk c.run.gid
      (min ((acqOf o).getD 0) 2)
  else s.setCond c.run.blk c.run.gid (.word 0 s.clk.ref)

/-- Checks of WAITMEM. -/
def waitmemFaults (s : State) (c : Cur) (o : Op) : List FaultInfo :=
  let ps := (lanesOf (guardedIn c o)).map fun l => (l, waitPlace c o)
  readLast s c o (placeFaults c (inScratch o) o.ty.bytes o.ty.bytes ps) (scrUncorr s c (inScratch o) o.ty.bytes ps)

/-- WAITMEM (R441): the group parks in it, and its first read leaves. -/
def execWaitmem (o : Op) (s : State) : Host.Outcome State Fault Refusal :=
  issueWhole 0x1A7 o s (fun c => waitmemFaults s c o) fun c s =>
    if inScratch o then
      (if (acqOf o).isSome then asAcquire c else afterAcquires c) (fun s => (parkAt c o (.word 0 s.clk.ref) s).waitScratch c o) s
    else if !vaLegal (waitPlace c o) then
      (parkAt c o (.word 0 s.clk.ref) s).waitFault c codeAddress 0 0 (waitPlace c o)
    else
      let (s, id) := (s.beforeLine c (lineOf (s.resolve (waitPlace c o)))).send (waitReq s c o)
      parkAt c o (.word id s.clk.ref) s

/-- A parked WAITMEM is examined again: an answer is taken, or a fresh read leaves (R441). -/
def State.recheckWord (s : State) (c : Cur) (k : Park) (req : Nat) : State :=
  let o := k.op
  let uid := c.run.blk
  let gid := c.run.gid
  if inScratch o then s.waitScratch c o
  else if req = 0 then
    let (s, id) := s.send (waitReq s c o)
    s.setCond uid gid (.word id s.clk.ref)
  else
    match s.got? req with
    | none => s
    | some r =>
      let s := s.dropGot req
      match r.phase with
      | .failed stat cause =>
        s.waitFault c (codeOfStat stat) (s.statOf r stat cause) (if stat = statXlt then cause else 0) (waitPlace c o)
      | _ =>
        let x := (r.vals.getD 0 0).toNat
        if waitHolds c o x then
          (s.modGroup uid gid fun g => setUniN g o.ty.is64 (o.d.toNat - 0xA0) x).endWait uid gid ((acqOf o).getD 0)
        else s.setCond uid gid (.word 0 s.clk.ref)

/-! ### Milestones and the L1 -/

/-- MILE (R442). It reads its milestone at issue; the machine issues it only once the group's earlier acquires and releases are
performed (R283, R297: `State.mileWaits`, log entry 110). -/
def execMile (o : Op) (s : State) : Host.Outcome State Fault Refusal :=
  issueLanes 0x1A8 o s false noAff fun c _ => (FMap.get 0 c.grp.miles o.imm16.toNat).toNat

/-- INVL1 (R443). -/
def execInvl1 (o : Op) (s : State) : Host.Outcome State Fault Refusal :=
  issueWhole 0x1A9 o s (fun _ => []) fun c s => finish c o (s.l1Clear c.blk.core)

end Sys2Proof.Machine
end

