-- ==== Sys2Proof/Machine/Array.lean ====
section
/-! DEFINITION. The cluster array: planes (R254 to R259), the instructions that queue operations on it (R449 to R455),
the effects of granted operations (R258, R261, R266), the booking table (R269, R270), and the weight store's refresh
windows (R212). -/

namespace Sys2Proof.Machine
open Sys2Proof

/-! ### Tile images (R256, R257) -/

/-- VB: bytes of one column's values (R256). -/
def colBytes (d : PlaneDesc) : Nat := (if d.sparse then d.kb / 2 else d.kb) * fmtBits d.fmt / 8

/-- Where the metadata and the sparse positions of an image begin. -/
def metaStart (d : PlaneDesc) : Nat := 256 * colBytes d
def sparseStart (d : PlaneDesc) : Nat := metaStart d + (if d.meta_ then 256 * (d.kb / 16) else 0)

/-- I: the size of an image (R452). -/
def imageBytes (d : PlaneDesc) : Nat := sparseStart d + (if d.sparse then 256 * (d.kb / (8 * fmtSlot d.fmt)) else 0)

/-- The positions code of group g of column j. -/
def sparseCode (d : PlaneDesc) (img : List Byte) (j g : Nat) : Nat :=
  bitsAt img (8 * (sparseStart d + j * (d.kb / (8 * fmtSlot d.fmt))) + 4 * g) 4

/-- The stored index of logical element e of column j; none where a sparse tile holds +0 there (R257). -/
def storedIndex (d : PlaneDesc) (img : List Byte) (j e : Nat) : Option Nat :=
  if d.sparse then
    let sz := fmtSlot d.fmt
    let t := e / sz
    let code := sparseCode d img j (t / 4)
    if code % 4 = t % 4 then some (2 * (t / 4) * sz + e % sz)
    else if code / 4 = t % 4 then some ((2 * (t / 4) + 1) * sz + e % sz)
    else none
  else some e

/-- The pattern of logical element e of column j; 0 is +0 in every format. -/
def planeElem (p : Plane) (j e : Nat) : Nat :=
  match storedIndex p.desc p.img j e with
  | some k => bitsAt p.img (8 * (j * colBytes p.desc) + fmtBits p.desc.fmt * k) (fmtBits p.desc.fmt)
  | none => 0

/-- The metadata word of block g of column j. -/
def planeMeta (p : Plane) (j g : Nat) : Nat :=
  if p.desc.meta_ then bitsAt p.img (8 * (metaStart p.desc + j * (p.desc.kb / 16) + 2 * g)) 16 else plainMeta

/-- The first group of a sparse tile whose two positions are one: column and group (R257). -/
def badSparse (d : PlaneDesc) (img : List Byte) : Option (Nat × Nat) :=
  if d.sparse then
    let groups := d.kb / (4 * fmtSlot d.fmt)
    match (List.range (d.nc * groups)).find? fun i =>
        let code := sparseCode d img (i / groups) (i % groups)
        code % 4 == code / 4 with
    | some i => some (i / groups, i % groups)
    | none => none
  else none

/-! ### Issue (R447, R449 to R455) -/

/-- The description MSTAT's PARAM gives (R450). -/
def statDesc (o : Op) : PlaneDesc :=
  { fmt := o.pf 0 3, meta_ := o.pf 3 1 == 1, sparse := o.pf 4 1 == 1, nc := o.pf 5 8 + 1, kb := 32 * (o.pf 13 6 + 1) }

/-- A uniform operand as a number. -/
def uniNat (c : Cur) (r : BitVec 8) : Nat := (laneVal c r 0).toNat

/-- MISALIGN with an offset. -/
def misalign (c : Cur) (o : Op) (bad : Bool) (off : Nat) : List FaultInfo :=
  if bad then [{ code := codeMisalign, lanes := guardedIn c o, addr := BitVec.ofNat 64 off }] else []

/-- SCRBOUND of a range of n bytes, with the first offset beyond program scratch (R206, log entry 12). -/
def scrRange (c : Cur) (o : Op) (off n : Nat) : List FaultInfo :=
  if n ≠ 0 ∧ c.blk.scr < off + n then
    [{ code := codeScrbound, lanes := guardedIn c o, addr := BitVec.ofNat 64 (max off c.blk.scr) }] else []

/-- The key of a byte of the block's scratch. -/
def scrKey (b : Block) (off : Nat) : Nat := spaceKey (scratchSpace b.core) (b.ext + off)

/-- UNCORR in a range of n bytes of scratch that an instruction reads (R190). -/
def scrBad (s : State) (c : Cur) (o : Op) (off n : Nat) : List FaultInfo :=
  if n ≠ 0 ∧ s.uncorrIn (scrKey c.blk off) n then
    [{ code := codeUncorr, lanes := guardedIn c o, addr := BitVec.ofNat 64 off }] else []

/-- A range of the weight store lies within the banks the launch names (R211). -/
def wsAllowed (b : Block) (off n : Nat) : Bool :=
  off + n ≤ 2 ^ 30 && (List.range 16).all fun k =>
    !(off < (k + 1) * 2 ^ 26 && k * 2 ^ 26 < off + n) || b.lrec.wsmask.getLsbD (16 * (b.core / 64) + k)

/-- Where MSTAT's image stands. -/
def statKey (b : Block) (ws : Bool) (off : Nat) : Nat := if ws then spaceKey (wsSpace (b.core / 64)) off else scrKey b off

/-! ### The weight store's windows (R212, R213) -/

/-- The refresh period in REFTICKs. -/
def wsPeriod : Nat := 640

/-- WLEN of a die: 40, or 80 as latched at the last phase 0. -/
def State.wsLen (s : State) (die : Nat) : Nat := FMap.get 40 s.th.wlen die

/-- Bank b of a die is in its refresh window. -/
def State.bankBusy (s : State) (die b : Nat) : Bool :=
  (s.clk.ref + wsPeriod - 40 * b) % wsPeriod < s.wsLen die

/-- A range of the weight store lies in no bank that is in its window. -/
def State.wsFree (s : State) (die off n : Nat) : Bool :=
  (List.range 16).all fun b => !(off < (b + 1) * 2 ^ 26 && b * 2 ^ 26 < off + n) || !s.bankBusy die b

/-! ### Reading an image -/

/-- The parts of an image by where they begin and their bytes per column: values, metadata, sparse positions (R256). -/
def statParts (d : PlaneDesc) : List (Nat × Nat) :=
  (0, colBytes d) :: (if d.meta_ then [(metaStart d, d.kb / 16)] else [])
    ++ if d.sparse then [(sparseStart d, d.kb / (8 * fmtSlot d.fmt))] else []

/-- The image MSTAT latches: columns 0 to NC - 1 as they stand at its source; the others are not read (R256). -/
def statImage (s : State) (b : Block) (ws : Bool) (off : Nat) (d : PlaneDesc) : List Byte :=
  (statParts d).flatMap fun p =>
    s.fab.mem.bytes (statKey b ws off + p.1) (d.nc * p.2) ++ List.replicate ((256 - d.nc) * p.2) 0

/-- A test holds of what MSTAT reads: each part's first byte and length. -/
def statAny (d : PlaneDesc) (p : Nat → Nat → Bool) : Bool := (statParts d).any fun x => p x.1 (d.nc * x.2)

/-- An uncorrectable error stands in what MSTAT reads (R190). -/
def State.statBad (s : State) (b : Block) (ws : Bool) (off : Nat) (d : PlaneDesc) : Bool :=
  statAny d fun start n => s.uncorrIn (statKey b ws off + start) n

/-- A weight-store read of MSTAT waits for the window of some bank (R212, R452). -/
def State.statWaits (s : State) (b : Block) (off : Nat) (d : PlaneDesc) : Bool :=
  statAny d fun start n => !s.wsFree (b.core / 64) (off + start) n

/-- SPARSEMETA, checked before MSTAT retires (R257, R452). -/
def sparseFault (s : State) (c : Cur) (o : Op) (ws : Bool) (off : Nat) (d : PlaneDesc) : Option FaultInfo :=
  if ws && !wsAllowed c.blk off (imageBytes d) || s.statBad c.blk ws off d then none
  else
    (badSparse d (statImage s c.blk ws off d)).map fun x =>
      { code := codeSparsemeta, lanes := guardedIn c o, addr := BitVec.ofNat 64 off, aux := BitVec.ofNat 32 (x.1 + 256 * x.2) }

/-- The entry of a group in a booking table. -/
def bookingOf (cl : Cluster) (uid gid : Nat) : Option Booking := cl.book.find? fun b => b.blk == uid && b.gid == gid

/-- The lowest free entry of a booking table (R269). -/
def freeBooking (cl : Cluster) : Option Nat := (List.range 16).find? fun k => cl.book.all fun b => b.slot != k

/-- Queues an array operation of the issuing group: it waits at issue while the table has no entry for the group (R269);
otherwise its counter rises and `mk` makes the operation from the state and the number it counts under. -/
def bookArray (c : Cur) (o : Op) (mk : Nat → State → State × ArrOp) (s : State) : State :=
  let cl := clusterOf c.blk.core
  let old := bookingOf (s.cluster cl) c.run.blk c.run.gid
  match old, freeBooking (s.cluster cl) with
  | none, none => stallAt c (if c.run.stall.isNone then s.countCluster 0x000F 1 cl else s)
  | _, free =>
    let (s, id) := s.beginEng c .arr (guardedIn c o)
    let (s, op) := mk id s
    let s := s.modCluster cl fun x =>
      match old with
      | some _ => { x with book := x.book.map fun b =>
          if b.blk == c.run.blk && b.gid == c.run.gid then { b with ops := b.ops ++ [op] } else b }
      | none => { x with book := x.book ++ [{ slot := free.getD 0, blk := c.run.blk, gid := c.run.gid, ops := [op] }] }
    finish c o s

/-- Issues an array instruction whose operation takes nothing from the state. -/
def issueArray (opc : BitVec 10) (o : Op) (s : State) (checks : Cur → List FaultInfo) (mk : Cur → Nat → State → State × ArrOp) :
    Host.Outcome State Fault Refusal :=
  issueEngine opc o s (fun c => checks c ++ countFaults c .arr (guardedIn c o)) fun c s =>
    afterAcquires c (bookArray c o (mk c)) s

/-- Changes the issuing block. -/
def State.modBlk (s : State) (c : Cur) (f : Block → Block) : State := s.modBlock c.run.blk f

/-- MSTAT's checks apart from its sparse positions (R452). -/
def statFaults (c : Cur) (o : Op) : List FaultInfo :=
  let off := uniNat c o.a
  misalign c o (off % 64 != 0) off ++ (if o.kEng.getLsbD 0 then [] else scrRange c o off (imageBytes (statDesc o)))
    ++ countFaults c .arr (guardedIn c o)

/-- The operation MSTAT queues, and the description its block's SHADOW will hold (R452, R454). -/
def statOp (c : Cur) (o : Op) (id : Nat) (s : State) : State × ArrOp :=
  (s.modBlk c fun b => if b.accts.isEmpty then b else { b with mstat := true, expS := some (statDesc o) },
    { op := id, blk := c.run.blk, gid := c.run.gid, kind := .mstat (o.kEng.getLsbD 0) (uniNat c o.a) (statDesc o) })

/-- MSTAT (R452): a sparse tile's positions are read and checked before it retires, after the acquires before it and outside
the windows of their banks (R212, R257, R268). -/
def execMstat (o : Op) (s : State) : Host.Outcome State Fault Refusal :=
  issueEngine 0x200 o s (fun c => statFaults c o) fun c s =>
    afterAcquires c (fun s =>
      let d := statDesc o
      let ws := o.kEng.getLsbD 0
      let off := uniNat c o.a
      if d.sparse && ws && s.statWaits c.blk off d then holdAt c (.mem false) s
      else
        match sparseFault s c o ws off d with
        | some f => raise c f s
        | none => bookArray c o (statOp c o) s) s

/-- MSWAP (R453). -/
def execMswap (o : Op) (s : State) : Host.Outcome State Fault Refusal :=
  issueArray 0x201 o s (fun _ => []) fun c id s =>
    let s := s.modBlk c fun b => if b.expS.isSome then { b with expA := b.expS, expS := none } else b
    (s, { op := id, blk := c.run.blk, gid := c.run.gid, kind := .mswap })

/-- MSWAP.REL (R453). -/
def execMswapRel (o : Op) (s : State) : Host.Outcome State Fault Refusal :=
  issueArray 0x202 o s (fun _ => []) fun c id s =>
    (s.modBlk c fun b => { b with expA := none, expS := none },
      { op := id, blk := c.run.blk, gid := c.run.gid, kind := .mswapRel })

/-- The rows, tile and columns an operation names (R450). -/
def tileOp (c : Cur) (o : Op) (id : Nat) (kind : ArrKind) : ArrOp :=
  { op := id, blk := c.run.blk, gid := c.run.gid, kind := kind, t := o.pf 0 2, row0 := o.pf 2 8, n := o.pf 10 8 + 1
    cb0 := o.pf 18 3, ncb := o.pf 21 3 + 1, ty := o.ty, rm := o.rmE.toNat, sat := o.satE, mask := c.path.mask
    ordn := 16 * FMap.get 0 c.grp.ord ((lowest c.path.mask).getD 0) + BitVec.ofNat 64 c.run.gid }

/-- MSTREAM's checks against the plane the block expects (R454). -/
def streamFaults (c : Cur) (o : Op) : List FaultInfo :=
  let a := uniNat c o.a
  let st := uniNat c o.b
  let mb := uniNat c o.c
  misalign c o (a % 8 != 0) a ++ misalign c o (st % 8 != 0) st ++ misalign c o (o.scaled && mb % 2 != 0) mb
    ++ match c.blk.expA with
      | none => []
      | some d =>
        let bytes := d.kb * fmtBits (o.pf 24 3) / 8
        let rows := List.range (o.pf 10 8 + 1)
        rows.flatMap (fun i => scrRange c o (a + i * st) bytes)
          ++ if o.scaled then rows.flatMap fun i => scrRange c o (mb + i * (d.kb / 16)) (d.kb / 16) else []

/-- MSTREAM (R454). -/
def execMstream (o : Op) (s : State) : Host.Outcome State Fault Refusal :=
  issueArray 0x203 o s (fun c => streamFaults c o) fun c id s =>
    (s, tileOp c o id (.mstream (o.pf 24 3) o.scaled (uniNat c o.a) (uniNat c o.b) (uniNat c o.c) c.blk.expA))

/-- The checks of MDRAIN to scratch (R455). -/
def drainFaults (c : Cur) (o : Op) : List FaultInfo :=
  let z := o.ty.bytes
  let a := uniNat c o.a
  let st := uniNat c o.b
  if o.kEng.getLsbD 0 then []
  else
    misalign c o (a % z != 0) a ++ misalign c o (st % z != 0) st
      ++ (List.range (o.pf 10 8 + 1)).flatMap fun i => scrRange c o (a + i * st) (32 * (o.pf 21 3 + 1) * z)

/-- Queues a drain; one to registers holds them until its values return (R266, R455). -/
def drainOp (fold : Bool) (o : Op) (c : Cur) (id : Nat) (s : State) : State × ArrOp :=
  if o.kEng.getLsbD 0 then
    let n := o.pf 10 8 + 1
    let (s, lop) := s.fresh
    let s := s.addOp c {
      id := lop, site := siteOf s c (guardedIn c o), kind := .load, ty := o.ty, dest := .rows o.d.toNat n, left := 1 }
      ((List.range n).map (o.d.toNat + ·))
    (s, tileOp c o id (.mdrainReg fold lop))
  else (s, tileOp c o id (.mdrainScr fold (uniNat c o.a) (uniNat c o.b)))

/-- MDRAIN (R455). -/
def execMdrain (o : Op) (s : State) : Host.Outcome State Fault Refusal :=
  issueArray 0x204 o s (fun c => drainFaults c o) (drainOp false o)

/-- MDRAIN.FOLD (R455). -/
def execMdrainFold (o : Op) (s : State) : Host.Outcome State Fault Refusal :=
  issueArray 0x205 o s (fun c => drainFaults c o) (drainOp true o)

/-- MFOLD (R455). -/
def execMfold (o : Op) (s : State) : Host.Outcome State Fault Refusal :=
  issueArray 0x206 o s (fun _ => []) fun c id s => (s, tileOp c o id .mfold)

/-- MZERO (R455). -/
def execMzero (o : Op) (s : State) : Host.Outcome State Fault Refusal :=
  issueArray 0x207 o s (fun _ => []) fun c id s => (s, tileOp c o id .mzero)

/-! ### Accumulators -/

/-- The key of element (row, col) of a physical tile. -/
def accKey (tile row col : Nat) : Nat := 65536 * tile + 256 * row + col

/-- An element of a physical tile with its tail. -/
def accGet (cl : Cluster) (tile row col : Nat) : AccTail :=
  ⟨(FMap.get 0 cl.acc (accKey tile row col)).toNat, (FMap.get 0 cl.tail (accKey tile row col)).toNat⟩

def accSet (cl : Cluster) (tile row col : Nat) (x : AccTail) : Cluster :=
  { cl with
    acc := FMap.set 0 cl.acc (accKey tile row col) (BitVec.ofNat 64 x.acc)
    tail := FMap.set 0 cl.tail (accKey tile row col) (BitVec.ofNat 32 x.tail) }

/-- The rows and columns an operation names. -/
def opElems (op : ArrOp) : List (Nat × Nat) :=
  (List.range op.n).flatMap fun i => (List.range (32 * op.ncb)).map fun j => (op.row0 + i, 32 * op.cb0 + j)

/-- The physical tile of an operation's block (R265). -/
def physTile (b : Block) (t : Nat) : Nat := b.accts.getD t 0

/-- Folds the named elements (R247, R266). -/
def foldElems (b : Block) (op : ArrOp) (cl : Cluster) : Cluster :=
  let t := physTile b op.t
  (opElems op).foldl (fun (cl : Cluster) e => accSet cl t e.1 e.2 ⟨fold64 (accGet cl t e.1 e.2), 0⟩) cl

/-- Zeroes the named elements (R266). -/
def zeroElems (b : Block) (op : ArrOp) (cl : Cluster) : Cluster :=
  let t := physTile b op.t
  let cl : Cluster := { cl with badAcc := cl.badAcc.filter fun k => !(k / 65536 == t && (opElems op).contains (k / 256 % 256, k % 256)) }
  (opElems op).foldl (fun (cl : Cluster) e => accSet cl t e.1 e.2 ⟨0, 0⟩) cl

/-- The code a drain writes for element (i, j) of a tile (R266, R267). -/
def drainCode (cl : Cluster) (b : Block) (op : ArrOp) (i j : Nat) : Nat :=
  let acc := (accGet cl (physTile b op.t) i j).acc
  let draw := drawSlice (srDraw b.lrec.seed b.tile (j % 32) (op.ordn * 512 + BitVec.ofNat 64 (2 * i + j / 128))) (j / 32 % 4)
  roundVal (op.ty.fmt.getD .f32) (RMode.ofCode op.rm) op.sat draw (decFmt .f64 acc)

/-! ### Streaming (R261, R273 to R277) -/

/-- Elements 32g to 32g + 31 of row i of A (R260). -/
def aElems (s : State) (b : Block) (f a stride i g : Nat) : List Nat :=
  let bits := fmtBits f
  let bs := s.fab.mem.bytes (scrKey b (a + i * stride + 4 * bits * g)) (4 * bits)
  (List.range 32).map fun k => bitsAt bs (bits * k) bits

/-- The metadata word of block g of row i of A (R260). -/
def aMeta (s : State) (b : Block) (scaled : Bool) (mb kb i g : Nat) : Nat :=
  if scaled then s.fab.mem.num (scrKey b (mb + i * (kb / 16) + 2 * g)) 2 else plainMeta

/-- The addition of one tstep to a tail: an injected or detected event zeroes the tail, an undetected one adds a free
code, and otherwise tstep is added; events arise only above fidelity 0 (R274, R275, R277). Gives the tail and the
detected errors. -/
def tailStep (events inject : Bool) (n tail tstep : Nat) : Nat × Nat :=
  if inject then (0, 1)
  else if !events then (add32 tail tstep, 0)
  else
    match Config.tailEvent n with
    | 0 => (add32 tail tstep, 0)
    | 1 => (0, 1)
    | _ => (add32 tail (Config.freeNat n % 2 ^ 32), 0)

/-- Element (i, j) of a pass: its new value and the detected errors (R261). `base` numbers its first slice operation. -/
def streamElem (s : State) (b : Block) (p : Plane) (afmt : Nat) (scaled : Bool) (a stride mb i j base : Nat) (inject : Bool)
    (x : AccTail) : AccTail × Nat :=
  let fid := recFid b.lrec
  let slice := sliced afmt p.desc.fmt fid
  (List.range (p.desc.kb / 32)).foldl (fun (acc : AccTail × Nat) g =>
    let ys := (List.range 32).map fun k => planeElem p j (32 * g + k)
    let st := matStep afmt p.desc.fmt fid (aElems s b afmt a stride i g) ys (aMeta s b scaled mb p.desc.kb i g) (planeMeta p j g)
    let r := tailStep (slice && fid != 0) (slice && inject && g == 0) (base + g) acc.1.tail st.tail
    (⟨add64 acc.1.acc st.acc, r.1⟩, acc.2 + r.2)) (x, 0)

/-- Adds detected errors to a cluster's count, saturating at 48 bits (R277, R302). -/
def State.countDet (s : State) (cl n : Nat) : State :=
  let s := s.countCluster 0x0013 n cl
  let d := s.field .fidErr cl 0 48 + n
  s.setField .fidErr cl 0 48 (if 2 ^ 48 ≤ d then 2 ^ 48 - 1 else d)

/-- An MSTREAM's effect (R261): none unless the block owns an ACTIVE plane of the description checked (R454). -/
def State.streamPass (s : State) (cl : Nat) (b : Block) (op : ArrOp) (afmt : Nat) (scaled : Bool) (a stride mb : Nat)
    (chk : Option PlaneDesc) : State :=
  let p := (s.cluster cl).active
  if p.owner ≠ some b.uid ∨ chk ≠ some p.desc then s
  else
    let t := physTile b op.t
    let groups := p.desc.kb / 32
    let slice := sliced afmt p.desc.fmt (recFid b.lrec)
    let col := s.field .fidInj cl 0 8
    let arm := slice && (s.cluster cl).armed && col < p.desc.nc
    let run := (List.range op.n).foldl (fun (acc : Cluster × Nat) i =>
      (List.range p.desc.nc).foldl (fun (acc : Cluster × Nat) j =>
        let r := streamElem s b p afmt scaled a stride mb i j (s.free + (i * p.desc.nc + j) * groups)
          (arm && i == 0 && j == col) (accGet acc.1 t (op.row0 + i) j)
        (accSet acc.1 t (op.row0 + i) j r.1, acc.2 + r.2)) acc) (s.cluster cl, 0)
    let s := s.modCluster cl fun _ => if arm then { run.1 with armed := false } else run.1
    let s := if arm then s.setField .fidInj cl 30 1 0 else s
    let s : State := if slice then { s with free := s.free + op.n * p.desc.nc * groups } else s
    if run.2 = 0 then s else s.countDet cl run.2

/-! ### Grants (R258, R269, R270) -/

/-- The port of an operation (R269). -/
def portOf (k : ArrKind) : ArrayPort :=
  match k with
  | .mstat .. => .load
  | _ => .stream

/-- A plane is free, or owned by the block. -/
def mayTake (p : Plane) (uid : Nat) : Bool := p.owner.isNone || p.owner == some uid

/-- A head is ready (R258). -/
def headReady (cl : Cluster) (b : Block) (op : ArrOp) : Bool :=
  match op.kind with
  | .mstat .. => b.accts.isEmpty || mayTake cl.shadow b.uid
  | .mswap => b.accts.isEmpty || mayTake cl.active b.uid
  | _ => true

/-- The operation a port is carrying out. -/
def portOp (cl : Cluster) (p : ArrayPort) : Option ArrOp := match p with | .load => cl.load | .stream => cl.stream

/-- The head of an entry, when no port is carrying it out. -/
def freeHead (cl : Cluster) (b : Booking) : Option ArrOp :=
  match b.ops with
  | op :: _ =>
    if (cl.load.map fun x => x.op) == some op.op || (cl.stream.map fun x => x.op) == some op.op then none else some op
  | [] => none

/-- The entries whose head is ready for a port, with their PRIO. -/
def State.readyHeads (s : State) (cl : Nat) (port : ArrayPort) : List (Booking × ArrOp × Nat) :=
  let x := s.cluster cl
  x.book.filterMap fun e =>
    match freeHead x e, s.block? e.blk with
    | some op, some b =>
      if portOf op.kind == port && headReady x b op then some (e, op, recPrio b.lrec) else none
    | _, _ => none

/-- The distance of an entry from the last one granted, for round robin (R270). -/
def afterLast (last slot : Nat) : Nat := (slot + 15 - last) % 16

/-- The least of a list by a measure; the first of equals. -/
def leastBy {α : Type} (m : α → Nat) : List α → Option α
  | [] => none
  | x :: xs =>
    match leastBy m xs with
    | some y => if m y < m x then some y else some x
    | none => some x

/-- Those of a list that meet a rule of preference; all of it where none does. -/
def prefer {α : Type} (p : α → Bool) (xs : List α) : List α :=
  match xs.filter p with
  | [] => xs
  | ys => ys

/-- The head a port grants: 16 grants of equal or lower PRIO seen, then 64 of any class, then the highest PRIO, then round robin
(R270). -/
def choose (last : Nat) (hs : List (Booking × ArrOp × Nat)) : Option (Booking × ArrOp × Nat) :=
  let long := prefer (fun (x : Booking × ArrOp × Nat) => decide (64 ≤ x.1.any))
    (prefer (fun (x : Booking × ArrOp × Nat) => decide (16 ≤ x.1.low)) hs)
  let top := long.foldl (fun m x => max m x.2.2) 0
  leastBy (fun (x : Booking × ArrOp × Nat) => afterLast last x.1.slot) (long.filter fun x => x.2.2 == top)

/-- An entry whose head is not ready counts no grants: it counts anew from when the head becomes ready (R270). -/
def State.recount (s : State) (x : Cluster) (e : Booking) : Booking :=
  match e.ops, s.block? e.blk with
  | op :: _, some b => if headReady x b op then e else { e with low := 0, any := 0 }
  | _, _ => e

/-- The entries of a cluster, once ownership of its planes has changed (R258, R270). -/
def State.unready (s : State) (cl : Nat) : State := s.modCluster cl fun x => { x with book := x.book.map (s.recount x) }

/-- An operation fails: its error is kept with the operation that counts it, and it has no other effect. -/
def State.arrayFail (s : State) (cl : Nat) (op : ArrOp) (code : Nat) (addr : DWord) : State :=
  s.modGroup op.blk op.gid fun g => { g with engs := g.engs.map fun e =>
    if e.id == op.op then
      { e with errs := e.errs ++ [{
          site := e.site, code := code, prec := 2, stat := 0, lanes := e.site.lanes, aux := 0
          addr := addr, eng := BitVec.ofNat 16 (2 * 4096 + cl) }] }
    else e }

/-- The scratch offset of the first row of A, or of its metadata, that a pass reads and that holds an uncorrectable error (R185,
R190, R260). -/
def State.rowsBad (s : State) (b : Block) (n afmt : Nat) (scaled : Bool) (a stride mb kb : Nat) : Option Nat :=
  (List.range n).findSome? fun i =>
    if s.uncorrIn (scrKey b (a + i * stride)) (kb * fmtBits afmt / 8) then some (a + i * stride)
    else if scaled && s.uncorrIn (scrKey b (mb + i * (kb / 16))) (kb / 16) then some (mb + i * (kb / 16))
    else none

/-- An uncorrectable error stands in what an operation reads: accumulators, tails, the ACTIVE plane, rows of A; what its ADDR
holds, the scratch offset of a row of A (R185, R190). -/
def State.arrayBad (s : State) (cl : Nat) (b : Block) (op : ArrOp) : Option Nat :=
  let x := s.cluster cl
  let hit (cols : Nat) : Bool := x.badAcc.any fun k =>
    k / 65536 == physTile b op.t && op.row0 ≤ k / 256 % 256 && k / 256 % 256 < op.row0 + op.n && k % 256 < cols
  match op.kind with
  | .mstream afmt scaled a stride mb chk =>
    if !(x.active.owner == some b.uid && chk == some x.active.desc) then none
    else if x.active.bad || hit x.active.desc.nc then some 0
    else s.rowsBad b op.n afmt scaled a stride mb x.active.desc.kb
  | .mfold | .mdrainScr .. | .mdrainReg .. =>
    if x.badAcc.any fun k => k / 65536 == physTile b op.t && (opElems op).contains (k / 256 % 256, k % 256) then some 0 else none
  | _ => none

/-- MSTAT's load of SHADOW (R256 to R258); when the read fails no plane changes (R452). -/
def State.loadShadow (s : State) (cl : Nat) (b : Block) (op : ArrOp) (ws : Bool) (off : Nat) (d : PlaneDesc) : State :=
  if s.statBad b ws off d then s.arrayFail cl op codeUncorr (BitVec.ofNat 64 off)
  else s.modCluster cl fun x => { x with shadow := { desc := d, owner := some b.uid, img := statImage s b ws off d } }

/-- The load port's operation still waits for the window of a bank (R212). -/
def State.loadWaits (s : State) (cl : Nat) : Bool :=
  let x := s.cluster cl
  x.wsWait && match x.load with
    | some op => (match op.kind, s.block? op.blk with | .mstat _ off d, some b => s.statWaits b off d | _, _ => false)
    | none => false

/-- A read that fails after its window gives back the SHADOW plane that the grant took: no plane changes (R258, R452). -/
def State.giveShadow (s : State) (cl uid : Nat) (took : Bool) : State :=
  s.modCluster cl fun x =>
    if took && x.shadow.owner == some uid then { x with shadow := { x.shadow with owner := none } } else x

/-- The load port's read of the weight store, once no window holds it back: into SHADOW, which its block has owned since the grant
(R212, R258). -/
def State.loadRead (s : State) (cl : Nat) : State :=
  let x := s.cluster cl
  if !x.wsWait then s
  else
    let s := s.modCluster cl fun x => { x with wsWait := false }
    match x.load with
    | some op =>
      match op.kind, s.block? op.blk with
      | .mstat ws off d, some b =>
        if x.shadow.owner != some b.uid then s
        else if s.statBad b ws off d then (s.loadShadow cl b op ws off d).giveShadow cl b.uid x.wsTook
        else s.loadShadow cl b op ws off d
      | _, _ => s
    | none => s

/-- The effect of a granted operation (R258, R261, R266); its errors are kept with the operation that counts it. -/
def State.arrayEffect (s : State) (cl : Nat) (b : Block) (op : ArrOp) : State :=
  let x := s.cluster cl
  match s.arrayBad cl b op with
  | some off => s.arrayFail cl op codeUncorr (BitVec.ofNat 64 off)
  | none =>
  match op.kind with
  | .mstat ws off d =>
    if b.accts.isEmpty then s
    else if ws && !wsAllowed b off (imageBytes d) then s.arrayFail cl op codeAddress (BitVec.ofNat 64 off)
    else if ws && s.statWaits b off d then 
      s.modCluster cl fun x =>
        { x with wsWait := true, wsTook := x.shadow.owner.isNone, shadow := { x.shadow with owner := some b.uid } }
    else s.loadShadow cl b op ws off d
  | .mswap =>
    if !b.accts.isEmpty && x.shadow.owner == some b.uid then
      s.modCluster cl fun x => { x with active := x.shadow, shadow := { x.active with owner := none } }
    else s
  | .mswapRel =>
    let free (p : Plane) : Plane := if p.owner == some b.uid then { p with owner := none } else p
    s.modCluster cl fun x => { x with active := free x.active, shadow := free x.shadow }
  | .mstream afmt scaled a stride mb chk => s.streamPass cl b op afmt scaled a stride mb chk
  | .mfold => s.modCluster cl (foldElems b op)
  | .mzero => s.modCluster cl (zeroElems b op)
  | .mdrainScr fold a stride =>
    let s := if fold then s.modCluster cl (foldElems b op) else s
    let y := s.cluster cl
    let z := op.ty.bytes
    { s with fab := { s.fab with mem := (opElems op).foldl (fun (m : Memory) e =>
        m.setNum (scrKey b (a + (e.1 - op.row0) * stride + (e.2 - 32 * op.cb0) * z)) z (drainCode y b op e.1 e.2)) s.fab.mem } }
  | .mdrainReg fold lop =>
    let s := if fold then s.modCluster cl (foldElems b op) else s
    let y := s.cluster cl
    s.modGroup op.blk op.gid fun g => { g with ops := g.ops.map fun l =>
      if l.id == lop then
        { l with vals := (List.range op.n).foldl (fun m i => (lanesOf op.mask).foldl (fun m k =>
            FMap.put m (32 * i + k) (BitVec.ofNat 64 (drainCode y b op (op.row0 + i) (32 * op.cb0 + k)))) m) [] }
      else l }

/-- BOOKING_GRANT's effect: the chosen head begins, and the other ready heads count the grant (R270). -/
def State.grant (s : State) (cl : Nat) (port : ArrayPort) : State :=
  let x := s.cluster cl
  let hs := s.readyHeads cl port
  if (portOp x port).isSome then s
  else
    match choose (match port with | .load => x.last.1 | .stream => x.last.2) hs with
    | none => s
    | some (e, op, prio) =>
      match s.block? e.blk with
      | none => s
      | some b =>
        let s := s.modCluster cl fun x =>
          let book := x.book.map fun q =>
            if q.slot == e.slot then { q with low := 0, any := 0 }
            else
              match hs.find? fun h => h.1.slot == q.slot with
              | some h => { q with any := q.any + 1, low := if prio ≤ h.2.2 then q.low + 1 else q.low }
              | none => q
          match port with
          | .load => { x with book := book, load := some op, last := (e.slot, x.last.2) }
          | .stream => { x with book := book, stream := some op, last := (x.last.1, e.slot) }
        ((match op.kind with | .mstream .. => s.countCluster 0x000E 1 cl | _ => s).arrayEffect cl b op).unready cl

end Sys2Proof.Machine
end

