-- ==== Sys2Proof/Machine/Hitch.lean ====
section
/-! DEFINITION. HITCH, the register-donation rendezvous (R174 to R176, R478). -/

namespace Sys2Proof.Machine
open Sys2Proof

/-- Partner, count and role of a HITCH: role true is the donor's (R478). -/
def hitchPartner (o : Op) : Nat := (o.imm16.extractLsb' 0 4).toNat
def hitchCount (o : Op) : Nat := 8 * (o.imm16.extractLsb' 8 8).toNat
def hitchDonor (o : Op) : Bool := o.mod == 0

/-- The hitch fault, naming a partner (R185). -/
def hitchFault (c : Cur) (partner : Nat) : FaultInfo :=
  { code := codeHitch, lanes := c.path.mask, aux := BitVec.ofNat 32 partner }

/-- R176 as far as one group can see it; a partner that has ended never arrives. -/
def hitchBad (c : Cur) (o : Op) : Bool :=
  let g := hitchPartner o
  let k := hitchCount o
  k = 0 || 120 < k || g == c.run.gid || g % 4 != c.run.gid % 4
    || (match blockGroup? c.blk g with | some p => p.exited | none => true)
    || c.path.depth != 0 || c.path.mask != 0xFFFFFFFF || c.path.rg != 0
    || (if hitchDonor o then c.grp.w < k + 8 else 128 < c.grp.w + k)

/-- The entries of the bank that segments map, in register order (R155, R175). -/
def segEntries (segs : List (Nat × Nat)) : List Nat := segs.flatMap fun x => (List.range x.2).map (x.1 + ·)

/-- The segments of a list of entries: a run of neighbours is one. -/
def segsOf (es : List Nat) : List (Nat × Nat) :=
  es.foldr (fun e acc =>
    match acc with
    | (a, n) :: rest => if e + 1 = a then (e, n + 1) :: rest else (e, 1) :: (a, n) :: rest
    | [] => [(e, 1)]) []

/-- Donor and recipient after the exchange of k registers (R175). -/
def hitchPair (k : Nat) (d r : Group) : Group × Group :=
  let at_ := d.w - k
  let moved := (d.r.v.filter fun e => 32 * at_ ≤ e.1).map fun e => (e.1 - 32 * at_ + 32 * r.w, e.2)
  let ds := segEntries d.segs
  let wide (x : Nat) : Bool := 32 * at_ ≤ x && x < 4096
  let bad := (d.r.bad.filter wide).map fun x => x - 32 * at_ + 32 * r.w
  ({ d with
      w := at_, segs := segsOf (ds.take at_)
      r := { d.r with v := d.r.v.filter fun e => e.1 < 32 * at_, bad := d.r.bad.filter fun x => !wide x } },
    { r with
      w := r.w + k, segs := segsOf (segEntries r.segs ++ ds.drop at_)
      r := { r.r with v := r.r.v ++ moved, bad := r.r.bad ++ bad } })

/-- Raises the hitch fault in a group parked in HITCH (R176). -/
def State.hitchRaise (s : State) (uid gid : Nat) : State :=
  match s.group? uid gid with
  | none => s
  | some g =>
    match g.park with
    | none => s
    | some k =>
      match s.curOf uid gid k.slotB with
      | some c => raise c (hitchFault c (hitchPartner k.op)) s
      | none => s

/-- The hitch fault in two groups of a block, in ascending `gid` (R198). -/
def State.hitchBoth (s : State) (uid a b : Nat) : State := (s.hitchRaise uid (min a b)).hitchRaise uid (max a b)

/-- What a parked HITCH asks for: the partner, the count and the role. -/
def hitchOf (g : Group) : Option (Nat × Nat × Bool) :=
  match g.park with
  | some k => match k.cond with | .hitch p n d => some (p, n, d) | _ => none
  | none => none

/-- The exchange of two groups that have both arrived and agree, once neither has a pending register; errors that
have reached a group come first (R174, R175, R183). -/
def State.hitchMeet (s : State) (uid gd gr k : Nat) : State :=
  match s.group? uid gd, s.group? uid gr with
  | some d, some r =>
    if pendLive d || pendLive r then s
    else if !d.cands.isEmpty || !r.cands.isEmpty then (s.deliver uid (min gd gr)).deliver uid (max gd gr)
    else
      let x := hitchPair k d r
      if 4 < x.2.segs.length then s.hitchBoth uid gd gr
      else (((s.modGroup uid gd fun _ => x.1).modGroup uid gr fun _ => x.2).finishPark uid gd).finishPark uid gr
  | _, _ => s

/-- A group parked in HITCH looks at its partner (R174 to R176): the exchange, the hitch fault in both when they do not
agree, or the wait goes on. -/
def State.hitchCheck (s : State) (uid gid : Nat) : State :=
  match s.group? uid gid with
  | none => s
  | some g =>
    match hitchOf g with
    | none => s
    | some (p, k, donor) =>
      match s.group? uid p with
      | none => s
      | some q =>
        match hitchOf q with
        | none => s
        | some (p', k', donor') =>
          if p' = gid ∧ k' = k ∧ donor' ≠ donor then
            (if donor then s.hitchMeet uid gid p k else s.hitchMeet uid p gid k)
          else s.hitchBoth uid gid p

/-- The groups of a block whose HITCH names a group. -/
def hitchWaiters (b : Block) (gid : Nat) : List Nat :=
  (b.groups.filter fun g => match hitchOf g with | some (p, _, _) => p == gid | none => false).map fun g => g.gid

/-- A group has arrived in HITCH: it looks at its partner, and whoever waits for it looks at it. -/
def State.hitchArrive (s : State) (uid gid : Nat) : State :=
  match s.block? uid with
  | none => s
  | some b => (hitchWaiters b gid).foldl (fun (s : State) p => s.hitchCheck uid p) (s.hitchCheck uid gid)

/-- The turn after a HITCH that has looked at its partner: it ends where the group parks or faults, or at a seam; where the
exchange has been made, the run goes on (R174, R448). -/
def hitchTurn (c : Cur) (o : Op) (s : State) : State :=
  match s.group? c.run.blk c.run.gid with
  | some g => if g.park.isNone && !g.dead && o.seam == 0 then s.countRun c else s.endTurn c.run.core c.run.part
  | none => s.endTurn c.run.core c.run.part

/-- HITCH (R478): the group parks in it until its partner has come too. -/
def execHitch (o : Op) (s : State) : Host.Outcome State Fault Refusal :=
  issue 0x288 o s
    (fun c => (if hitchBad c o then [hitchFault c (hitchPartner o)] else []) ++ joinFault s c (fallThrough c o))
    fun c s =>
      let cond : ParkCond := .hitch (hitchPartner o) (hitchCount o) (hitchDonor o)
      let s := s.modCur c fun g => { g with park := some { cond := cond, slotB := c.run.slotB, op := o } }
      let s := if c.blk.stop.isSome then s.sendDepotOf c.run.blk c.run.gid else s
      hitchTurn c o (s.hitchArrive c.run.blk c.run.gid)

/-- A group of a block has ended: it leaves the barrier of its block, and a HITCH that names it fails (R176, R439). -/
def State.groupEnded (s : State) (uid gid : Nat) : State :=
  match s.block? uid with
  | none => s
  | some b =>
    match blockGroup? b gid with
    | none => s
    | some g =>
      if g.exited then
        ((hitchWaiters b gid).foldl (fun (s : State) p => s.hitchRaise uid p) s).barBlkCheck uid
      else s

end Sys2Proof.Machine
end

