-- ==== Sys2Proof/Machine/Copy.lean ====
section
/-! DEFINITION. Copies: COPY and COPYR (R459 to R462) and the channels that carry their descriptors out (R214 to R218). -/

namespace Sys2Proof.Machine
open Sys2Proof

/-! ### Logical cores and windows -/

/-- The physical core, numbered over the package, that a die's map gives a logical core (R89); the physical core of the
same number where the map has no valid entry for it (log entry 8). -/
def State.physical (s : State) (die lcore : Nat) : Nat :=
  let e := (s.reg .dspLmap (64 * die + lcore)).toNat
  if e / 2 ^ 31 % 2 = 1 then e / 256 % 4 * 64 + e % 64 else 64 * die + lcore

/-- The window of a core (R216). -/
def State.windowOf (s : State) (core : Nat) : Option Window :=
  (s.cores.windows.find? fun w => w.1 == core).map fun w => w.2

/-- The window a neighbour copy of block b may write: open, and of a block of the same launch (R216). -/
def State.nbrWindow (s : State) (b : Block) (core : Nat) : Option Window :=
  match s.windowOf core with
  | some w =>
    match s.block? w.blk with
    | some q => if q.key == b.key then some w else none
    | none => none
  | none => none

/-! ### Channels (R214, R215, R461) -/

/-- The descriptors of a channel. -/
def State.chanOf (s : State) (core ch : Nat) : List CopyDesc :=
  match s.cores.chans.find? fun x => x.1 == (core, ch) with
  | some x => x.2
  | none => []

/-- Replaces a channel's queue; an empty queue is not listed. -/
def State.setChan (s : State) (core ch : Nat) (q : List CopyDesc) : State :=
  let rest := s.cores.chans.filter fun x => x.1 != (core, ch)
  { s with cores := { s.cores with chans := if q.isEmpty then rest else rest ++ [((core, ch), q)] } }

/-- Changes the descriptor at the head of a channel. -/
def State.modHead (s : State) (core ch : Nat) (f : CopyDesc → CopyDesc) : State :=
  match s.chanOf core ch with
  | d :: ds => s.setChan core ch (f d :: ds)
  | [] => s

/-- The length of the beat a descriptor is at (R215). -/
def beatLen (d : CopyDesc) : Nat := min 64 (d.len - d.done)

/-- The size of the pieces a beat is cut into: an element of COPYR, else four bytes. -/
def pieceLen (d : CopyDesc) : Nat := match d.red with | some r => r.2.bytes | none => 4

/-- An error of a copy: imprecise, with ENGINE (R184, R447). -/
def copyCand (d : CopyDesc) (ch code stat aux : Nat) (addr : DWord) : Cand :=
  { site := d.site, code := code, prec := 2, stat := stat, lanes := d.site.lanes, aux := BitVec.ofNat 32 aux, addr := addr
    eng := BitVec.ofNat 16 (4096 + ch) }

/-- The descriptor at the head fails: nothing beyond is delivered (R184). -/
def State.failHead (s : State) (core ch : Nat) (k : Cand) : State :=
  s.modHead core ch fun d => { d with failed := d.failed ++ [k], req := none }

/-- The bytes still to come of the current beat at a global address: up to the end of its line. -/
def segment (addr : Nat) (left : Nat) : Nat := min left (64 - addr % 64)

/-- Sends the request for the next part of a beat at a global address (R290, R426, R461); `data` are the bytes a write
carries. An address no requester may send fails (R91, R460). While the core's side log is full it takes no copy write: the
channel waits, for as long as an instruction would (R116). -/
def State.sendBeat (s : State) (core ch : Nat) (d : CopyDesc) (va : DWord) (left : Nat) (data : List Byte) : State :=
  if !vaLegal va then s.failHead core ch (copyCand d ch codeAddress 0 0 (s.resolve va))
  else
    let va := s.resolve va
    let n := segment va.toNat left
    let z := pieceLen d
    let line := lineOf va
    let kind : AccKind := if d.kind == .fetch then .copyRd else if d.red.isSome then .reduce else .copyWr
    let aop : AtomOp := match d.red with | some r => r.1 | none => .add
    let ty : Ty := match d.red with | some r => r.2 | none => .n32
    if kind.writes && 256 ≤ (s.sideOf core).length then
      let since := d.stall.getD s.clk.ref
      if s.pftoOver core since then s.failHead core ch (copyCand d ch codeParkto 0 0 va)
      else s.modHead core ch fun d => { d with stall := some since }
    else
      let s := s.sendDepot fun r => r.core == core && r.line == line && ofGroup d.blk d.gid r
      let s := if kind.writes then s.l1Drop core line else s
      let (s, id) := s.send {
        id := 0, kind := kind, aop := aop, ty := ty, core := core, who := .channel core ch, line := line
        parts := (List.range (n / z)).map fun i =>
          { lane := i, va := va + BitVec.ofNat 64 (z * i), size := z
            data := BitVec.ofNat 64 (natOfBytes ((data.drop (z * i)).take z)) }
        srcid := channelSrc core ch, pc := d.site.pc }
      s.modHead core ch fun d => { d with req := some id, stall := none }

/-- The bytes of the issuing block's program scratch a beat takes. -/
def State.copySource (s : State) (d : CopyDesc) (off n : Nat) : List Byte :=
  match s.block? d.blk with
  | some b => s.fab.mem.bytes (scrKey b (d.src.toNat + off)) n
  | none => []

/-- The source of a copy out of scratch or the weight store has an uncorrectable error among the bytes of its beat (R190). -/
def State.sourceBad (s : State) (core : Nat) (d : CopyDesc) : Bool :=
  match d.kind, s.block? d.blk with
  | .fetch, _ => false
  | .weight, _ => s.uncorrIn (spaceKey (wsSpace (core / 64)) (d.src.toNat + d.done)) (beatLen d)
  | _, some b => s.uncorrIn (scrKey b (d.src.toNat + d.done)) (beatLen d)
  | _, none => false

/-- A copy's arrival; an object with an uncorrectable error fails the copy instead (R184, R190). -/
def State.copyArrive (s : State) (core ch : Nat) (d : CopyDesc) (o : Nat) : State :=
  match s.block? d.rblk with
  | some r =>
    if s.uncorrIn (objKey r o) 8 then s.failHead core ch (copyCand d ch codeUncorr 0 0 (BitVec.ofNat 64 o)) else s.arriveAt d.rblk o
  | none => s

/-- After a beat of n bytes: the milestone advances over contiguous bytes, the mirror word follows, and the last byte
makes the arrival (R217, R218, R461). -/
def State.beatDone (s : State) (core ch : Nat) (d : CopyDesc) (n : Nat) : State :=
  let d' := { d with done := d.done + n, data := [], sent := 0, req := none }
  let s := s.modHead core ch fun _ => d'
  let here := d.mark + BitVec.ofNat 32 d.done
  let s := s.modGroup d.blk d.gid fun g =>
    if FMap.get 0 g.miles ch = here then { g with miles := FMap.set 0 g.miles ch (here + BitVec.ofNat 32 n) } else g
  let s := match d.mirror, s.block? d.rblk, s.group? d.blk d.gid with
    | some o, some r, some g =>
      { s with fab := { s.fab with mem := s.fab.mem.setNum (scrKey r o) 4 (FMap.get 0 g.miles ch).toNat } }
    | _, _, _ => s
  match d.bar with
  | some o => if d'.done = d.len then s.copyArrive core ch d' o else s
  | none => s

/-- Delivers a whole beat into scratch. -/
def State.deliverBeat (s : State) (core ch : Nat) (d : CopyDesc) (data : List Byte) : State :=
  match s.block? d.rblk with
  | none => s
  | some r =>
    let s : State := { s with fab := { s.fab with mem := s.fab.mem.setBytes (scrKey r (d.dst.toNat + d.done)) data } }
    s.beatDone core ch d data.length

/-- The bytes an answered read returned. -/
def bytesOfReq (r : Req) : List Byte := (List.zip r.parts r.vals).flatMap fun x => bytesLE x.1.size x.2.toNat

/-- Begins or continues the beat at the head of a channel when no request of it is under way. -/
def State.startBeat (s : State) (core ch : Nat) : State :=
  match s.chanOf core ch with
  | [] => s
  | d :: _ =>
    if !d.failed.isEmpty || d.req.isSome || d.done = d.len || s.haltedChan core ch then s
    else
      match d.kind with
      | .fetch =>
        s.sendBeat core ch d (d.src + BitVec.ofNat 64 (d.done + d.data.length)) (beatLen d - d.data.length) []
      | .spill =>
        let off := d.done + d.sent
        if s.sourceBad core d then s.failHead core ch (copyCand d ch codeUncorr 0 0 (d.src + BitVec.ofNat 64 d.done))
        else s.sendBeat core ch d (d.dst + BitVec.ofNat 64 off) (beatLen d - d.sent) (s.copySource d off (beatLen d - d.sent))
      | .weight =>
        match s.block? d.blk with
        | some b =>
          if wsAllowed b d.src.toNat d.len then s
          else s.failHead core ch (copyCand d ch codeAddress 0 0 d.src)
        | none => s
      | .neighbour => s

/-- An answer of the head's request: bytes of a read, a part of a write done, or a failure (R184, R461). -/
def State.beatAnswer (s : State) (core ch : Nat) (d : CopyDesc) (r : Req) : State :=
  let s := s.dropGot r.id
  match r.phase with
  | .failed stat cause =>
    let slot : Nat := match r.slot with | some k => k + 2 ^ 31 | none => 0
    let discard := s.isDiscard r stat cause
    s.failHead core ch (copyCand d ch (if discard then codeSldiscard else codeOfStat stat)
      (if discard then 0 else s.statOf r stat cause)
      (if r.slot.isSome then slot else if stat = statXlt then cause else 0)
      (match r.parts with | p :: _ => p.va | [] => r.line))
  | _ =>
    match d.kind with
    | .fetch =>
      let data := d.data ++ bytesOfReq r
      if data.length = beatLen d then (s.deliverBeat core ch d data).startBeat core ch
      else (s.modHead core ch fun d => { d with data := data, req := none }).startBeat core ch
    | _ =>
      let n := (r.parts.map fun p => p.size).foldl (· + ·) 0
      if d.sent + n = beatLen d then (s.beatDone core ch d (d.sent + n)).startBeat core ch
      else (s.modHead core ch fun d => { d with sent := d.sent + n, req := none }).startBeat core ch

/-- COPY_BEAT_DELIVER: a channel takes the answer its beat waits for, or delivers a beat that needs none (R215). -/
def State.beat (s : State) (core ch : Nat) : State :=
  match s.chanOf core ch with
  | [] => s
  | d :: _ =>
    if !d.failed.isEmpty || d.done = d.len || s.haltedChan core ch then s
    else if (d.kind == .neighbour || d.kind == .weight) && s.sourceBad core d then
      s.failHead core ch (copyCand d ch codeUncorr 0 0 (d.src + BitVec.ofNat 64 d.done))
    else
      match d.kind, d.req with
      | .neighbour, _ => s.deliverBeat core ch d (s.copySource d d.done (beatLen d))
      | .weight, _ =>
        let off := d.src.toNat + d.done
        if s.wsFree (core / 64) off (beatLen d) then
          s.deliverBeat core ch d (s.fab.mem.bytes (spaceKey (wsSpace (core / 64)) off) (beatLen d))
        else s
      | _, some id =>
        match s.got? id with
        | some r => s.beatAnswer core ch d r
        | none => s
      | _, none => s.startBeat core ch

/-- A descriptor ends: its counter falls, and one that failed leaves its barrier object without its arrival (R184). -/
def State.endCopy (s : State) (d : CopyDesc) : State :=
  let s := s.endEng d.blk d.gid d.op d.failed
  match d.bar with
  | some o =>
    if d.failed.isEmpty then s
    else (s.modGroup d.blk d.gid fun g => { g with unsent := g.unsent ++ [(d.rblk, o)] }).orderedErrors d.rblk o
  | none => s

/-- COPY_DESCRIPTOR_COMPLETE: a finished or failed descriptor leaves its channel, its counter falls in issue order, and
the next one begins; one of length 0 makes its arrival now (R184, R290, R461). -/
def State.descComplete (s : State) (core ch : Nat) : State :=
  match s.chanOf core ch with
  | [] => s
  | d :: _ =>
    if d.failed.isEmpty && d.done != d.len then s
    else
      let s := match d.bar with
        | some o => if d.len = 0 ∧ d.failed.isEmpty then s.copyArrive core ch d o else s
        | none => s
      match s.chanOf core ch with
      | [] => s
      | d :: ds => (((s.setChan core ch ds).endCopy d).startBeat core ch)

/-! ### Issue (R459, R460) -/

/-- The kind of transfer K names (R459). -/
def copyKind (o : Op) : CopyKind :=
  match o.kEng.toNat % 4 with
  | 0 => .fetch
  | 1 => .spill
  | 2 => .neighbour
  | _ => .weight

/-- Source, destination and length as the operands give them. -/
def copySrc (c : Cur) (o : Op) : DWord := if copyKind o == .fetch then pairVal c o.a 0 else BitVec.ofNat 64 (uniNat c o.a)
def copyDst (c : Cur) (o : Op) : DWord := if copyKind o == .spill then pairVal c o.b 0 else BitVec.ofNat 64 (uniNat c o.b)

/-- The element size a copy is aligned to. -/
def copyUnit (red : Bool) (o : Op) : Nat := if red then o.ty.bytes else 4

/-- The offsets D gives: of the mirror word and of the barrier object (R459). -/
def mirrorOff (c : Cur) (o : Op) : Option Nat := if o.kEng.getLsbD 2 then some (8 * (uniNat c o.d % 65536)) else none
def barrierOff (c : Cur) (o : Op) : Option Nat := if o.kEng.getLsbD 3 then some (8 * (uniNat c o.d / 65536)) else none

/-- The physical core a neighbour copy names: a logical core of the die whose map holds the issuer's own core (R3, R216). -/
def nbrCore (s : State) (c : Cur) (o : Op) : Nat := s.physical (s.logical c.blk.core).1 (o.pf 3 6)

/-- SCRBOUND of a range of a landing window of `size` bytes (R216). -/
def winRange (c : Cur) (o : Op) (size : Option Nat) (off n : Nat) : List FaultInfo :=
  let bad := match size with | some w => decide (w < off + n) | none => true
  if bad then [{ code := codeScrbound, lanes := guardedIn c o, addr := BitVec.ofNat 64 off }] else []

/-- Checks of the receiving side: program scratch, or the window of a core of the cluster (R216, R460). -/
def receiveFaults (s : State) (c : Cur) (o : Op) (len : Nat) : List FaultInfo :=
  let dst := (copyDst c o).toNat
  let words (chk : Nat → Nat → List FaultInfo) : List FaultInfo :=
    (match mirrorOff c o with | some m => chk m 8 | none => []) ++ (match barrierOff c o with | some b => chk b 8 | none => [])
  match copyKind o with
  | .spill => []
  | .neighbour =>
    if clusterOf (nbrCore s c o) ≠ clusterOf c.blk.core then
      [{ code := codeAddress, lanes := guardedIn c o, addr := BitVec.ofNat 64 (o.pf 3 6) }]
    else
      let size := (s.nbrWindow c.blk (nbrCore s c o)).map fun w => 64 * w.size
      winRange c o size dst len ++ words (winRange c o size)
  | _ => scrRange c o dst len ++ words (scrRange c o)

/-- The issue checks of a copy (R460). -/
def copyFaults (red : Bool) (s : State) (c : Cur) (o : Op) : List FaultInfo :=
  let z := copyUnit red o
  let len := uniNat c o.c
  misalign c o ((copySrc c o).toNat % z != 0) (copySrc c o).toNat
    ++ misalign c o ((copyDst c o).toNat % z != 0) (copyDst c o).toNat
    ++ misalign c o (len % z != 0) len
    ++ (match copyKind o with
        | .spill | .neighbour => scrRange c o (copySrc c o).toNat len
        | _ => [])
    ++ receiveFaults s c o len ++ countFaults c .copy (guardedIn c o)

/-- The receiving block, and where its scratch receives. -/
def receiver (s : State) (c : Cur) (o : Op) : Nat × Nat :=
  match copyKind o with
  | .neighbour =>
    match s.nbrWindow c.blk (nbrCore s c o) with
    | some w => (w.blk, 64 * w.offs)
    | none => (c.run.blk, 0)
  | _ => (c.run.blk, 0)

/-- Queues a descriptor on channel CH and begins it where the channel is empty; a full queue makes the instruction wait
at issue (R214, R460, R461). -/
def queueCopy (c : Cur) (o : Op) (red : Option (AtomOp × Ty)) (s : State) : State :=
  let core := c.blk.core
  let ch := o.pf 0 3
  let q := s.chanOf core ch
  if 16 ≤ q.length then stallAt c s
  else
    let len := uniNat c o.c
    let r := receiver s c o
    let site := siteOf s c (guardedIn c o)
    let (s, id) := s.beginEng c .copy (guardedIn c o)
    let d : CopyDesc := {
      op := id, blk := c.run.blk, gid := c.run.gid, kind := copyKind o, src := copySrc c o
      dst := if copyKind o == .spill then copyDst c o else copyDst c o + BitVec.ofNat 64 r.2
      len := len, rblk := r.1, mirror := (mirrorOff c o).map (· + r.2), bar := (barrierOff c o).map (· + r.2), red := red
      mark := FMap.get 0 c.grp.queued ch, site := site }
    let s := s.modCur c fun g =>
      { g with queued := FMap.set 0 g.queued ch (FMap.get 0 g.queued ch + BitVec.ofNat 32 len) }
    finish c o ((s.setChan core ch (q ++ [d])).startBeat core ch)

/-- A copy that writes global memory waits at issue while the core's side log is full (R116). -/
def copyRoom (c : Cur) (o : Op) (eff : State → State) (s : State) : State :=
  if copyKind o == .spill then unlessFull c (guardedIn c o) (copyDst c o) eff s else eff s

/-- COPY (R459 to R461). -/
def execCopy (o : Op) (s : State) : Host.Outcome State Fault Refusal :=
  issueEngine 0x218 o s (fun c => copyFaults false s c o) fun c s => afterAcquires c (copyRoom c o (queueCopy c o none)) s

/-- The operator ROP names (R459). -/
def copyRop (o : Op) : AtomOp := match o.pf 9 2 with | 0 => .add | 1 => .min | _ => .max

/-- COPYR (R462). -/
def execCopyr (o : Op) (s : State) : Host.Outcome State Fault Refusal :=
  issueEngine 0x219 o s (fun c => copyFaults true s c o) fun c s =>
    afterAcquires c (copyRoom c o (queueCopy c o (some (copyRop o, o.ty)))) s

end Sys2Proof.Machine
end

