-- ==== Sys2Proof/Machine/Image.lean ====
section
/-! DEFINITION. The context save image (R193, R194, R271, R468): its layout, writing it to the save pool and reading it
back. -/

namespace Sys2Proof.Machine
open Sys2Proof

/-- A field of an image: its offset, its bytes, its value. -/
abbrev ImgField := Nat × Nat × Nat

/-- n rounded up to whole units of 128 bytes (R193). -/
def up128 (n : Nat) : Nat := (n + 127) / 128 * 128

/-- The registers of MUSE, ascending. -/
def museList (muse : BitVec 8) : List Nat := (List.range 8).filter fun n => muse.getLsbD n

/-- Bytes of a group area: header, ordinals, `m` images, `v`, affine and uniform registers within the budget (R194,
R200). -/
def areaBytes (g : Group) : Nat := up128 (768 + 3072 * (museList g.r.muse).length + 128 * g.w + 8 * g.n)

/-- Where the group areas begin, one after another, and where the last ends. -/
def areaStarts (gs : List Group) : List Nat := (gs.foldl (fun (acc : List Nat × Nat) g => (acc.1 ++ [acc.2], acc.2 + areaBytes g)) ([], 256)).1
def areaEnd (gs : List Group) : Nat := gs.foldl (fun a g => a + areaBytes g) 256

/-- Bytes of a block's scratch image: program scratch and divergence stacks (R193). -/
def scratchBytes (b : Block) : Nat := b.scr + b.groups.length * b.divs * 256

/-- Bytes of one accumulator tile with its tail tile, and of one plane image (R193, R271). -/
def tileImage : Nat := 524288 + 262144
def planeImage : Nat := 184320

/-- The offsets of the parts of a block's image: scratch, tiles, planes, and the whole size (R193). -/
def imgScratch (b : Block) : Nat := areaEnd b.groups
def imgTiles (b : Block) : Nat := up128 (imgScratch b + scratchBytes b)
def imgPlanes (b : Block) : Nat := imgTiles b + tileImage * b.accts.length
def imgSize (b : Block) : Nat := imgPlanes b + (if b.mstat then 2 * planeImage else 0)

/-! ### Writing -/

/-- The fields of a path slot at an offset (R194). -/
def slotFields (off : Nat) (p : Option Path) : List ImgField :=
  match p with
  | none => []
  | some p =>
    let hw := min p.rg 4
    let hr := min p.rc 3
    [(off, 8, p.pc.toNat), (off + 8, 4, p.mask.toNat), (off + 12, 2, p.depth), (off + 14, 1, 1), (off + 15, 1, hw), (off + 32, 1, hr)]
      ++ ((List.range hw).map fun i => (off + 16 + 4 * i, 4, (p.fx.getD i 0).toNat))
      ++ (List.range hr).map fun i => (off + 40 + 8 * i, 8, (p.rets.getD i 0).toNat)

/-- The loop-buffer state of a group: slot A's path first (R468). -/
def loopFields (off : Nat) (g : Group) : List ImgField :=
  let of (p : Option Path) : Option LoopBuf := match p with | some p => p.loop | none => none
  match (of g.pa).or (of g.pb) with
  | some lb => [(off, 8, lb.pc.toNat), (off + 8, 4, lb.trip), (off + 12, 1, lb.place), (off + 13, 1, 1), (off + 16, 4, lb.stride.toNat)]
  | none => []

/-- The fields of a group area at an offset (R194). -/
def groupFields (off : Nat) (g : Group) : List ImgField :=
  let ms := museList g.r.muse
  let vs := off + 768 + 3072 * ms.length
  let as_ := vs + 128 * g.w
  [(off, 2, g.gid), (off + 2, 1, g.role), (off + 3, 1, g.arrA.toNat + 2 * g.arrB.toNat), (off + 4, 2, g.w), (off + 6, 2, g.n)
    , (off + 28, 1, g.r.muse.toNat)
    , (off + 24, 4, g.cnt.copy % 64 + 64 * (g.cnt.arr % 64) + 4096 * (g.cnt.qmu % 64) + 262144 * (g.cnt.nest % 64))]
    ++ ((List.range (min 4 g.segs.length)).map fun i =>
        let x := g.segs.getD i (0, 0)
        (off + 8 + 4 * i, 4, x.1 + 65536 * x.2))
    ++ slotFields (off + 64) g.pa ++ slotFields (off + 128) g.pb
    ++ ((List.range 7).map fun i => (off + 192 + 4 * i, 4, (FMap.get 0 g.r.p i).toNat))
    ++ ((List.range 8).map fun i => (off + 224 + 8 * i, 8, (FMap.get 0 g.r.t i).toNat))
    ++ loopFields (off + 288) g
    ++ ((List.range 32).map fun l => (off + 512 + 8 * l, 8, (FMap.get 0 g.ord l).toNat))
    ++ ((List.range ms.length).flatMap fun i =>
        let n := ms.getD i 0
        (List.range 256).flatMap fun x =>
          [(off + 768 + 3072 * i + 8 * x, 8, (FMap.get 0 g.r.macc (256 * n + x)).toNat)
            , (off + 768 + 3072 * i + 2048 + 4 * x, 4, (FMap.get 0 g.r.mtail (256 * n + x)).toNat)])
    ++ ((List.range (32 * g.w)).map fun x => (vs + 4 * x, 4, (FMap.get 0 g.r.v x).toNat))
    ++ ((List.range (g.n / 2)).map fun x => (as_ + 8 * x, 8, (FMap.get 0 g.r.a x).toNat))
    ++ (List.range g.n).map fun x => (as_ + 4 * g.n + 4 * x, 4, (FMap.get 0 g.r.s x).toNat)

/-- The block header (R193). -/
def headerFields (s : State) (b : Block) (start : Nat) : List ImgField :=
  let gs := areaStarts b.groups
  [(0, 4, 0x56534B47), (4, 2, 1), (6, 1, b.groups.length), (7, 1, b.accts.length + (if b.mstat then 8 else 0)), (8, 8, b.tile)
    , (16, 8, start), (24, 2, b.key.pod), (26, 6, b.key.seq), (32, 8, imgSize b), (40, 8, b.lrec.res.toNat)
    , (192, 8, imgScratch b), (200, 8, if b.accts.isEmpty then 0 else imgTiles b), (208, 8, if b.mstat then imgPlanes b else 0)]
    ++ ((List.range gs.length).map fun i => (64 + 8 * i, 8, gs.getD i 0))
    ++ (List.range (scratchBytes b)).map fun i => (imgScratch b + i, 1, (s.fab.mem.byte (scrKey b i)).toNat)

/-- The fields of the held accumulator tiles (R193). -/
def tileFields (cl : Cluster) (b : Block) : List ImgField :=
  (List.range b.accts.length).flatMap fun k =>
    let t := b.accts.getD k 0
    (List.range 65536).flatMap fun x =>
      [(imgTiles b + tileImage * k + 8 * x, 8, (FMap.get 0 cl.acc (65536 * t + x)).toNat)
        , (imgTiles b + tileImage * k + 524288 + 4 * x, 4, (FMap.get 0 cl.tail (65536 * t + x)).toNat)]

/-- The fields of one plane image at an offset; a plane the block does not own is zeros (R271). -/
def planeFields (b : Block) (off : Nat) (p : Plane) : List ImgField :=
  if p.owner ≠ some b.uid then []
  else
    let d := p.desc
    let part (start per src n : Nat) : List ImgField :=
      (List.range (256 * n)).map fun i => (off + start + per * (i / n) + i % n, 1, (p.img.getD (src + i) 0).toNat)
    [(off, 1, d.fmt), (off + 1, 1, d.meta_.toNat + 2 * d.sparse.toNat + 4), (off + 2, 2, d.kb), (off + 4, 2, d.nc)]
      ++ part 4096 512 0 (colBytes d)
      ++ (if d.meta_ then part 135168 128 (metaStart d) (d.kb / 16) else [])
      ++ (if d.sparse then part 167936 64 (sparseStart d) (d.kb / (8 * fmtSlot d.fmt)) else [])

/-- Every field of a block's image that may differ from zero. -/
def imageFields (s : State) (b : Block) (start : Nat) : List ImgField :=
  let cl := s.cluster (clusterOf b.core)
  headerFields s b start
    ++ ((List.zip (areaStarts b.groups) b.groups).flatMap fun x => groupFields x.1 x.2)
    ++ tileFields cl b
    ++ (if b.mstat then planeFields b (imgPlanes b) cl.active ++ planeFields b (imgPlanes b + planeImage) cl.shadow else [])

/-- What writing to the pool comes to. -/
inductive PoolWrite where
  | ok (s : State)
  /-- a page of the slot is absent -/
  | wait (page : DWord) (cause : Nat)
  /-- the first address that cannot be written -/
  | fail (va : DWord)
  deriving DecidableEq, Repr

/-- The pages of 4 KiB from an address over n bytes. -/
def poolPages (va : DWord) (n : Nat) : List DWord :=
  (List.range (n / 4096 + if n % 4096 = 0 then 0 else 1)).map fun i => va + BitVec.ofNat 64 (4096 * i)

/-- The key of a byte of the save pool, where its page may be accessed. -/
def State.poolKey (s : State) (k : AccKind) (va : DWord) : Option Nat :=
  match s.check (homeOf va) k va with
  | .ok key _ _ _ _ => some key
  | _ => none

/-- The first page of a slot that is absent, with its cause, or that fails: its check, or a line with an error. -/
def State.poolCheck (s : State) (k : AccKind) (va : DWord) (n : Nat) : Option (DWord × Option Nat) :=
  (poolPages va n).findSome? fun p =>
    if !vaLegal p || !s.isOwn p then some (p, none)
    else
      match s.check (homeOf p) k p with
      | .ok key _ _ _ _ => if s.uncorrIn key (min 4096 (va.toNat + n - p.toNat)) then some (p, none) else none
      | .absent cause => some (p, some cause)
      | .fail _ _ => some (p, none)

/-- A page of the pool is absent: the home posts its record (R112, R494). -/
def State.poolAbsent (s : State) (k : AccKind) (core : Nat) (va : DWord) (cause : Nat) : State :=
  s.postAbsent (homeOf va) { id := 0, kind := k, core := core, who := .unit 0 0, line := va, parts := [], srcid := relaySrc } cause

/-- The pages of a slot gather their bits (R105). -/
def State.poolGather (s : State) (k : AccKind) (core : Nat) (va : DWord) (n : Nat) : State :=
  (poolPages va n).foldl (fun (s : State) p =>
    match s.check (homeOf p) k p with
    | .ok _ e size die addr =>
      let t := s.entryFor (homeOf p) p e size die addr
      (s.cacheLeaf t).gather t (gathered k (some (core / 64)) false)
    | _ => s) s

/-- An uncorrectable error stands in what a save would write: it is never delivered as data (R190, log entry 107). -/
def State.imageBad (s : State) (b : Block) : Bool :=
  let cl := s.cluster (clusterOf b.core)
  (b.groups.any fun g => !g.r.bad.isEmpty) || s.uncorrIn (scrKey b 0) (scratchBytes b)
    || (cl.badAcc.any fun k => b.accts.contains (k / 65536))
    || (cl.active.owner == some b.uid && cl.active.bad) || (cl.shadow.owner == some b.uid && cl.shadow.bad)

/-- Writes one field of an image. -/
def State.poolPut (s : State) (va : DWord) (f : ImgField) : State :=
  match s.poolKey .store (va + BitVec.ofNat 64 f.1) with
  | some key => { s with fab := { s.fab with mem := s.fab.mem.setNum key f.2.1 f.2.2 } }
  | none => s

/-- Writes a block's image into its slot, zeros first (R178, R193). -/
def State.writeImage (s : State) (b : Block) (start : Nat) (va : DWord) : PoolWrite :=
  match s.poolCheck .store va (imgSize b) with
  | some (p, some cause) => .wait p cause
  | some (p, none) => .fail p
  | none =>
    if s.imageBad b then .fail va
    else
    let fs := imageFields s b start
    let zero := (List.range (imgSize b / 8)).map fun i => ((8 * i, 8, 0) : ImgField)
    .ok ((zero ++ fs).foldl (fun (s : State) f => s.poolPut va f) (s.poolGather .store b.core va (imgSize b)))

/-! ### Reading back (R195, R196) -/

/-- A number of the image. -/
def State.poolNum (s : State) (va : DWord) (off n : Nat) : Nat :=
  match s.poolKey .load (va + BitVec.ofNat 64 off) with
  | some key => s.fab.mem.num key n
  | none => 0

/-- A map from numbers of the image: entry i at an offset. -/
def State.poolMap {w : Nat} (s : State) (va : DWord) (off n count : Nat) (keyOf : Nat → Nat) (m : FMap (BitVec w)) : FMap (BitVec w) :=
  (List.range count).foldl (fun m i => FMap.set 0 m (keyOf i) (BitVec.ofNat w (s.poolNum va (off + n * i) n))) m

/-- Frames of a saved group's stack in the image: a field of frame f. -/
def State.imgFrame (s : State) (va : DWord) (b : Block) (gid f off n : Nat) : Nat :=
  s.poolNum va (imgScratch b + b.scr + gid * b.divs * 256 + 32 * (f - 1) + off) n

/-- A path slot of the image; region and return counts above the hardware's come from the frames (R365, R366). -/
def State.readSlot (s : State) (va : DWord) (b : Block) (gid off : Nat) (loop : Option LoopBuf) : Option Path :=
  let num := s.poolNum va
  if num (off + 14) 1 = 0 then none
  else
    let depth := num (off + 12) 2
    let hw := num (off + 15) 1
    let hr := num (off + 32) 1
    let kind (f : Nat) : Nat := s.imgFrame va b gid f 26 1
    let base := frameBelow (fun f => kind f == 4) depth
    let reg := frameBelow (fun f => kind f == 1) depth
    let rg := if hw = 4 ∧ base < reg then s.imgFrame va b gid reg 12 2 else hw
    let deep := ((List.range depth).filter fun i => kind (i + 1) == 5).length
    some {
      pc := BitVec.ofNat 64 (num off 8), mask := BitVec.ofNat 32 (num (off + 8) 4), depth := depth, rg := rg
      fx := (List.range hw).map fun i => BitVec.ofNat 32 (num (off + 16 + 4 * i) 4)
      rc := if hr < 3 then hr else 3 + deep
      rets := (List.range hr).map fun i => BitVec.ofNat 64 (num (off + 40 + 8 * i) 8)
      lastRun := s.cores.runSeq, loop := loop }

/-- A group's loop buffer as the image gives it; its body, trip count and selectors are to be decoded again (R468). -/
def State.readLoop (s : State) (va : DWord) (off : Nat) : Option LoopBuf :=
  if s.poolNum va (off + 13) 1 % 2 = 1 then
    some {
      pc := BitVec.ofNat 64 (s.poolNum va off 8), trips := 0, trip := s.poolNum va (off + 8) 4, place := s.poolNum va (off + 12) 1
      body := [], stride := BitVec.ofNat 32 (s.poolNum va (off + 16) 4), sel := 0, stale := true }
  else none

/-- The registers of a group area (R194). -/
def State.readRegs (s : State) (va : DWord) (off w n : Nat) : Regs :=
  let muse : BitVec 8 := BitVec.ofNat 8 (s.poolNum va (off + 28) 1)
  let ms := museList muse
  let vs := off + 768 + 3072 * ms.length
  let as_ := vs + 128 * w
  let at_ (i : Nat) : Nat := off + 768 + 3072 * i
  { v := s.poolMap va vs 4 (32 * w) id []
    a := s.poolMap va as_ 8 (n / 2) id []
    s := s.poolMap va (as_ + 4 * n) 4 n id []
    p := s.poolMap va (off + 192) 4 7 id []
    t := s.poolMap va (off + 224) 8 8 id []
    macc := (List.range ms.length).foldl (fun m i => s.poolMap va (at_ i) 8 256 (256 * ms.getD i 0 + ·) m) []
    mtail := (List.range ms.length).foldl (fun m i => s.poolMap va (at_ i + 2048) 4 256 (256 * ms.getD i 0 + ·) m) []
    muse := muse }

/-- A group restored from its area bit for bit; a waiting instruction is executed anew (R195). -/
def State.readGroup (s : State) (va : DWord) (b : Block) (off : Nat) (g : Group) : Group :=
  let num := s.poolNum va
  let w := num (off + 4) 2
  let n := num (off + 6) 2
  let bits := num (off + 3) 1
  let cnt := num (off + 24) 4
  let looped (p : Option Path) : Bool := p.any fun p => p.loop.isSome
  let loop := s.readLoop va (off + 288)
  { g with
    role := num (off + 2) 1, w := w, n := n
    segs := ((List.range 4).map fun i => (num (off + 8 + 4 * i) 2, num (off + 10 + 4 * i) 2)).filter fun x => x.2 != 0
    r := s.readRegs va off w n
    cnt := { copy := cnt % 64, arr := cnt / 64 % 64, qmu := cnt / 4096 % 64, nest := cnt / 262144 % 64 }
    ord := s.poolMap va (off + 512) 8 32 id []
    pa := s.readSlot va b g.gid (off + 64) (if looped g.pa || !looped g.pb then loop else none)
    pb := s.readSlot va b g.gid (off + 128) (if looped g.pa || !looped g.pb then none else loop)
    arrA := bits % 2 == 1, arrB := bits / 2 % 2 == 1
    park := none, pend := [], stopped := false, lastRun := s.cores.runSeq, lastRef := s.clk.ref }

/-- The entries of segments: their number and their ends lie within the bank, and they hold W registers (R155, R175). -/
def segsOk (segs : List (Nat × Nat)) (w : Nat) : Bool :=
  segs.length ≤ 4 && segs.all (fun x => x.1 + x.2 ≤ 1024) && segs.foldl (fun n x => n + x.2) 0 == w

/-- The checks of R196 on an image in a slot. -/
def State.imageOk (s : State) (va : DWord) (b : Block) (start units : Nat) : Bool :=
  let num := s.poolNum va
  (s.poolCheck .load va (imgSize b)).isNone
    && num 0 4 == 0x56534B47 && num 4 2 == 1 && num 8 8 == b.tile && num 16 8 == start && num 24 2 == b.key.pod
    && num 26 6 == b.key.seq && num 32 8 == imgSize b && num 32 8 ≤ units * 65536 && num 40 8 == b.lrec.res.toNat
    && (List.zip (areaStarts b.groups) b.groups).all fun x =>
        let w := num (x.1 + 4) 2
        let segs := ((List.range 4).map fun i => (num (x.1 + 8 + 4 * i) 2, num (x.1 + 10 + 4 * i) 2)).filter fun x => x.2 != 0
        w % 8 == 0 && 8 ≤ w && w ≤ 128 && w == x.2.w && segsOk segs w

/-- A plane as the image holds it. -/
def State.readPlane (s : State) (va : DWord) (b : Block) (off : Nat) : Plane :=
  let num := s.poolNum va
  let flags := num (off + 1) 1
  let d : PlaneDesc := {
    fmt := num off 1, meta_ := flags % 2 == 1, sparse := flags / 2 % 2 == 1, kb := num (off + 2) 2, nc := num (off + 4) 2 }
  let part (start per n : Nat) : List Byte := (List.range (256 * n)).map fun i => BitVec.ofNat 8 (num (off + start + per * (i / n) + i % n) 1)
  { desc := d, owner := some b.uid
    img := part 4096 512 (colBytes d) ++ (if d.meta_ then part 135168 128 (d.kb / 16) else [])
      ++ (if d.sparse then part 167936 64 (d.kb / (8 * fmtSlot d.fmt)) else []) }

/-- The image says that the block owns its plane k (0 active, 1 shadow). -/
def State.imgOwns (s : State) (va : DWord) (b : Block) (k : Nat) : Bool :=
  b.mstat && s.poolNum va (imgPlanes b + planeImage * k + 1) 1 / 4 % 2 == 1

/-- Restores scratch, tiles and planes of a block that has been placed again (R195, R205, R271). -/
def State.readPlaces (s : State) (va : DWord) (old b : Block) : State :=
  let mem := (List.range (scratchBytes b)).foldl (fun (m : Memory) i =>
    m.setByte (scrKey b i) (BitVec.ofNat 8 (s.poolNum va (imgScratch old + i) 1))) s.fab.mem
  let tile (acc : Cluster) (k : Nat) : Cluster :=
    let t := b.accts.getD k 0
    { acc with
      acc := s.poolMap va (imgTiles old + tileImage * k) 8 65536 (65536 * t + ·) acc.acc
      tail := s.poolMap va (imgTiles old + tileImage * k + 524288) 4 65536 (65536 * t + ·) acc.tail }
  let planes (c : Cluster) : Cluster :=
    let c := if s.imgOwns va old 0 then { c with active := s.readPlane va b (imgPlanes old) } else c
    if s.imgOwns va old 1 then { c with shadow := s.readPlane va b (imgPlanes old + planeImage) } else c
  ({ s with fab := { s.fab with mem := mem } }).modCluster (clusterOf b.core) fun c =>
    planes ((List.range b.accts.length).foldl tile c)

end Sys2Proof.Machine
end

