-- ==== Sys2Proof/Machine/System.lean ====
section
/-! DEFINITION. Control values and features: RDSR, WRSR and FEAT (R479 to R481), and the landing window (R216). -/

namespace Sys2Proof.Machine
open Sys2Proof

/-- WSWIN of a die (R213): WLEN, PERIOD and PHASE. -/
def State.wsWin (s : State) (die : Nat) : Nat := s.wsLen die * 2 ^ 24 + wsPeriod * 2 ^ 12 + s.clk.ref % wsPeriod

/-- LWIN as a block reads it (R216). -/
def State.lwin (s : State) (b : Block) : Nat :=
  match s.windowOf b.core with
  | some w => if w.blk = b.uid then 2 ^ 31 + w.size * 2 ^ 16 + w.offs else 0
  | none => 0

/-- The value of a name (R480). -/
def srValue (s : State) (c : Cur) (n : Nat) : Nat :=
  let core := c.blk.core
  let r := c.blk.lrec
  let xs := coord r (c.blk.tile - r.lbase.toNat)
  match n with
  | 0x000 => s.clk.gt % 2 ^ 64
  | 0x001 => s.clk.ref % 2 ^ 64
  | 0x002 => (s.logical core).2
  | 0x003 => core % 64
  | 0x004 => core / 64
  | 0x005 => s.own
  | 0x006 => recFid r
  | 0x007 => s.wsWin (core / 64)
  | 0x008 => (s.reg .fidErr (clusterOf core)).toNat % 2 ^ 32
  | 0x009 => c.grp.role
  | 0x00A => r.arg.toNat % 2 ^ 32
  | 0x00B => r.arg.toNat / 2 ^ 32
  | 0x00C => c.blk.tile % 2 ^ 32
  | 0x00D => c.blk.tile / 2 ^ 32 % 2 ^ 16
  | 0x020 => s.lwin c.blk
  | _ =>
    if 0x010 ≤ n ∧ n ≤ 0x014 then xs.getD (n - 0x010) 0
    else if 0x018 ≤ n ∧ n ≤ 0x01C then xs.getD (n - 0x018) 0 * recTsh r (n - 0x018) % 2 ^ 32
    else 0

/-- RDSR (R479). -/
def execRdsr (o : Op) (s : State) : Host.Outcome State Fault Refusal :=
  issueLanes 0x290 o s (match srName o.imm16.toNat with | some (w, _) => w | none => false) noAff
    fun c _ => srValue s c o.imm16.toNat

/-- SIZE and OFFS of a value written to LWIN (R216). -/
def winSize (v : Word) : Nat := (v.extractLsb' 16 13).toNat
def winOffs (v : Word) : Nat := (v.extractLsb' 0 13).toNat

/-- Another block owns the core's window. -/
def State.winTaken (s : State) (b : Block) : Bool :=
  match s.windowOf b.core with
  | some w => w.blk != b.uid
  | none => false

/-- SCRBOUND of a window that runs past the writer's program scratch. -/
def lwinFaults (s : State) (c : Cur) (o : Op) : List FaultInfo :=
  let v := laneVal c o.a 0
  if s.winTaken c.blk then [] else scrRange c o (64 * winOffs v) (64 * winSize v)

/-- A copy into a block's window has not completed. -/
def State.winBusy (s : State) (uid : Nat) : Bool :=
  s.cores.chans.any fun x => x.2.any fun d => d.kind == .neighbour && d.rblk == uid

/-- Closes the window of a core. -/
def State.closeWindow (s : State) (core : Nat) : State :=
  { s with cores := { s.cores with windows := s.cores.windows.filter fun w => w.1 != core } }

/-- The effect of an accepted write to LWIN. -/
def State.setWindow (s : State) (b : Block) (v : Word) : State :=
  let s := s.closeWindow b.core
  if winSize v = 0 then s
  else
    let w : Window := { blk := b.uid, offs := winOffs v, size := winSize v }
    { s with cores := { s.cores with windows := s.cores.windows ++ [(b.core, w)] } }

/-- WRSR (R479), of LWIN, its one writable name: a change of an open window waits for the copies into it (R216). -/
def execWrsr (o : Op) (s : State) : Host.Outcome State Fault Refusal :=
  issueWhole 0x291 o s (fun c => lwinFaults s c o) fun c s =>
    if s.winTaken c.blk then finish c o s
    else if s.winBusy c.run.blk then parkAt c o .window s
    else finish c o (s.setWindow c.blk (laneVal c o.a 0))

/-- A group that waits to change its window goes on once no copy into it is under way (R216). -/
def State.windowRetry (s : State) (uid : Nat) : State :=
  match s.block? uid with
  | none => s
  | some b =>
    if s.winBusy uid then s
    else
      b.groups.foldl (fun (s : State) g =>
        match g.park with
        | some k =>
          match k.cond, s.curOf uid g.gid k.slotB with
          | .window, some c => (s.setWindow c.blk (laneVal c k.op.a 0)).finishPark uid g.gid
          | _, _ => s
        | none => s) s

/-- FEAT (R481). -/
def execFeat (o : Op) (s : State) : Host.Outcome State Fault Refusal :=
  issueLanes 0x292 o s true noAff fun c _ => (Config.featMask (c.run.core / 64)).toNat

end Sys2Proof.Machine
end

