-- ==== Sys2Proof/Machine/Unit.lean ====
section
/-! DEFINITION. Steps that follow at once, and accesses of the I/O dies' agents: the relays, the queue engine, the
firmware and the engines of Yeleno commands (R494, R495). -/

namespace Sys2Proof.Machine
open Sys2Proof

/-- Appends a turn (log entry 2). -/
def State.post (s : State) (i : Instr) (x : Input) : State := { s with agenda := s.agenda ++ [.event i x] }

/-- Writes bytes whose answers nobody waits for; an address no requester may send is not sent. The numbers of the
requests. -/
def State.unitWrite (s : State) (src : BitVec 16) (va : DWord) (bs : List Byte) (rel : Option Nat) (deps : List Nat) :
    State × List Nat :=
  if !vaLegal va then (s, [])
  else
    (lineChunks va bs bs.length).foldl (fun (acc : State × List Nat) c =>
      let (s, id) := acc.1.unitSend 0 0 src .store c.1 c.2 deps rel
      (s, acc.2 ++ [id])) (s, [])

/-- A read of n bytes of one line. -/
def State.unitRead (s : State) (purpose arg : Nat) (src : BitVec 16) (va : DWord) (n : Nat) : State × Nat :=
  s.unitSend purpose arg src .load va (List.replicate n 0) [] none

/-- What a unit's access has come to. -/
inductive UnitAns where
  | wait
  | ok (bytes : List Byte)
  | fail (stat cause : Nat)
  deriving DecidableEq, Repr

/-- The answer to a unit's request, if it has come. -/
def State.unitAns (s : State) (id : Nat) : UnitAns :=
  match s.got? id with
  | none => .wait
  | some r =>
    match r.phase with
    | .failed st ca => .fail st ca
    | _ => .ok (bytesOfReq r)

end Sys2Proof.Machine
end

