-- ==== Sys2Proof/Machine/Relay.lean ====
section
/-! DEFINITION. Launches at their issuer's package relay and at their pod relay (R125, R133 to R151): requests, identifier
entries, reserve, commit, completion and cancellation. -/

namespace Sys2Proof.Machine
open Sys2Proof

/-! ### Access to the tables -/

def State.modLau (s : State) (f : Launches → Launches) : State := { s with lau := f s.lau }

def State.pod? (s : State) (seq : Nat) : Option PodLaunch := s.lau.pods.find? fun p => p.seq == seq

def State.modPod (s : State) (seq : Nat) (f : PodLaunch → PodLaunch) : State :=
  s.modLau fun l => { l with pods := l.pods.map fun p => if p.seq == seq then f p else p }

def State.pkgLaunch? (s : State) (key : LaunchId) : Option PkgLaunch := s.lau.pkgs.find? fun p => p.key == key

def State.modPkg (s : State) (key : LaunchId) (f : PkgLaunch → PkgLaunch) : State :=
  s.modLau fun l => { l with pkgs := l.pkgs.map fun p => if p.key == key then f p else p }

def State.launchReq? (s : State) (id : Nat) : Option LaunchReq := s.lau.reqs.find? fun r => r.id == id

def State.modLaunchReq (s : State) (id : Nat) (f : LaunchReq → LaunchReq) : State :=
  s.modLau fun l => { l with reqs := l.reqs.map fun r => if r.id == id then f r else r }

/-- A launch's key here. -/
def State.keyOf (s : State) (seq : Nat) : LaunchId := { pod := s.own, seq := seq }

/-- The dies of a job's partitions (R85). -/
def State.jobDies (s : State) (job : Nat) : BitVec 4 :=
  s.lau.parts.foldl (fun (m : BitVec 4) p => if p.2.1 == job then m ||| p.2.2.1 else m) 0

/-- The dies a record uses on this package: DMASK, or every die of its job's partition (R123). -/
def State.launchDies (s : State) (r : LaunchRec) : BitVec 4 :=
  if recDmask r = 0 then s.jobDies (recJob r) else recDmask r

/-- The record's power class names a valid row of this package's table (R45). -/
def State.classValid (s : State) (r : LaunchRec) : Bool := s.th.rows.any fun x => x.1 == recPclass r

/-- The cluster's clock is gated (R55), or its die's VCL has been removed (R56). -/
def State.isGated (s : State) (cl : Nat) : Bool := s.field .clkClf cl 30 1 == 1 || s.th.dark.contains (cl / 16)

/-! ### Identifier entries (R148) -/

/-- The entries a launch needs, as (kind, identifier). -/
def identsOf (r : LaunchRec) : List (Nat × Nat) :=
  ([(1, r.graph.toNat), (2, r.phase.toNat)].filter fun x => x.2 != 0) ++ [(3, recJob r)]

/-- Joins or takes one entry; nothing when the table is full. -/
def joinIdent (es : List Ident) (x : Nat × Nat) : Option (List Ident) :=
  if es.any fun e => e.kind == x.1 && e.ident == x.2 then
    some (es.map fun e => if e.kind == x.1 && e.ident == x.2 then { e with opens := e.opens + 1 } else e)
  else if es.length < 1024 then some (es ++ [{ kind := x.1, ident := x.2, opens := 1, faults := 0, users := 0 }])
  else none

/-- Joins all of a launch's entries, or none. -/
def joinIdents (es : List Ident) : List (Nat × Nat) → Option (List Ident)
  | [] => some es
  | x :: xs => match joinIdent es x with | some es => joinIdents es xs | none => none

/-- An entry nobody uses any more is freed. -/
def freeIdents (es : List Ident) : List Ident := es.filter fun e => e.opens != 0 || e.users != 0

/-- A launch leaves its entries, adding its faults. -/
def State.leaveIdents (s : State) (xs : List (Nat × Nat)) (faults : Nat) : State :=
  s.modLau fun l => { l with idents := freeIdents (l.idents.map fun e =>
    if xs.contains (e.kind, e.ident) then { e with opens := e.opens - 1, faults := e.faults + faults } else e) }

/-- The code of a status (R141). -/
def statusCode : LaunchStatus → Nat
  | .committed => 0
  | .nogang => 1
  | .badrec => 2
  | .perm => 3
  | .noplace => 4
  | .cancelled => 5

/-- Tells a request's issuer its status: a parked group continues (R142, R474). -/
def State.tellStatus (s : State) (id : Nat) (st : LaunchStatus) : State :=
  match s.launchReq? id with
  | none => s
  | some r =>
    if r.status.isSome then s
    else
      let s := s.modLaunchReq id fun r => { r with status := some st }
      match r.issuer with
      | .group uid gid => s.post .launchStatusReturn { n := uid, m := gid }
      | _ => s

/-- A request has ended: its result for the command that issued it, and its identifier entries (R82, R148). -/
def State.endReq (s : State) (id never faults : Nat) (canc : Bool) : State :=
  match s.launchReq? id with
  | none => s
  | some r =>
    (s.leaveIdents r.idents faults).modLaunchReq id fun r => { r with result := some (never, faults, canc), idents := [] }

/-- Refuses a request before it reaches a pod relay (R125, R148). -/
def State.refuseReq (s : State) (id : Nat) (st : LaunchStatus) (tiles : Nat) : State :=
  (s.tellStatus id st).endReq id tiles 0 false

/-- Tells the issuer of a launch its status and S, across packages if need be. -/
def State.podStatus (s : State) (p : PodLaunch) (st : LaunchStatus) (start : Nat) : State :=
  if p.home = s.own then (s.modLaunchReq p.reqId fun r => { r with s := start }).tellStatus p.reqId st
  else s.relayTo p.home (.status (s.keyOf p.seq) st start)

/-! ### LAUNCH_REQUEST (R125, R133, R148, R474) -/

/-- A launch comes before another of the same source: a queue's in ring order, a command's and a group's in the order issued
(R80, R82, R144). -/
def reqBefore (q r : LaunchReq) : Bool :=
  match q.issuer, r.issuer with
  | .cmd p c, .cmd p' c' => p == p' && (c < c' || (c == c' && q.id < r.id))
  | .group b g, .group b' g' => b == b' && g == g' && q.id < r.id
  | _, _ => false

/-- A GRAPH command still has records to issue. -/
def graphIssuing (c : Cmd) : Bool := c.started && c.status.isNone && c.bytes.headD 0 == 2 && c.step < 2

/-- A WLOAD overlaps banks of a mask (R83). -/
def banksMeet (wsmask : DWord) (dies : BitVec 4) (off len : Nat) : Bool :=
  (List.range 4).any fun d => dies.getLsbD d && (List.range 16).any fun b =>
    wsmask.getLsbD (16 * d + b) && off < (b + 1) * 2 ^ 26 && b * 2 ^ 26 < off + len

/-- A WLOAD that reached the firmware in the same REFTICK as a launch, on a lower launch port, and has still to start goes first
(R83). -/
def State.wloadFirst (s : State) (r : LaunchReq) (port : Nat) : Bool :=
  s.que.cmds.any fun c => c.started && c.status.isNone && c.bytes.headD 0 == 9 && c.step == 0 && c.since == r.came && c.port < port
    && banksMeet (recOfBytes r.bytes).wsmask (BitVec.ofNat 4 (natOfBytes ((c.bytes.drop 8).take 1)))
        (natOfBytes ((c.bytes.drop 12).take 4)) (natOfBytes ((c.bytes.drop 24).take 8))

/-- Earlier launches of the same queue still to be issued, to commit or to end: the next one waits (R80, R144); and a launch of a
queue waits for the end of the REFTICK in which it reached the firmware, and for a WLOAD that then goes first (R83). -/
def State.earlierOpen (s : State) (r : LaunchReq) : Bool :=
  match r.issuer with
  | .cmd port id =>
    (s.lau.reqs.any fun q => reqBefore q r && q.status.isNone) || (s.que.cmds.any fun c => c.port == port && c.id < id && graphIssuing c)
      || r.came == s.clk.ref || s.wloadFirst r port
  | _ => false

/-- S of the source's previous committed launch (R144). -/
def State.prevStart (s : State) (r : LaunchReq) : Nat :=
  (s.lau.reqs.filter fun q => reqBefore q r).foldl (fun acc q => max acc q.s) 0

/-- Hands an accepted record to its pod relay (R133); a launch whose relay's package is absent from the pod ends with NOGANG at once
(R134). -/
def State.forwardReq (s : State) (r : LaunchReq) (lr : LaunchRec) : State :=
  let pod := (recPkgs s.own lr).headD s.own
  if pod ≠ s.own ∧ !Config.podMembers.contains pod then s.refuseReq r.id .nogang (recTiles lr)
  else
  let s := s.modLaunchReq r.id fun r => { r with pod := some pod }
  if pod = s.own then
    let seq := s.lau.nextSeq
    let p : PodLaunch := {
      seq := seq, lrec := lr, recVa := s.resolve r.va, issuer := r.issuer, home := s.own, reqId := r.id
      prevS := s.prevStart r }
    let s := s.modLau fun l => { l with pods := l.pods ++ [p], nextSeq := seq + 1 }
    (s.modLaunchReq r.id fun r => { r with seq := some seq }).post .reserveStart { n := seq }
  else s.relayTo pod (.forward lr (s.resolve r.va) (s.prevStart r))

/-- The relay's copy of the record a request has read: the identifier of a GRAPH command replaces its own (R82). -/
def recOfReq (r : LaunchReq) : LaunchRec :=
  let lr := recOfBytes r.bytes
  match r.graph with | some g => { lr with graph := BitVec.ofNat 32 g } | none => lr

/-- A launch is named by a cancel: kind 0 by record address, else by identifier; within one job where one is given
(R150, R477). -/
def cancelHits (kind ident : Nat) (job : Option Nat) (recVa : DWord) (r : LaunchRec) : Bool :=
  (match job with | some j => recJob r == j | none => true)
    && (match kind with
        | 0 => recVa.toNat == ident
        | 1 => r.graph.toNat == ident && ident != 0
        | 2 => r.phase.toNat == ident && ident != 0
        | _ => recJob r == ident)

/-- An open launch: one whose DONE is being written is open still. -/
def podOpen (p : PodLaunch) : Bool :=
  match p.state with
  | .done => !p.doneTold
  | .ended => false
  | _ => true

/-- A launch's counts over the pod. -/
def podCounts (p : PodLaunch) : TileCounts :=
  p.counts.foldl (fun a x => {
    retired := a.retired + x.2.retired, never := a.never + x.2.never, cancelled := a.cancelled + x.2.cancelled })
    { retired := 0, never := 0, cancelled := 0 }

/-- The requests made here that a cancel names, ended ones too, or may name, their records being read still, as 4 × request. -/
def State.namedReqs (s : State) (kind ident : Nat) (job : Option Nat) : List Nat :=
  (s.lau.reqs.filter fun r => if r.bytes.length == 128 then cancelHits kind ident job (s.resolve r.va) (recOfReq r)
      else r.result.isNone).map fun r => 4 * r.id

/-- What a cancel waits for here: the requests made here, and the launches of other packages' requests whose pod relay is here, as
4 × sequence number + 1, while no other package can be asked. -/
def State.cancelRuns (s : State) (kind ident : Nat) (job : Option Nat) : List Nat :=
  s.namedReqs kind ident job
    ++ ((s.lau.pods.filter fun p => s.otherPkgs.isEmpty && p.home != s.own && cancelHits kind ident job p.recVa p.lrec).map fun p =>
      4 * p.seq + 1)

/-- Tiles never started of one thing a cancel waits for, none of a launch whose record turns out to name another; nothing while it is
open. A question to another package, 4 × its name + 2, is open until it is answered, or no package can be reached (R150). -/
def State.cancelResult (s : State) (kind ident : Nat) (job : Option Nat) (x : Nat) : Option Nat :=
  match x % 4 with
  | 0 =>
    match s.launchReq? (x / 4) with
    | some r =>
      if r.bytes.length == 128 && !cancelHits kind ident job (s.resolve r.va) (recOfReq r) then some 0
      else r.result.map fun y => y.1
    | none => some 0
  | 1 =>
    match s.pod? (x / 4) with
    | some p =>
      if podOpen p then none
      else if p.state = .done then some (podCounts p).never
      else some (recTiles p.lrec)
    | none => some 0
  | _ =>
    if s.otherPkgs.isEmpty then some 0
    else match s.lau.asked.find? fun a => a.1 == x / 4 with | some a => a.2 | none => some 0

/-- A running cancel, of this package or of another, names an identifier of a launch (R150). -/
def State.cancelNames (s : State) (r : LaunchRec) : Bool :=
  (s.que.cancels.any fun c => (identsOf r).contains (c.2.1, c.2.2))
    || (s.lau.lcancels.any fun c => (identsOf r).contains (c.1, c.2.1) && c.2.2.1 == recJob r
      && c.2.2.2.any fun x => (s.cancelResult c.1 c.2.1 (some c.2.2.1) x).isNone)
    || s.lau.foreign.any fun c => (identsOf r).contains (c.kind, c.ident)
      && (match c.job with | some j => recJob r == j | none => true)

/-- A request's launch is known to the graph's entry it has joined (R148). -/
def noteRun (es : List Ident) (xs : List (Nat × Nat)) (id : Nat) : List Ident :=
  es.map fun e => if e.kind == 1 && xs.contains (e.kind, e.ident) then { e with runs := e.runs ++ [id] } else e

/-- The record has been read: its checks, its identifier entries, and on to the pod relay; a cancel that runs, or that came
while it was read, ends it (R139, R150). A record that meets conditions of both lists of R125 is BADREC (DESIGN CHOICE, log entry
112). -/
def State.takeRecord (s : State) (r : LaunchReq) (lr : LaunchRec) : State :=
  if recBad lr ∨ !s.classValid lr then s.refuseReq r.id .badrec 0
  else if recJob lr ≠ r.job ∨ r.primax < recPrio lr ∨ recDmask lr &&& ~~~r.dies ≠ 0 then s.refuseReq r.id .perm 0
  else if s.cancelNames lr ∨ r.cancels.any fun c => cancelHits c.1 c.2.1 c.2.2 (s.resolve r.va) lr then
    s.refuseReq r.id .cancelled (recTiles lr)
  else
    match joinIdents s.lau.idents (identsOf lr) with
    | none => s.refuseReq r.id .nogang (recTiles lr)
    | some es =>
      ((s.modLau fun l => { l with idents := noteRun es (identsOf lr) r.id }).modLaunchReq r.id fun r => { r with idents := identsOf lr }).forwardReq r lr

/-- Continues a request: the two lines of its record are read in turn, then it is checked. -/
def State.launchReqStep (s : State) (id : Nat) : State :=
  match s.launchReq? id with
  | none => s
  | some r =>
    if r.pod.isSome || r.status.isSome then s
    else if 128 ≤ r.bytes.length then (if s.earlierOpen r then s else s.takeRecord r (recOfReq r))
    else
      match r.req with
      | none =>
        if !vaLegal r.va || r.va.toNat % 128 != 0 then s.refuseReq id .badrec 0
        else
          let (s, q) := s.unitRead 1 id relaySrc (r.va + BitVec.ofNat 64 r.bytes.length) 64
          s.modLaunchReq id fun r => { r with req := some q }
      | some q =>
        match s.unitAns q with
        | .wait => s
        | .fail _ _ => (s.dropGot q).refuseReq id .badrec 0
        | .ok bs =>
          let s := (s.dropGot q).modLaunchReq id fun r => { r with req := none, bytes := r.bytes ++ bs }
          s.post .launchRequest { n := id }

/-- A record forwarded by another package (log entry 14): its issuer is known by its package. -/
def State.takeForward (s : State) (pkg : Nat) (bytes : List Byte) (va : DWord) (prevS : Nat) : State :=
  let seq := s.lau.nextSeq
  let p : PodLaunch := {
    seq := seq, lrec := recOfBytes bytes, recVa := va, issuer := .away pkg, home := pkg, reqId := 0, prevS := prevS }
  (s.modLau fun l => { l with pods := l.pods ++ [p], nextSeq := seq + 1 }).post .reserveStart { n := seq }

/-- LAUNCH_REQUEST (R125, R133, R148). -/
def execLaunchRequest (s : State) : Host.Outcome State Fault Refusal :=
  if s.inp.bytes.length = 128 then .next (s.takeForward s.inp.m s.inp.bytes s.inp.v s.inp.k)
  else .next (s.launchReqStep s.inp.n)

/-! ### The completion block (R145, R146) -/

/-- Writes bytes into a launch's completion block. -/
def State.blockWrite (s : State) (p : PodLaunch) (off : Nat) (bs : List Byte) : State × List Nat :=
  s.unitWrite relaySrc (p.lrec.cblk + BitVec.ofNat 64 off) bs none []

/-- The total of counts. -/
def countSum (c : TileCounts) : Nat := c.retired + c.never + c.cancelled

/-- The packages of a launch's span. -/
def podPkgs (p : PodLaunch) : List Nat := recPkgs p.home p.lrec

/-! ### Reserve, commit and rollback at the pod relay (R134 to R139) -/

/-- A launch of this pod relay ends without commit: its reserved contexts are freed everywhere and its issuer learns
why (R136, R139). -/
def State.endLaunch (s : State) (p : PodLaunch) (st : LaunchStatus) : State :=
  let s := s.modPod p.seq fun p => { p with state := .ended, req := none }
  let key := s.keyOf p.seq
  let s := if p.state = .reserving ∨ p.clear.isSome then
      (podPkgs p).foldl (fun (s : State) k =>
        if k = s.own then s.post .rollbackMsg { key := key } else s.relayTo k (.rollback key)) s
    else s
  let s := s.podStatus p st 0
  if p.home = s.own then s.endReq p.reqId (recTiles p.lrec) 0 false else s

/-- A WLOAD in progress overlaps banks of a mask (R83). -/
def State.wloadConflict (s : State) (wsmask : DWord) : Bool :=
  s.que.wloads.any fun w => banksMeet wsmask w.2.1 w.2.2.1 w.2.2.2

/-- Sends reserve to every package of the span; one that is absent from the pod answers no at once (R134, R135). -/
def State.sendReserve (s : State) (p : PodLaunch) : State :=
  let m : ReserveMsg := {
    key := s.keyOf p.seq, record := p.lrec, rsvto := (s.reg .dspRsvto 0).toNat, prevS := p.prevS }
  let s := s.modPod p.seq fun p => { p with
    state := .reserving, start := s.clk.ref, req := none, rsvto := m.rsvto }
  (podPkgs p).foldl (fun (s : State) k =>
    if k = s.own then s.post .packageReserve { msg := .reserve m }
    else if Config.podMembers.contains k then s.relayTo k (.reserve m)
    else s.post .packageAnswer { msg := .answer { key := m.key, pkg := k, cores := 0, no := some .nogang } }) s

/-- The other packages of a launch's span that are in the pod. -/
def State.podOthers (s : State) (p : PodLaunch) : List Nat :=
  (podPkgs p).filter fun k => k != s.own && Config.podMembers.contains k

/-- A launch with weight-store banks asks the other packages whether a WLOAD holds them, before its reserve (R83). -/
def State.askBanks (s : State) (p : PodLaunch) : State :=
  let others := if p.lrec.wsmask = 0 then [] else s.podOthers p
  others.foldl (fun (s : State) k => s.relayTo k (.banks (s.keyOf p.seq) p.lrec.wsmask))
    (s.modPod p.seq fun p => { p with clear := some others })

/-- A package asked has no WLOAD on the banks. -/
def State.banksFree (s : State) (seq pkg : Nat) : State :=
  (s.modPod seq fun p => { p with clear := p.clear.map fun ks => ks.filter fun k => k != pkg }).post .reserveStart { n := seq }

/-- RESERVE_START: the completion block is zeroed line by line, then reserve begins (R83, R134, R144, R150). -/
def State.reserveStep (s : State) (seq : Nat) : State :=
  match s.pod? seq with
  | none => s
  | some p =>
    match p.state with
    | .waiting =>
      if s.cancelNames p.lrec then s.endLaunch p .cancelled
      else if s.wloadConflict p.lrec.wsmask then s
      else
        match p.clear with
        | none => (s.askBanks p).post .reserveStart { n := seq }
        | some (_ :: _) => s
        | some [] => (s.modPod seq fun p => { p with state := .zeroing }).post .reserveStart { n := seq }
    | .zeroing =>
      match p.req with
      | some q =>
        match s.unitAns q with
        | .wait => s
        | .fail _ _ => (s.dropGot q).endLaunch p .badrec
        | .ok _ =>
          let s := (s.dropGot q).modPod seq fun p => { p with req := none, line := p.line + 1 }
          s.post .reserveStart { n := seq }
      | none =>
        if (podPkgs p).length < p.line then s.sendReserve p
        else
          let va := p.lrec.cblk + BitVec.ofNat 64 (64 * p.line)
          if !vaLegal va then s.endLaunch p .badrec
          else
            let (s, q) := s.unitSend 2 seq relaySrc .store va (List.replicate 64 0) [] none
            s.modPod seq fun p => { p with req := some q }
    | _ => s

/-- RESERVE_START (R134). -/
def execReserveStart (s : State) : Host.Outcome State Fault Refusal :=
  .next (if s.inp.on then s.banksFree s.inp.n s.inp.m else s.reserveStep s.inp.n)

/-- The rank of a reason: the highest is reported (R136). -/
def noRank : NoReason → Nat
  | .perm => 2
  | .noplace => 1
  | .nogang => 0

/-- The status of a reason. -/
def noStatus : NoReason → LaunchStatus
  | .perm => .perm
  | .noplace => .noplace
  | .nogang => .nogang

/-- The highest-ranked reason among the no answers. -/
def worstNo (as : List AnswerMsg) : Option NoReason :=
  as.foldl (fun acc a =>
    match a.no, acc with
    | some r, some q => if noRank q < noRank r then some r else some q
    | some r, none => some r
    | none, _ => acc) none

/-- The start tick of a launch that commits now (R137). -/
def State.startTick (s : State) (p : PodLaunch) : Nat :=
  let s0 := if (podPkgs p).length = 1 then s.clk.gt else s.clk.gt + (s.reg .dspLead 0).toNat
  if p.prevS = 0 then s0 else max s0 (p.prevS + 1)

/-- The bounds of child k's piece of [base, base + t): `ns` are the children's eligible cores in order (R140). -/
def dealBounds (base t : Nat) (ns : List Nat) (k : Nat) : Nat × Nat :=
  let n := ns.foldl (· + ·) 0
  let c := (ns.take k).foldl (· + ·) 0
  if n = 0 then (base, base) else (base + t * c / n, base + t * (c + ns.getD k 0) / n)

/-- Every answer is in: the launch commits or rolls back (R136, R137, R139, R140). -/
def State.decide (s : State) (p : PodLaunch) : State :=
  match worstNo p.answers with
  | some r => s.endLaunch p (noStatus r)
  | none =>
    let tick := s.startTick p
    let key := s.keyOf p.seq
    let pkgs := podPkgs p
    let ns := pkgs.map fun k => match p.answers.find? fun a => a.pkg == k with | some a => a.cores | none => 0
    let s := s.modPod p.seq fun p => { p with state := .committed, s := tick }
    let s := (s.blockWrite p 40 (bytesLE 8 tick)).1
    let s := s.modPod p.seq fun q => { q with dealt := (List.range pkgs.length).map fun i =>
      let b := dealBounds p.lrec.lbase.toNat (recTiles p.lrec) ns i
      (pkgs.getD i 0, b.2 - b.1) }
    let s := (List.range pkgs.length).foldl (fun (s : State) i =>
      let b := dealBounds p.lrec.lbase.toNat (recTiles p.lrec) ns i
      let m : CommitMsg := { key := key, s := tick, lo := b.1, hi := b.2 }
      let k := pkgs.getD i 0
      if k = s.own then s.post .commitMsg { msg := .commit m } else s.relayTo k (.commit m)) s
    s.podStatus p .committed tick

/-- PACKAGE_ANSWER: the pod relay takes an answer; the first of each package counts (R136). -/
def State.podAnswer (s : State) (m : AnswerMsg) : State :=
  match s.pod? m.key.seq with
  | none => s
  | some p =>
    if m.key.pod ≠ s.own ∨ p.state ≠ .reserving ∨ !(podPkgs p).contains m.pkg ∨ (p.answers.any fun a => a.pkg == m.pkg) then s
    else
      let p' := { p with answers := p.answers ++ [m] }
      let s := s.modPod p.seq fun _ => p'
      if p'.answers.length = (podPkgs p).length then s.decide p' else s

/-- PACKAGE_ANSWER (R136). -/
def execPackageAnswer (s : State) : Host.Outcome State Fault Refusal :=
  match s.inp.msg with
  | .answer m => .next (s.podAnswer m)
  | _ => .next s

/-! ### Cancellation at the pod relay (R139, R151) -/

/-- Sends a cancel down the chain. -/
def State.sendCancel (s : State) (p : PodLaunch) : State :=
  let key := s.keyOf p.seq
  (podPkgs p).foldl (fun (s : State) k =>
    if k = s.own then s.post .cancelMsg { key := key, on := true } else s.relayTo k (.cancel key)) s

/-- Cancels a launch of this pod relay (R139). -/
def State.cancelPod (s : State) (p : PodLaunch) : State :=
  match p.state with
  | .waiting | .zeroing | .reserving => s.endLaunch p .cancelled
  | .committed => (s.modPod p.seq fun p => { p with state := .cancelling, canc := true }).sendCancel p
  | _ => s

/-- Cancels the open launches of this pod relay that a cancel names (R150). -/
def State.cancelPods (s : State) (kind ident : Nat) (job : Option Nat) : State :=
  (s.lau.pods.filter fun p => podOpen p && cancelHits kind ident job p.recVa p.lrec).foldl (fun (s : State) p => s.cancelPod p) s

/-- Cancels every open launch here that a cancel names: those of this pod relay, those not yet forwarded, a record still being read
once it has been read, and by message those on their way to other packages' pod relays (R150). -/
def State.cancelBy (s : State) (kind ident : Nat) (job : Option Nat) : State :=
  let s := s.cancelPods kind ident job
  let early := s.lau.reqs.filter fun r => r.pod.isNone && r.status.isNone
    && cancelHits kind ident job (s.resolve r.va) (recOfReq r) && r.bytes.length == 128
  let s := early.foldl (fun (s : State) r => s.refuseReq r.id .cancelled (recTiles (recOfReq r))) s
  let s := s.modLau fun l => { l with reqs := l.reqs.map fun r =>
    if r.pod.isNone && r.status.isNone && r.bytes.length != 128 then { r with cancels := r.cancels ++ [(kind, ident, job)] } else r }
  let out := s.lau.reqs.filter fun r => r.result.isNone && r.pod.isSome && r.pod != some s.own
    && cancelHits kind ident job (s.resolve r.va) (recOfReq r)
  out.foldl (fun (s : State) r => s.relayTo (r.pod.getD 0) (.cancelBy 0 kind ident (some (recJob (recOfReq r))))) s

/-- Every other package is told of a cancel, and asked for what it has cancelled: what the cancel then waits for (R150). -/
def State.askCancel (s : State) (kind ident : Nat) (job : Option Nat) : State × List Nat :=
  s.otherPkgs.foldl (fun (acc : State × List Nat) k =>
    let token := acc.1.lau.nextReq
    ((acc.1.modLau fun l => { l with nextReq := token + 1, asked := l.asked ++ [(token, none)] }).relayTo k
      (.cancelBy token kind ident job), acc.2 ++ [4 * token + 2])) (s, [])

/-- A cancel is over: its questions are closed, and the other packages learn it (R150). -/
def State.overCancel (s : State) (runs : List Nat) : State :=
  let tokens := (runs.filter fun x => x % 4 == 2).map fun x => x / 4
  let s := s.modLau fun l => { l with asked := l.asked.filter fun a => !tokens.contains a.1 }
  tokens.foldl (fun (s : State) t => s.otherPkgs.foldl (fun (s : State) k => s.relayTo k (.cancelOver t)) s) s

/-- Another package's cancel reaches this one: the launches here are cancelled, and the answer waits for the requests made here
(R150). -/
def State.takeCancel (s : State) (pkg token kind ident : Nat) (job : Option Nat) : State :=
  if token = 0 then s.cancelPods kind ident job
  else
    let c : ForeignCancel := {
      pkg := pkg, token := token, kind := kind, ident := ident, job := job, runs := s.namedReqs kind ident job }
    (s.modLau fun l => { l with foreign := l.foreign ++ [c] }).cancelBy kind ident job

/-- Another package's cancel can be answered: every request made here that it names has ended. -/
def State.foreignDone (s : State) (c : ForeignCancel) : Bool :=
  !c.told && c.runs.all fun x => (s.cancelResult c.kind c.ident c.job x).isSome

/-- Answers to other packages' cancels leave, and cancels of LCANCEL that have nothing to wait for end (R150). -/
def State.cancelAcks (s : State) : State :=
  let ready := s.lau.foreign.filter s.foreignDone
  let s := ready.foldl (fun (s : State) c => s.relayTo c.pkg (.cancelled c.token
    (c.runs.foldl (fun n x => n + (s.cancelResult c.kind c.ident c.job x).getD 0) 0))) s
  let s := s.modLau fun l => { l with foreign := l.foreign.map fun c => if ready.contains c then { c with told := true } else c }
  let over_ (c : Nat × Nat × Nat × List Nat) : Bool := c.2.2.2.all fun x => (s.cancelResult c.1 c.2.1 (some c.2.2.1) x).isSome
  let ended := s.lau.lcancels.filter over_
  ended.foldl (fun (s : State) c => s.overCancel c.2.2.2) (s.modLau fun l => { l with lcancels := l.lcancels.filter fun c => !over_ c })

/-! ### Counts and completion (R147, R149) -/

/-- The counter word (R146). -/
def counterWord (done flt canc : Bool) (tiles : Nat) : Nat :=
  (if done then 2 ^ 63 else 0) + (if flt then 2 ^ 62 else 0) + (if canc then 2 ^ 61 else 0) + tiles % 2 ^ 48

/-- A launch that is committed and not DONE. -/
def podRunning (p : PodLaunch) : Bool :=
  match p.state with
  | .committed | .cancelling => true
  | _ => false

/-- Every tile of a launch is accounted for (R147). -/
def podFull (p : PodLaunch) : Bool := countSum (podCounts p) == recTiles p.lrec

/-- Takes a package's counts: TILES is written when the total rises (R147). -/
def State.podTake (s : State) (seq pkg : Nat) (c : TileCounts) : State :=
  match s.pod? seq with
  | none => s
  | some p =>
    let old := match p.counts.find? fun x => x.1 == pkg with | some x => countSum x.2 | none => 0
    if !podRunning p ∨ countSum c < old then s
    else
      let p := { p with counts := (p.counts.filter fun x => x.1 != pkg) ++ [(pkg, c)] }
      let n := countSum (podCounts p)
      if p.told < n then
        ((s.modPod seq fun _ => { p with told := n }).blockWrite p 0
          (bytesLE 8 (counterWord false (p.nfaults != 0) p.canc n))).1
      else s.modPod seq fun _ => p

/-- Takes a package's counts; with the last of the T tiles the launch is DONE, and the steps of R147 follow (R139). -/
def State.podCount (s : State) (seq pkg : Nat) (c : TileCounts) : State :=
  let s := s.podTake seq pkg c
  match s.pod? seq with
  | none => s
  | some p =>
    if podRunning p && podFull p then (s.modPod seq fun p => { p with state := .done }).post .launchDoneWrite { n := seq } else s

/-- The launch has a resident block on this package. -/
def State.hasBlocks (s : State) (key : LaunchId) : Bool := s.cores.blocks.any fun b => b.key == key

/-- The place of this package in a launch's span. -/
def State.spanIndex (s : State) (r : LaunchRec) : Nat :=
  if recOwnSpan r then 0 else (s.own - recFirst r) / recStride r

/-- Ascending order. -/
def sortNat (xs : List Nat) : List Nat := xs.foldl (fun acc x => insertNat x acc) []

/-- Writes this package's part of the list of R151: tiles in ascending order, and the end mark where it has room. -/
def State.writeList (s : State) (r : LaunchRec) (tiles : List Nat) : State :=
  let ts := sortNat tiles
  let bs := ts.flatMap (bytesLE 8) ++ (if ts.length < 16384 then bytesLE 8 (2 ^ 64 - 1) else [])
  (s.unitWrite relaySrc (r.clist + BitVec.ofNat 64 (s.spanIndex r * 0x20000)) bs none []).1

/-- Writes the list of a cancelled launch's tiles cancelled while resident here, once (R151). -/
def State.writeClist (s : State) (key : LaunchId) : State :=
  match s.pkgLaunch? key with
  | none => s
  | some p =>
    if p.lrec.clist = 0 ∨ p.listed ∨ p.s.isNone then s
    else (s.modPkg key fun p => { p with listed := true }).writeList p.lrec p.cancd

/-- The cancel reaches a package that has given the launch up: no tile of its part was resident there (R138, R151). -/
def State.lostClist (s : State) (key : LaunchId) : State :=
  match s.lau.lost.find? fun x => x.1 == key with
  | none => s
  | some x =>
    let s := s.modLau fun l => { l with lost := l.lost.filter fun x => x.1 != key }
    if x.2.clist = 0 then s else s.writeList x.2 []

/-- The news of DONE reaches a package: its contexts of the launch are free (R128); a cancelled launch's list is written where
it has not been (R151). -/
def State.pkgDone (s : State) (key : LaunchId) (canc : Bool) : State :=
  (if canc then (s.writeClist key).lostClist key else s).modLau fun l => { l with
    ctxs := l.ctxs.filter fun c => c.key != key, pkgs := l.pkgs.filter fun p => p.key != key, lost := l.lost.filter fun x => x.1 != key }

/-- The requests forwarded to another package that became a launch there. -/
def State.reqsOfKey (s : State) (key : LaunchId) : List LaunchReq :=
  s.lau.reqs.filter fun r => r.pod == some key.pod && r.seq == some key.seq

/-- A request ends with its launch's DONE; a fault of it may have been NOPLACE (R82, R152). -/
def State.reqDone (s : State) (id never faults : Nat) (canc noplace : Bool) : State :=
  (s.modLaunchReq id fun r => { r with noplace := noplace }).endReq id never faults canc

/-- TILE_COUNT_UPDATE: counts reach the pod relay; at a package that is not the pod relay it is the news that the launch
is DONE, with its fault count, CANC and whether a fault was NOPLACE (R147, log entry 14). -/
def execTileCountUpdate (s : State) : Host.Outcome State Fault Refusal :=
  match s.inp.msg with
  | .counts c =>
    if s.inp.key.pod = s.own then .next (s.podCount s.inp.key.seq s.inp.n c)
    else .next ((s.reqsOfKey s.inp.key).foldl (fun (t : State) r =>
      t.reqDone r.id c.never s.inp.n s.inp.on (s.inp.m != 0)) (s.pkgDone s.inp.key s.inp.on))
  | _ => .next s

/-- The bytes of a fault record (R188). -/
def faultBytes (r : FaultRecord) : List Byte :=
  [r.code, r.flags, r.mdepth, r.stat] ++ bytesLE 2 r.gid.toNat ++ bytesLE 2 r.depth.toNat ++ bytesLE 8 r.pc.toNat
    ++ bytesLE 4 r.lanes.toNat ++ bytesLE 4 r.aux.toNat ++ bytesLE 8 r.addr.toNat ++ bytesLE 8 r.gtick.toNat
    ++ bytesLE 8 r.tile.toNat ++ [r.die, r.lcore, r.pcore, 0] ++ bytesLE 2 r.engine.toNat ++ bytesLE 2 0
    ++ bytesLE 4 r.job.toNat ++ bytesLE 4 0

/-- The package of the earliest first fault record, by its GTICK, ties to the lower number; 0xFFFF for none (R149). -/
def firstFaultPkg (p : PodLaunch) : Nat :=
  match p.faults.foldl (fun (acc : Option (Nat × Nat)) x =>
      let k := (x.2.gtick.toNat, x.1)
      match acc with
      | some a => if k.1 < a.1 ∨ (k.1 = a.1 ∧ k.2 < a.2) then some k else acc
      | none => some k) none with
  | some a => a.2
  | none => 0xFFFF

/-- Every package of the pod is asked to write its gathered bits back; this one does so at once (R106, R147). -/
def State.askFlush (s : State) (seq : Nat) : State :=
  let others := if s.livePlanes.isEmpty then [] else Config.podMembers.filter fun k => k != s.own
  others.foldl (fun (s : State) k => s.relayTo k (.flush (s.keyOf seq)))
    ((s.flushTlb false fun _ => true).modPod seq fun p => { p with fin := some others })

/-- A package has written its gathered bits back. -/
def State.flushed (s : State) (seq pkg : Nat) : State :=
  (s.modPod seq fun p => { p with fin := p.fin.map fun ks => ks.filter fun k => k != pkg }).post .launchDoneWrite { n := seq }

/-- The write of DONE has been answered: the launch's contexts are freed, and its issuer learns the result (R128, R147). -/
def State.doneOver (s : State) (p : PodLaunch) : State :=
  let c := podCounts p
  let key := s.keyOf p.seq
  let news : RelayMsg := .done key c.never p.nfaults p.canc p.noplace
  let s := s.modPod p.seq fun p => { p with req := none, doneTold := true }
  let s := (podPkgs p).foldl (fun (s : State) k => if k = s.own then s.pkgDone key p.canc else s.relayTo k news) s
  if p.home = s.own then s.reqDone p.reqId c.never p.nfaults p.canc p.noplace
  else if (podPkgs p).contains p.home then s
  else s.relayTo p.home news

/-- Writes the fault fields and the counts, and after them DONE as a release at pod scope (R147). -/
def State.writeDone (s : State) (p : PodLaunch) : State :=
  let c := podCounts p
  let pkgs := podPkgs p
  let head := bytesLE 8 p.nfaults ++ bytesLE 8 c.never ++ bytesLE 8 c.cancelled ++ bytesLE 2 (firstFaultPkg p)
  let (s, ids) := s.blockWrite p 8 head
  let (s, ids) := (List.range pkgs.length).foldl (fun (acc : State × List Nat) i =>
    match p.faults.find? fun x => x.1 == pkgs.getD i 0 with
    | some x => let r := acc.1.blockWrite p (64 + 64 * i) (faultBytes x.2); (r.1, acc.2 ++ r.2)
    | none => acc) (s, ids)
  let word := bytesLE 8 (counterWord true (p.nfaults != 0) p.canc (recTiles p.lrec))
  let (s, q) := s.unitSend 2 p.seq relaySrc .store p.lrec.cblk word ids (some 5)
  s.modPod p.seq fun p => { p with state := .done, req := some q }

/-- LAUNCH_DONE_WRITE: the gathered bits are written back everywhere, then the fault fields and counts, then DONE as a release at
pod scope; once that is written the launch is over (R106, R147). -/
def State.doneWrite (s : State) (seq : Nat) : State :=
  match s.pod? seq with
  | none => s
  | some p =>
    match (if p.state = .done then p.req else none) with
    | some q => match s.unitAns q with | .wait => s | _ => (s.dropGot q).doneOver p
    | none =>
      if !((p.state == .done && !p.doneTold) || (podRunning p && podFull p)) then s
      else
        match p.fin with
        | none => (s.askFlush seq).post .launchDoneWrite { n := seq }
        | some ks =>
          if !ks.isEmpty && !s.livePlanes.isEmpty then s
          else s.writeDone p

/-- LAUNCH_DONE_WRITE (R147). -/
def execLaunchDoneWrite (s : State) : Host.Outcome State Fault Refusal :=
  .next (if s.inp.on then s.flushed s.inp.n s.inp.m else s.doneWrite s.inp.n)

/-- A fault record reaches the pod relay (R149): FLT, the count, the first record of its package; FSTOP cancels. -/
def State.podFault (s : State) (seq pkg : Nat) (r : FaultRecord) : State :=
  match s.pod? seq with
  | none => s
  | some p =>
    if !podRunning p then s
    else
      let faults := if p.faults.any fun x => x.1 == pkg then p.faults else p.faults ++ [(pkg, r)]
      let p := { p with faults := faults, nfaults := p.nfaults + 1, noplace := p.noplace || r.code.toNat == codeNoplace }
      let s := s.modPod seq fun _ => p
      if recFstop p.lrec then s.cancelPod p else s

/-- A package relay takes a fault record of one of its blocks: it keeps the first and forwards every one (R149). -/
def State.pkgFault (s : State) (key : LaunchId) (r : FaultRecord) : State :=
  let s := s.modPkg key fun p => { p with first := match p.first with | some x => some x | none => some r }
  if key.pod = s.own then s.post .faultSummary { key := key, n := s.own, msg := .fault r } else s.relayTo key.pod (.fault key r)

/-- FAULT_SUMMARY (R149). -/
def execFaultSummary (s : State) : Host.Outcome State Fault Refusal :=
  match s.inp.msg with
  | .fault r => if s.inp.key.pod = s.own then .next (s.podFault s.inp.key.seq s.inp.n r) else .next (s.pkgFault s.inp.key r)
  | _ => .next s

/-- The record of a fault that a relay raises: PREC 3, GID 0xFFFF, no core, and TILE zero where no tile is named (R185, R188). -/
def State.relayRecord (s : State) (code job : Nat) (addr : DWord) (tile : Option Nat) : FaultRecord :=
  { code := BitVec.ofNat 8 code, flags := 3, mdepth := 0, stat := 0, gid := 0xFFFF, depth := 0, pc := 0, lanes := 0, aux := 0
    addr := addr, gtick := BitVec.ofNat 64 s.clk.gt
    tile := match tile with | some l => BitVec.ofNat 64 (s.own * 2 ^ 48 + l) | none => 0
    die := 0, lcore := 0, pcore := 0, engine := 0, job := BitVec.ofNat 32 job }

/-- The trace record of a relay's fault record: no core and no PC (R308). -/
def State.traceRelay (s : State) (r : FaultRecord) : State := s.trace 2 0 0 0xFFFF 0 (r.tile.toNat % 2 ^ 48)

/-! ### The error log (R192) -/

/-- Appends an entry to the error log: it takes the next slot of the ring and is written there, or, where no slot is free, it is
dropped and counted. -/
def State.logEntry (s : State) (kind stat pkg src : Nat) (va : DWord) (rec64 : List Byte) : State :=
  let ring := s.reg .fwcElog 0
  let e := bytesLE 8 s.fw.elSeq ++ bytesLE 1 kind ++ bytesLE 1 stat ++ bytesLE 2 pkg ++ bytesLE 2 src ++ bytesLE 2 0
    ++ bytesLE 8 va.toNat ++ bytesLE 8 s.clk.ref ++ bytesLE 32 0 ++ rec64
  let s := { s with fw := { s.fw with elSeq := s.fw.elSeq + 1 } }
  if s.ringRoom ring (s.reg .fwcElhead 0) s.fw.elTail then
    State.errorLogOut { s with fw := { s.fw with el := s.fw.el ++ [(s.fw.elTail, e)], elTail := s.fw.elTail + 1 } }
  else s.lostEntries 1

/-- Logs a fault record (R189, R192). -/
def State.logFault (s : State) (r : FaultRecord) : State := s.logEntry 0 0 0 0 0 (faultBytes r)

/-- LAUNCHLOST_REPORT: a package released its contexts; its tiles count as never started and the launch is cancelled
(R138). -/
def State.podLost (s : State) (seq pkg : Nat) : State :=
  match s.pod? seq with
  | none => s
  | some p =>
    if !podRunning p then s
    else
      let tiles := match p.dealt.find? fun x => x.1 == pkg with | some x => x.2 | none => 0
      let r := s.relayRecord codeLaunchlost (recJob p.lrec) 0 none
      let s := (((s.traceRelay r).logFault r).modPod seq fun p => { p with
        faults := if p.faults.any fun x => x.1 == pkg then p.faults else p.faults ++ [(pkg, r)]
        nfaults := p.nfaults + 1 }).podTake seq pkg { retired := 0, never := tiles, cancelled := 0 }
      match s.pod? seq with
      | some p => s.cancelPod p
      | none => s

/-- LAUNCHLOST_REPORT (R138). -/
def execLaunchlostReport (s : State) : Host.Outcome State Fault Refusal :=
  if s.inp.key.pod = s.own then .next (s.podLost s.inp.key.seq s.inp.n) else .next s

/-! ### LAUNCH_STATUS_RETURN (R474) -/

/-- The status a number stands for (R141). -/
def statusOfCode (n : Nat) : LaunchStatus :=
  match n with
  | 0 => .committed
  | 2 => .badrec
  | 3 => .perm
  | 4 => .noplace
  | 5 => .cancelled
  | _ => .nogang

/-- A status that arrives from another package's pod relay, for a request forwarded there (log entry 14). -/
def State.awayStatus (s : State) (id : Nat) (key : LaunchId) (code start : Nat) : State :=
  match s.launchReq? id with
  | none => s
  | some r =>
    if r.status.isSome ∨ r.pod ≠ some key.pod ∨ key.pod = s.own then s
    else
      let s := (s.modLaunchReq id fun r => { r with seq := some key.seq, s := start }).tellStatus id (statusOfCode code)
      if code = 0 then s else s.endReq id (recTiles (recOfReq r)) 0 false

/-- A group parked in LAUNCH receives its status in sD and goes on (R474). -/
def State.statusReturn (s : State) (uid gid : Nat) : State :=
  match s.group? uid gid with
  | none => s
  | some g =>
    match g.park with
    | none => s
    | some k =>
      match k.cond with
      | .launch id =>
        match s.launchReq? id with
        | none => s
        | some r =>
          match r.status with
          | none => s
          | some st =>
            (s.modGroup uid gid fun g => setUni g (k.op.d.toNat - 0xA0) (BitVec.ofNat 32 (statusCode st))).finishPark uid gid
      | _ => s

/-- LAUNCH_STATUS_RETURN (R474): to a group, or, with `on`, from another package's pod relay for request n. -/
def execLaunchStatusReturn (s : State) : Host.Outcome State Fault Refusal :=
  if s.inp.on then .next (s.awayStatus s.inp.n s.inp.key s.inp.v.toNat s.inp.k) else .next (s.statusReturn s.inp.n s.inp.m)

end Sys2Proof.Machine
end

