-- ==== Sys2Proof/Machine/PkgRelay.lean ====
section
/-! DEFINITION. Launches at package and die relays, and walker contexts (R128, R131 to R140, R147). -/

namespace Sys2Proof.Machine
open Sys2Proof

/-! ### Reserve (R134, R135) -/

/-- The eligible cores of a die for a record, as physical cores in order of logical core (R134). -/
def State.eligible (s : State) (die : Nat) (r : LaunchRec) : List Nat :=
  if r.feat &&& ~~~(Config.featMask die) ≠ 0 then []
  else ((List.range 64).filter fun i =>
    (s.reg .dspLmap (64 * die + i)).getLsbD 31 && (recNcore r == 0 || i < recNcore r)).map (s.physical die)

/-- The walker contexts of a core. -/
def State.ctxsOf (s : State) (core : Nat) : List Ctx := s.lau.ctxs.filter fun c => c.core == core

def State.ctx? (s : State) (core : Nat) (key : LaunchId) : Option Ctx := s.lau.ctxs.find? fun c => c.core == core && c.key == key

def State.modCtx (s : State) (core : Nat) (key : LaunchId) (f : Ctx → Ctx) : State :=
  s.modLau fun l => { l with ctxs := l.ctxs.map fun c => if c.core == core && c.key == key then f c else c }

/-- A core attempts placement (R157). -/
def State.wantPlace (s : State) (core : Nat) : State := s.post .placementAttempt { n := core }

/-- A context that issues tiles and has some. -/
def ctxIssues (c : Ctx) : Bool := (c.state == .active || c.state == .surrendering) && (c.next < c.last || !c.requeue.isEmpty)

/-- A context of a launch on these cores holds nothing back any more: the cores whose other contexts can issue attempt
placement (R143, R157). -/
def State.unhold (s : State) (cores : List Nat) : State :=
  (cores.filter fun k => (s.ctxsOf k).any ctxIssues).foldl (fun (s : State) k => s.wantPlace k) s

/-- Every context of a launch is free. -/
def State.freeCtxs (s : State) (key : LaunchId) : State :=
  let cores := (s.lau.ctxs.filter fun c => c.key == key).map fun c => c.core
  (s.modLau fun l => { l with ctxs := l.ctxs.filter fun c => c.key != key }).unhold cores

/-- A launch's job holds a partition that contains the dies it names, or any partition (R134). -/
def State.partOk (s : State) (r : LaunchRec) : Bool :=
  s.lau.parts.any fun p => p.2.1 == recJob r && p.2.2.1 != 0 && recDmask r &&& ~~~p.2.2.1 == 0

/-- Sends a package's answer to the pod relay. -/
def State.sendAnswer (s : State) (m : AnswerMsg) : State :=
  if m.key.pod = s.own then s.post .packageAnswer { msg := .answer m } else s.relayTo m.key.pod (.answer m)

/-- The reasons a package has to answer no (R134). -/
def State.pkgNos (s : State) (p : PkgLaunch) : List AnswerMsg :=
  let no (b : Bool) (r : NoReason) : List AnswerMsg := if b then [{ key := p.key, pkg := s.own, cores := 0, no := some r }] else []
  no (!s.partOk p.lrec) .perm ++ no (p.dies.all (fun d => (s.eligible d.die p.lrec).isEmpty) || !s.classValid p.lrec) .noplace
    ++ no (p.dies.any fun d => d.answer == some none) .nogang
    ++ no (!recOwnSpan p.lrec && 1 < (recPkgs s.own p.lrec).length && !s.clk.sync) .nogang

/-- All die relays have answered: the package answers (R134). -/
def State.pkgDecide (s : State) (key : LaunchId) : State :=
  match s.pkgLaunch? key with
  | none => s
  | some p =>
    if p.answer.isSome || (p.dies.any fun d => d.answer.isNone) then s
    else
      let cores := p.dies.foldl (fun n d => match d.answer with | some (some k) => n + k | _ => n) 0
      let m : AnswerMsg := { key := key, pkg := s.own, cores := cores, no := worstNo (s.pkgNos p) }
      (s.modPkg key fun p => { p with answer := some (m, s.clk.ref) }).sendAnswer m

/-- Another package's launch asks before its reserve whether a WLOAD holds its banks: it is told at once that none does, and then
holds WLOADs back, or is told when the last has ended (R83). -/
def State.answerBanks (s : State) (key : LaunchId) (mask : DWord) : State :=
  let free := !s.wloadConflict mask
  let s := s.modLau fun l => { l with clears := (l.clears.filter fun c => c.1 != key) ++ [(key, mask, free)] }
  if free then s.relayTo key.pod (.banksFree key) else s

/-- PACKAGE_RESERVE: reserve goes to the dies the record names (R134). The message carries no time, so a die's DSP_RSVTO/4 counts from
its receipt (DESIGN CHOICE, log entry 113). -/
def State.pkgReserve (s : State) (m : ReserveMsg) : State :=
  if (s.pkgLaunch? m.key).isSome then s
  else
    let s := s.modLau fun l => { l with clears := l.clears.filter fun c => c.1 != m.key }
    let dies := (List.range 4).filter fun d => (s.launchDies m.record).getLsbD d
    let p : PkgLaunch := {
      key := m.key, lrec := m.record, rsvto := m.rsvto, dies := dies.map fun d => { die := d, asked := s.clk.ref } }
    let s := s.modLau fun l => { l with pkgs := l.pkgs ++ [p] }
    if dies.isEmpty then s.pkgDecide m.key
    else dies.foldl (fun (s : State) d => s.post .dieReserve { n := d, key := m.key }) s

/-- PACKAGE_RESERVE (R134). -/
def execPackageReserve (s : State) : Host.Outcome State Fault Refusal :=
  match s.inp.msg with
  | .reserve m => .next (s.pkgReserve m)
  | .banks mask => .next (s.answerBanks s.inp.key mask)
  | _ => .next s

/-- Sets a die's answer. -/
def setDie (die : Nat) (a : Option Nat) (p : PkgLaunch) : PkgLaunch :=
  { p with dies := p.dies.map fun d => if d.die == die then { d with answer := some a } else d }

/-- DIE_RESERVE: a context on each eligible core, or no; a held die withholds the answer (R84, R134). -/
def State.dieReserve (s : State) (die : Nat) (key : LaunchId) : State :=
  match s.pkgLaunch? key with
  | none => s
  | some p =>
    if !(p.dies.any fun d => d.die == die && d.answer.isNone) || s.lau.holds.contains die then s
    else
      let cores := s.eligible die p.lrec
      let ok := cores.all fun c => (s.ctxsOf c).length < 8
      let s := if ok then s.modLau fun l => { l with ctxs := l.ctxs ++ cores.map fun c => { core := c, key := key } } else s
      (s.modPkg key (setDie die (if ok then some cores.length else none))).post .dieAnswer { n := die, key := key }

/-- DIE_RESERVE (R134). -/
def execDieReserve (s : State) : Host.Outcome State Fault Refusal := .next (s.dieReserve s.inp.n s.inp.key)

/-- DIE_ANSWER (R134). -/
def execDieAnswer (s : State) : Host.Outcome State Fault Refusal := .next (s.pkgDecide s.inp.key)

/-- RESERVE_TIMEOUT: a missing answer counts as a no with NOGANG (R135). -/
def State.reserveTimeout (s : State) (l : RelayLevel) (n : Nat) (key : LaunchId) : State :=
  match l with
  | .die =>
    match s.pkgLaunch? key with
    | none => s
    | some p =>
      if p.dies.any fun d => d.die == n && d.answer.isNone && d.asked + p.rsvto / 4 ≤ s.clk.ref then
        (s.modPkg key (setDie n none)).pkgDecide key
      else s
  | .package =>
    match s.pod? key.seq with
    | none => s
    | some p =>
      if p.state = .reserving ∧ p.start + p.rsvto / 2 ≤ s.clk.ref then
        s.podAnswer { key := key, pkg := n, cores := 0, no := some .nogang }
      else s
  | .pod =>
    match s.pod? key.seq with
    | none => s
    | some p =>
      if p.state = .reserving ∧ p.start + p.rsvto ≤ s.clk.ref then
        (podPkgs p).foldl (fun (s : State) k => s.podAnswer { key := key, pkg := k, cores := 0, no := some .nogang }) s
      else s

/-- RESERVE_TIMEOUT (R135). -/
def execReserveTimeout (s : State) : Host.Outcome State Fault Refusal :=
  match s.inp.msg with
  | .level l => .next (s.reserveTimeout l s.inp.n s.inp.key)
  | _ => .next s

/-! ### Commit and rollback (R136 to R140) -/

/-- A package gives its contexts up after a yes: LAUNCHLOST (R138). -/
def State.loseLaunch (s : State) (key : LaunchId) (tiles : Nat) : State :=
  let mine := (s.lau.pkgs.filter fun p => p.key == key).map fun p => (key, p.lrec)
  let s := (s.freeCtxs key).modLau fun l => { l with pkgs := l.pkgs.filter fun p => p.key != key, lost := l.lost ++ mine }
  if key.pod = s.own then s.post .launchlostReport { key := key, n := s.own, m := tiles } else s.relayTo key.pod (.lost key tiles)

/-- Contexts of one die become ARMED with their pieces, in order of logical core (R140). -/
def State.armDie (s : State) (key : LaunchId) (cores : List Nat) (lo hi : Nat) : State :=
  let ns := cores.map fun _ => 1
  ((List.range cores.length).foldl (fun (s : State) i =>
    let b := dealBounds lo (hi - lo) ns i
    s.modCtx (cores.getD i 0) key fun c => { c with state := .armed, next := b.1, last := b.2 }) s).unhold cores

/-- COMMIT_MSG: the package deals its range to its dies and contexts, or is too late (R137, R138, R140). -/
def State.commitPkg (s : State) (m : CommitMsg) : State :=
  match s.pkgLaunch? m.key with
  | none => s
  | some p =>
    if p.s.isSome then s
    else if m.s + 4000 < s.clk.gt then s.loseLaunch m.key (m.hi - m.lo)
    else
      let s := s.modPkg m.key fun p => { p with
        s := some m.s, lo := m.lo, hi := m.hi, toldAt := (List.range 4).map fun d => (d, s.clk.ref) }
      let ns := p.dies.map fun d => match d.answer with | some (some k) => k | _ => 0
      (List.range p.dies.length).foldl (fun (s : State) i =>
        let b := dealBounds m.lo (m.hi - m.lo) ns i
        match p.dies[i]? with
        | some d => s.armDie m.key (s.eligible d.die p.lrec) b.1 b.2
        | none => s) (s.trace 5 0 0 0 0 0)

/-- COMMIT_MSG (R137). -/
def execCommitMsg (s : State) : Host.Outcome State Fault Refusal :=
  match s.inp.msg with
  | .commit m => .next (s.commitPkg m)
  | _ => .next s

/-- ROLLBACK_MSG (R136). -/
def execRollbackMsg (s : State) : Host.Outcome State Fault Refusal :=
  let s := s.modLau fun l => { l with clears := l.clears.filter fun c => c.1 != s.inp.key }
  match s.pkgLaunch? s.inp.key with
  | some p =>
    if p.s.isSome then .next s
    else .next ((s.freeCtxs s.inp.key).modLau fun l => { l with pkgs := l.pkgs.filter fun p => p.key != s.inp.key })
  | none => .next s

/-- RELAY_HOLD_TIMEOUT (R138). -/
def execRelayHoldTimeout (s : State) : Host.Outcome State Fault Refusal :=
  match s.pkgLaunch? s.inp.key with
  | some p =>
    match p.answer with
    | some (m, t) => if p.s.isNone ∧ m.no = none ∧ t + p.rsvto ≤ s.clk.ref then .next (s.loseLaunch s.inp.key 0) else .next s
    | none => .next s
  | none => .next s

/-! ### Walker contexts (R128 to R132) -/

/-- S of a launch as its package knows it. -/
def State.startOf (s : State) (key : LaunchId) : Option Nat :=
  match s.pkgLaunch? key with
  | some p => p.s
  | none => none

/-- An issuing state for a range and a re-issue queue. -/
def ctxRest (c : Ctx) (ref : Nat) : Ctx :=
  if c.next < c.last ∨ c.requeue ≠ [] then { c with state := .active, stall := some ref }
  else { c with state := .hungry, stall := none, ask := ref }

/-- WALKER_START (R128, R138). -/
def execWalkerStart (s : State) : Host.Outcome State Fault Refusal :=
  match s.ctx? s.inp.n s.inp.key, s.startOf s.inp.key with
  | some c, some t =>
    if c.state = .armed ∧ t ≤ s.clk.gt then
      .next ((s.modCtx s.inp.n s.inp.key fun c => ctxRest c s.clk.ref).wantPlace s.inp.n)
    else .next s
  | _, _ => .next s

/-- Tiles of a launch are accounted for at a die (R147). -/
def State.account (s : State) (key : LaunchId) (die : Nat) (f : TileCounts → TileCounts) : State :=
  s.modPkg key fun p => { p with counts := FMap.set noTiles p.counts die (f (FMap.get noTiles p.counts die)) }

/-- Gives a range to a context that has none (R128, R130): a thief asks for one at a time, so none arrives where one is held. A
context that closes counts it as never started (R132, R151). -/
def State.rangeTo (s : State) (core : Nat) (key : LaunchId) (lo hi : Nat) : State :=
  match s.ctx? core key with
  | none => s
  | some c =>
    let s := s.modCtx core key fun c => { c with asked := false }
    if hi ≤ lo then s.modCtx core key fun c => { c with ask := s.clk.ref + 1000 }
    else
      match c.state with
      | .closing => s.account key (core / 64) fun n => { n with never := n.never + (hi - lo) }
      | _ =>
        if c.next < c.last then s
        else (s.modCtx core key fun c => { c with state := .active, next := lo, last := hi, stall := some s.clk.ref }).wantPlace core

/-- What a victim gives, and what it keeps (R132); nothing when it refuses. -/
def splitOf (c : Ctx) (ref : Nat) : Option (Nat × Nat × Ctx) :=
  match c.state with
  | .surrendering =>
    if c.next < c.last then some (c.next, c.last, ctxRest { c with last := c.next } ref) else none
  | .active | .armed =>
    let n := c.last - c.next
    if 2 ≤ n then
      let mid := c.next + (n + 1) / 2
      some (mid, c.last, { c with last := mid })
    else none
  | _ => none

/-- The victim a die relay chooses among contexts: a SURRENDERING one, of several the lowest logical core's (DESIGN CHOICE, log entry
114), else the largest range of at least two tiles, ties to the lowest logical core (R131). -/
def State.victimOf (s : State) (cs : List Ctx) : Option Ctx :=
  let better (a b : Ctx) : Bool :=
    let na := a.last - a.next
    let nb := b.last - b.next
    nb < na || (na == nb && (s.logical a.core).2 < (s.logical b.core).2)
  match cs.filter fun c => c.state == .surrendering && c.next < c.last with
  | c :: rest => some (rest.foldl (fun m x => if (s.logical x.core).2 < (s.logical m.core).2 then x else m) c)
  | [] =>
    match cs.filter fun c => (c.state == .active || c.state == .armed) && c.next + 2 ≤ c.last with
    | c :: rest => some (rest.foldl (fun m x => if better x m then x else m) c)
    | [] => none

/-- The victim on this package for a thief on a die: its own die first, then the others in ascending order (R131). -/
def State.pickVictim (s : State) (key : LaunchId) (die thief : Nat) : Option Ctx :=
  (die :: (List.range 4).filter fun d => d != die).findSome? fun d =>
    s.victimOf (s.lau.ctxs.filter fun c => c.key == key && c.core != thief && c.next < c.last && (s.logical c.core).1 == d)

/-- SPLIT within a package (R132): the thief, a core that is HUNGRY and asks nobody else, gets the victim's range, or none, in
the same step. -/
def State.split (s : State) (victim thief : Nat) (key : LaunchId) : State :=
  match s.ctx? thief key with
  | none => s
  | some t =>
    if t.state ≠ .hungry ∨ t.asked ∨ victim = thief then s
    else
      match (s.ctx? victim key).bind fun c => (splitOf c s.clk.ref).map fun x => (c, x) with
      | some (c, lo, hi, keep) => (s.modCtx c.core key fun _ => keep).rangeTo thief key lo hi
      | none => s.rangeTo thief key 0 0

/-- What this package's contexts give to a thief of another package; nothing where they refuse (R131, R132). -/
def State.giveAway (s : State) (key : LaunchId) : State × Option (Nat × Nat) :=
  match (s.pickVictim key 0 256).bind fun c => (splitOf c s.clk.ref).map fun x => (c, x) with
  | some (c, lo, hi, keep) => (s.modCtx c.core key fun _ => keep, some (lo, hi))
  | none => (s, none)

/-- The number of a thief for other packages: its package, die and logical core (R3, R131). -/
def State.thiefNo (s : State) (core : Nat) : Nat := 256 * s.own + 64 * (s.logical core).1 + (s.logical core).2

/-- A range, or its refusal, goes to a thief of a number. -/
def State.rangeOut (s : State) (thief : Nat) (key : LaunchId) (lo hi : Nat) : State :=
  if thief / 256 = s.own then s.rangeTo (s.physical (thief / 64 % 4) (thief % 64)) key lo hi
  else s.relayTo (thief / 256) (.range thief key lo hi)

/-- The core of a thief that this package's numbers name. -/
def State.thiefCore (s : State) (thief : Nat) : Nat := s.physical (thief / 64 % 4) (thief % 64)

/-- The pod relay has found a range for a thief, or none; a thief on a gated cluster receives it once its clock runs (R55). -/
def State.podGive (s : State) (key : LaunchId) (thief lo hi : Nat) : State :=
  let s := s.modPod key.seq fun p => { p with asks := p.asks.filter fun a => a.1 != thief }
  if thief / 256 = s.own ∧ s.isGated (clusterOf (s.thiefCore thief)) then
    s.post .rangeReceive { n := thief, m := lo, k := hi, key := key }
  else s.rangeOut thief key lo hi

/-- The victim for a thief of another package stands on a gated cluster: the request waits (R55). -/
def State.victimGated (s : State) (key : LaunchId) : Bool :=
  match s.pickVictim key 0 256 with | some c => s.isGated (clusterOf c.core) | none => false

/-- The pod relay tries packages for a thief in turn: this one at once, or when its victim's clock runs, another by message
(R55, R131). -/
def State.podTry (s : State) (key : LaunchId) (thief : Nat) : List Nat → State
  | [] => s.podGive key thief 0 0
  | k :: ks =>
    let asks (s : State) : State :=
      s.modPod key.seq fun p => { p with asks := (p.asks.filter fun a => a.1 != thief) ++ [(thief, ks)] }
    if k = s.own then
      if s.victimGated key then (asks s).post .split { m := thief, key := key, on := true }
      else
        match s.giveAway key with
        | (s, some (lo, hi)) => s.podGive key thief lo hi
        | (s, none) => s.podTry key thief ks
    else (asks s).relayTo k (.ask thief key)

/-- A package relay asks the pod relay for a thief: the other packages of the span are tried in ascending order (R131). -/
def State.podAsk (s : State) (key : LaunchId) (thief : Nat) : State :=
  match s.pod? key.seq with
  | none => s.rangeOut thief key 0 0
  | some p => s.podTry key thief ((podPkgs p).filter fun k => k != thief / 256 && (k == s.own || Config.podMembers.contains k))

/-- The pod relay tries its own package for a thief, its victim's clock running again (R55). -/
def State.ownAsked (s : State) (key : LaunchId) (thief : Nat) : Option (List Nat) :=
  match s.pod? key.seq with
  | some p => (p.asks.find? fun a => a.1 == thief).map fun a => a.2
  | none => none

/-- Work is asked for a thief of another package: of this pod relay, or by the pod relay of this package (R131). -/
def State.askIn (s : State) (key : LaunchId) (thief : Nat) : State :=
  if key.pod = s.own then
    match s.ownAsked key thief with
    | some ks => s.podTry key thief (s.own :: ks)
    | none => s.podAsk key thief
  else
    match s.giveAway key with
    | (s, some (lo, hi)) => s.relayTo key.pod (.range thief key lo hi)
    | (s, none) => s.relayTo key.pod (.range thief key 0 0)

/-- What a package gave for a thief: the pod relay hands it on, or tries the next package; at the thief's package it is received
(R131, R132). -/
def State.rangeIn (s : State) (thief : Nat) (key : LaunchId) (lo hi : Nat) : State :=
  match (s.pod? key.seq).bind fun p => if key.pod = s.own then p.asks.find? fun a => a.1 == thief else none with
  | some (_, ks) => if hi ≤ lo then s.podTry key thief ks else s.podGive key thief lo hi
  | none => s.rangeOut thief key lo hi

/-- RANGE_RECEIVE (R128). -/
def execRangeReceive (s : State) : Host.Outcome State Fault Refusal := .next (s.rangeIn s.inp.n s.inp.key s.inp.m s.inp.k)

/-- SPLIT (R132). -/
def execSplit (s : State) : Host.Outcome State Fault Refusal :=
  .next (if s.inp.on then s.askIn s.inp.key s.inp.m else s.split s.inp.n s.inp.m s.inp.key)

/-- STALL_TIMEOUT (R128). -/
def execStallTimeout (s : State) : Host.Outcome State Fault Refusal :=
  match s.ctx? s.inp.n s.inp.key with
  | some c =>
    match c.stall with
    | some t =>
      if c.state = .active ∧ c.next < c.last ∧ t + (s.reg .dspStallto 0).toNat % 2 ^ 32 ≤ s.clk.ref then
        .next (s.modCtx s.inp.n s.inp.key fun c => { c with state := .surrendering })
      else .next s
    | none => .next s
  | none => .next s

/-! ### Counts (R147, R151) -/

/-- The launch has a resident block on a die. -/
def State.dieBlocks (s : State) (key : LaunchId) (die : Nat) : Bool := s.cores.blocks.any fun b => b.key == key && b.core / 64 == die

/-- A die has counts to report: 10,000 REFTICKs have passed, or no block is resident there (R147). -/
def State.countsDue (s : State) (p : PkgLaunch) (die : Nat) : Bool :=
  FMap.get noTiles p.counts die != FMap.get noTiles p.told die
    && (!s.dieBlocks p.key die || (FMap.get 0 p.toldAt die + 10000 ≤ s.clk.ref : Bool))

/-- A package's counts: what its dies have reported. -/
def toldSum (p : PkgLaunch) : TileCounts :=
  p.told.foldl (fun a x => {
    retired := a.retired + x.2.retired, never := a.never + x.2.never, cancelled := a.cancelled + x.2.cancelled }) noTiles

/-- A cancelled launch with a list to write here has no block left (R151). -/
def State.listDue (s : State) (p : PkgLaunch) : Bool := p.canc && p.lrec.clist != 0 && !p.listed && !s.hasBlocks p.key

/-- TILE_COUNT_REPORT: a die's counts go up the chain (R147), after the list of R151 where that is due. -/
def State.reportCounts (s : State) (key : LaunchId) (die : Nat) : State :=
  match s.pkgLaunch? key with
  | none => s
  | some p =>
    let s := if s.listDue p then s.writeClist key else s
    if !s.countsDue p die then s
    else
      let p' := { p with
        told := FMap.set noTiles p.told die (FMap.get noTiles p.counts die), toldAt := FMap.set 0 p.toldAt die s.clk.ref }
      let s := s.modPkg key fun q => { q with told := p'.told, toldAt := p'.toldAt }
      if key.pod = s.own then s.post .tileCountUpdate { key := key, n := s.own, msg := .counts (toldSum p') }
      else s.relayTo key.pod (.counts key (toldSum p'))

/-- TILE_COUNT_REPORT (R147). -/
def execTileCountReport (s : State) : Host.Outcome State Fault Refusal := .next (s.reportCounts s.inp.key s.inp.n)

end Sys2Proof.Machine
end

