-- ==== Sys2Proof/Machine/Blocks.lean ====
section
/-! DEFINITION. Blocks on their cores: placement (R154 to R159), the ask for work (R131), stops (R177, R178, R189, R198),
and the ends of blocks (R147, R151, R179, R195 to R197). -/

namespace Sys2Proof.Machine
open Sys2Proof

/-! ### Fault records -/

/-- A relay's fault record: to the package relay's summary and to the log (R149, R192). -/
def State.relayFault (s : State) (key : LaunchId) (r : FaultRecord) : State := (s.pkgFault key r).logFault r

/-- Sends a block's records in the order they were made (R189). -/
def State.sendRecords (s : State) (b : Block) : State := b.records.foldl (fun (s : State) r => s.relayFault b.key r) s

/-! ### What is free on a core (R155, R204, R265) -/

/-- The blocks of a core. -/
def State.blocksOn (s : State) (core : Nat) : List Block := s.cores.blocks.filter fun b => b.core == core

/-- The groups of blocks that live on a partition. -/
def partGroups (bs : List Block) (part : Nat) : List (Block × Group) :=
  bs.flatMap fun b => (b.groups.filter fun g => g.gid % 4 == part).map fun g => (b, g)

/-- A group's wide and narrow runs as placed: base and size. -/
def wideRun (x : Block × Group) : Nat × Nat := ((x.2.segs.headD (0, 0)).1, runEntries (recWide x.1.lrec x.2.role))
def narrowRun (x : Block × Group) : Nat × Nat := (x.2.nrun.1, runEntries (recNarrow x.1.lrec x.2.role))

/-- Two ranges meet. -/
def rangesMeet (a b : Nat × Nat) : Bool := a.1 < b.1 + b.2 && b.1 < a.1 + a.2

/-- The lowest free run of a size, aligned on it, in a bank (R155, R156). -/
def freeRun (total size : Nat) (used : List (Nat × Nat)) : Option Nat :=
  if size = 0 then some 0
  else ((List.range (total / size)).map (· * size)).find? fun b => used.all fun u => !rangesMeet (b, size) u

/-- Entries of a bank that no run holds. -/
def freeEntries (total : Nat) (used : List (Nat × Nat)) : Nat := total - used.foldl (fun n u => n + u.2) 0

/-- Where a group is placed: its `gid`, group slot, wide and narrow run. -/
structure GroupSpot where
  gid  : Nat
  slot : Nat
  wide : Nat × Nat
  narrow : Nat × Nat
  deriving DecidableEq, Repr

/-- Where a block is placed. -/
structure Spot where
  groups : List GroupSpot
  ext    : Nat
  accts  : List Nat
  deriving DecidableEq, Repr

/-- What an allocation comes to; `frag` says that it fails although enough is free (R158). -/
inductive Fit where
  | ok (p : Spot)
  | no (frag : Bool)
  deriving DecidableEq, Repr

/-- One group's part of the footprint; `bs` are the core's blocks, `got` the groups allocated before it. -/
def fitGroup (r : LaunchRec) (bs : List Block) (got : List GroupSpot) (gid : Nat) : GroupSpot ⊕ Bool :=
  let part := gid % 4
  let role := roleOf r gid
  let others := partGroups bs part
  let mine := got.filter fun p => p.gid % 4 == part
  let slots := (others.map fun x => x.2.gslot % 16) ++ mine.map fun p => p.slot
  let wides := others.map wideRun ++ mine.map fun p => p.wide
  let narrows := others.map narrowRun ++ mine.map fun p => p.narrow
  let w := runEntries (recWide r role)
  let n := runEntries (recNarrow r role)
  match (List.range 16).find? fun k => !slots.contains k with
  | none => .inr false
  | some slot =>
    match freeRun 1024 w wides with
    | none => .inr (w ≤ freeEntries 1024 wides)
    | some wb =>
      match freeRun 512 n narrows with
      | none => .inr (n ≤ freeEntries 512 narrows)
      | some nb => .inl { gid := gid, slot := slot, wide := (wb, w), narrow := (nb, n) }

/-- The groups' parts in `gid` order. -/
def fitGroups (r : LaunchRec) (bs : List Block) : List Nat → List GroupSpot → List GroupSpot ⊕ Bool
  | [], got => .inl got
  | g :: gs, got =>
    match fitGroup r bs got g with
    | .inl p => fitGroups r bs gs (got ++ [p])
    | .inr f => .inr f

/-- The footprint of a record on a core whose blocks are `bs`, with `tiles` the accumulator tiles of its cluster in use
(R155, R156, R204). -/
def fitBlock (r : LaunchRec) (bs : List Block) (tiles : List Nat) : Fit :=
  match fitGroups r bs (List.range (recGroups r)) [] with
  | .inr f => .no f
  | .inl gs =>
    let n := extentBytes r
    let used := bs.map fun b => (b.ext, b.extLen)
    match ((List.range 128).map (· * 4096)).find? fun e => e + n ≤ 524288 && used.all fun u => !rangesMeet (e, n) u with
    | none => .no (n ≤ freeEntries 524288 used)
    | some ext =>
      let free := (List.range 4).filter fun t => !tiles.contains t
      if free.length < recAcct r then .no false else .ok { groups := gs, ext := ext, accts := free.take (recAcct r) }

/-- The accumulator tiles in use on a cluster by blocks a test keeps. -/
def State.tilesUsed (s : State) (cl : Nat) (keep : Block → Bool) : List Nat :=
  (s.cores.blocks.filter fun b => clusterOf b.core == cl && keep b).flatMap fun b => b.accts

/-- The footprint of a record on a core once only the blocks of a test are left there. -/
def State.fit (s : State) (core : Nat) (r : LaunchRec) (keep : Block → Bool) : Fit :=
  fitBlock r ((s.blocksOn core).filter keep) (s.tilesUsed (clusterOf core) fun b => b.core != core || keep b)

/-- The operating point of a cluster is that of a launch's power class, with the tail rails its fidelity requires
(R39, R40, R45). -/
def State.pointMatches (s : State) (cl : Nat) (r : LaunchRec) : Bool :=
  match s.th.rows.find? fun x => x.1 == recPclass r with
  | none => false
  | some (_, fmul, vcl, _) =>
    let v := s.field .pwrVcl cl 16 7
    let tail (lo : Nat) : Bool := s.field .pwrVtail cl lo 7 == v
    s.field .clkClf cl 0 6 == fmul && s.field .clkClf cl 31 1 == 1 && v == vcl && s.field .pwrVcl cl 31 1 == 0
      && (recFid r == 3 || tail 16) && (1 < recFid r || tail 8) && (recFid r != 0 || tail 0)

/-- The core takes part in a migration. -/
def State.isMoving (s : State) (core : Nat) : Bool := s.th.moves.any fun m => m.1 == core || m.2.1 == core

/-- R156 apart from the footprint; a die outside the job's partition takes none of its blocks (R85, log entry 59). -/
def State.coreOpen (s : State) (core : Nat) (r : LaunchRec) : Bool :=
  let cl := clusterOf core
  s.field .pwrCstat cl 0 1 == 0 && !s.isGated cl && !s.lau.holds.contains (core / 64) && s.pointMatches cl r
    && !s.isMoving core && (s.jobDies (recJob r)).getLsbD (core / 64)

/-! ### The order of placement (R129, R143, R157) -/

/-- A launch goes before another: higher PRIO, then lower order key. -/
def launchBefore (a b : PkgLaunch) : Bool :=
  let x := a.s.getD 0
  let y := b.s.getD 0
  recPrio b.lrec < recPrio a.lrec
    || (recPrio a.lrec == recPrio b.lrec
      && (x < y || (x == y && (a.key.pod < b.key.pod || (a.key.pod == b.key.pod && a.key.seq < b.key.seq)))))

/-- Inserts a launch in that order. -/
def insertLaunch (x : PkgLaunch) : List PkgLaunch → List PkgLaunch
  | [] => [x]
  | y :: ys => if launchBefore x y then x :: y :: ys else y :: insertLaunch x ys

/-- A core may take a saved block of a record (R152, R179). -/
def State.maySave (s : State) (core : Nat) (r : LaunchRec) : Bool :=
  let die := (s.logical core).1
  (s.launchDies r).getLsbD die && (s.eligible die r).contains core

/-- The saved blocks of a launch that a core may take, oldest first. -/
def State.savedFor (s : State) (core : Nat) (key : LaunchId) : List Saved :=
  s.cores.saved.filter fun v => v.block.key == key && s.maySave core v.block.lrec

/-- R143: no context of the core whose launch may start earlier is still RESERVED. -/
def State.mayBegin (s : State) (c : Ctx) (start : Nat) : Bool :=
  c.began || start + 3 ≤ s.clk.gt || (s.ctxsOf c.core).all fun x => x.state != .reserved

/-- The launches with something to place on a core, in order. -/
def State.issuers (s : State) (core : Nat) : List PkgLaunch :=
  (s.lau.pkgs.filter fun p => p.s.isSome &&
    (!(s.savedFor core p.key).isEmpty
      || match s.ctx? core p.key with | some c => ctxIssues c && s.mayBegin c (p.s.getD 0) | none => false)).foldl
    (fun acc p => insertLaunch p acc) []

/-! ### Placing a block (R154 to R156, R195) -/

/-- A fresh group at its spot (R154). -/
def freshGroup (s : State) (r : LaunchRec) (p : GroupSpot) : Group :=
  let role := roleOf r p.gid
  let w := 8 * recWide r role
  { gid := p.gid, role := role, gslot := 16 * (p.gid % 4) + p.slot, w := w, n := 8 * recNarrow r role
    segs := [(p.wide.1, w)], nrun := p.narrow
    pa := some { pc := s.resolve r.entry, mask := 0xFFFFFFFF, lastRun := s.cores.runSeq }
    lastRun := s.cores.runSeq, lastRef := s.clk.ref }

/-- Accumulator tiles read +0 at placement (R265). -/
def clearTiles (ts : List Nat) (c : Cluster) : Cluster :=
  { c with
    acc := c.acc.filter fun e => !ts.contains (e.1 / 65536), tail := c.tail.filter fun e => !ts.contains (e.1 / 65536)
    badAcc := c.badAcc.filter fun k => !ts.contains (k / 65536) }

/-- The scratch of an extent reads zero, and holds no error (R205). -/
def State.clearScratch (s : State) (core ext n : Nat) : State :=
  let lo := spaceKey (scratchSpace core) ext
  { s with fab := { s.fab with
      mem := s.fab.mem.filter fun c => c.1 < lo || lo + n ≤ c.1, bad := s.fab.bad.filter fun k => k < lo || lo + n ≤ k } }

/-- Places a fresh block of a tile (R154); the acquire its groups start with clears the L1 (R283, R295). -/
def State.placeFresh (s : State) (core : Nat) (p : PkgLaunch) (tile : Nat) (x : Spot) : State :=
  let b : Block := {
    uid := s.cores.nextUid, core := core, key := p.key, lrec := p.lrec, own := s.own, tile := tile, ext := x.ext
    extLen := extentBytes p.lrec, scr := 1024 * recScr p.lrec, divs := recDivs p.lrec, accts := x.accts
    groups := x.groups.map (freshGroup s p.lrec), born := s.clk.ref }
  let s := ((s.clearScratch core x.ext b.extLen).modCluster (clusterOf core) (clearTiles x.accts)).l1Clear core
  { s with cores := { s.cores with
      blocks := s.cores.blocks ++ [b], nextUid := b.uid + 1, runSeq := s.cores.runSeq + 2 } }

/-- The pieces that a segment's entries make once each run has moved: `mv` gives old base, size and new base. -/
def moveSegs (mv : List (Nat × Nat × Nat)) (segs : List (Nat × Nat)) : List (Nat × Nat) :=
  segs.map fun x =>
    match mv.find? fun m => m.1 ≤ x.1 && x.1 < m.1 + m.2.1 with
    | some m => (m.2.2 + (x.1 - m.1), x.2)
    | none => x

/-- A saved block at its new place before its image is read; its age and its lifetime count from this placement, not from the first
(R177; DESIGN CHOICE, log entry 60). -/
def movedBlock (s : State) (core : Nat) (x : Spot) (b : Block) : Block :=
  { b with
    core := core, own := s.own, ext := x.ext, accts := x.accts, stop := none, drain := false, records := [], waits := none
    requeue := false, born := s.clk.ref }

/-- Restores the groups of a resumed block (R195): segments move with the runs. -/
def restoredGroups (s : State) (va : DWord) (old : Block) (x : Spot) : List Group :=
  let mv := old.groups.map fun g =>
    let r := wideRun (old, g)
    (r.1, r.2, match x.groups.find? fun p => p.gid == g.gid with | some p => p.wide.1 | none => r.1)
  (List.zip (areaStarts old.groups) old.groups).map fun y =>
    let g := s.readGroup va old y.1 y.2
    match x.groups.find? fun p => p.gid == g.gid with
    | some p => { g with gslot := 16 * (g.gid % 4) + p.slot, nrun := p.narrow, segs := moveSegs mv g.segs }
    | none => g

/-- A tile that is retired, or ends with a fault (R147). -/
def State.countRetired (s : State) (key : LaunchId) (die : Nat) : State :=
  s.account key die fun n => { n with retired := n.retired + 1 }

/-- A saved block leaves the pool. -/
def State.dropSaved (s : State) (uid : Nat) : State :=
  { s with cores := { s.cores with saved := s.cores.saved.filter fun v => v.block.uid != uid } }

/-- A block that is lost in a save or at its resume: SAVEFAIL or NOPLACE, and its tile is retired with a fault (R152,
R196, R197). -/
def State.loseBlock (s : State) (b : Block) (code : Nat) (addr : DWord) : State :=
  let r := s.relayRecord code (recJob b.lrec) (s.resolve addr) (some b.tile)
  ((s.traceRelay r).relayFault b.key r).countRetired b.key (b.core / 64)

/-- What placing one block comes to. -/
inductive Placed where
  | placed (s : State)
  | blocked (s : State) (frag : Bool)
  /-- its image waits for a page -/
  | waits (s : State)
  deriving DecidableEq, Repr

/-- Both planes that an image owns are free on a cluster (R271). -/
def State.planesFree (s : State) (v : Saved) (cl : Nat) : Bool :=
  let x := s.cluster cl
  (!s.imgOwns v.slot v.block 0 || x.active.owner.isNone) && (!s.imgOwns v.slot v.block 1 || x.shadow.owner.isNone)

/-- Resumes a saved block on a core, or ends it with SAVEFAIL; the acquire of R296 clears the L1. -/
def State.placeSaved (s : State) (core : Nat) (p : PkgLaunch) (v : Saved) : Placed :=
  let lost (va : DWord) : Placed := .placed ((s.dropSaved v.block.uid).loseBlock v.block codeSavefail va)
  match s.poolCheck .load v.slot (imgSize v.block) with
  | some (page, some cause) =>
    let since := match v.waits with | some x => x.2 | none => s.clk.ref
    if s.pftoOver core since then lost page
    else
      let s := s.poolAbsent .load core page cause
      .waits { s with cores := { s.cores with saved := s.cores.saved.map fun w =>
        if w.block.uid == v.block.uid then { w with waits := some (core, since) } else w } }
  | some (page, none) => lost page
  | none =>
    if !s.imageOk v.slot v.block (p.s.getD 0) v.units then lost v.slot
    else if !s.planesFree v (clusterOf core) then .blocked s false
    else
      match s.fit core v.block.lrec fun _ => true with
      | .no f => .blocked s f
      | .ok x =>
        let b := movedBlock s core x v.block
        let b := { b with groups := restoredGroups s v.slot v.block x }
        let s := ((s.modCluster (clusterOf core) (clearTiles x.accts)).readPlaces v.slot v.block b).poolGather .load core v.slot
          (imgSize v.block)
        let s := ((s.dropSaved b.uid).l1Clear core).unready (clusterOf core)
        .placed { s with cores := { s.cores with blocks := s.cores.blocks ++ [b], runSeq := s.cores.runSeq + 2 } }

/-- A context after it has issued its head tile (R128, R129). -/
def ctxIssued (ref : Nat) (c : Ctx) : Ctx :=
  let c := { c with began := true }
  let c := match c.requeue with
    | _ :: ts => { c with requeue := ts }
    | [] => { c with next := c.next + 1, stall := some ref, state := if c.state = .surrendering then .active else c.state }
  if c.next < c.last ∨ !c.requeue.isEmpty then c
  else { c with state := .hungry, stall := none, ask := ref }

/-- Tries to place the first thing a launch has to place on a core: a saved block, else its context's next tile (R129,
R157). -/
def State.tryPlace (s : State) (core : Nat) (p : PkgLaunch) : Placed :=
  if !s.coreOpen core p.lrec then .blocked s false
  else
    match s.savedFor core p.key with
    | v :: _ => s.placeSaved core p v
    | [] =>
      match s.ctx? core p.key with
      | none => .blocked s false
      | some c =>
        match s.fit core p.lrec fun _ => true with
        | .no f => .blocked s f
        | .ok x =>
          let tile := match c.requeue with | t :: _ => t | [] => c.next
          .placed ((s.placeFresh core p tile x).modCtx core p.key (ctxIssued s.clk.ref))

/-! ### Pre-emption (R159, R177, R178) -/

/-- A group waits where it may stop at once: it is between runs and not parked. -/
def State.atRest (s : State) (uid : Nat) (g : Group) : Bool :=
  g.park.isNone && !g.dead && !g.exited && !(s.cores.runs.any fun r => r.blk == uid && r.gid == g.gid)

/-- Gives a block a reason to stop: groups between runs stop here, and the participants of cluster barriers withdraw
(R178, R440). -/
def State.stopBlock (s : State) (uid : Nat) (why : Stop) : State :=
  match s.block? uid with
  | none => s
  | some b =>
    let s := s.modBlock uid fun b => { b with stop := some why }
    let s := s.modBlock uid fun b => { b with groups := b.groups.map fun g => if s.atRest uid g then { g with stopped := true } else g }
    b.groups.foldl (fun (s : State) g =>
      let s := if g.park.isSome || s.atRest uid g then s.sendDepotOf uid g.gid else s
      (s.withdraw uid g.gid).settle uid g.gid) s

/-- Free units of the save pool for n units: their index (R179). -/
def State.poolFind (s : State) (n : Nat) : Option Nat :=
  let base := s.resolve (s.reg .dspSpbase 0)
  let size := s.field .dspSpsize 0 0 20
  let used := s.cores.saved.map fun v => ((v.slot - base).toNat / 65536, v.units)
  (List.range size).find? fun k => k + n ≤ size && used.all fun u => !rangesMeet (k, n) u

/-- Units a block's image takes. -/
def imgUnits (b : Block) : Nat := (imgSize b + 65535) / 65536

/-- The three ways out (R177). -/
inductive Leave where
  | drain | save | flush
  deriving DecidableEq, Repr

/-- The device's choice for a victim under a bound; no bound where it is none (R177). The mean lifetime is rounded down to whole
REFTICKs (DESIGN CHOICE, log entry 60). -/
def State.leaveBy (s : State) (b : Block) (bound : Option Nat) : Leave :=
  match bound with
  | none => .drain
  | some lim =>
    let age := s.clk.ref - b.born
    let lives := match s.lau.lives.find? fun x => x.1 == (b.key, b.core / 64) with | some x => x.2 | none => []
    let mean := lives.foldl (· + ·) 0 / lives.length
    let ops := b.groups.foldl (fun n g => n + (g.engs.filter fun e => !e.done).length) 0
    let lsave := (imgSize b + 255) / 256 + 200 * ops
    let flush := recRestart b.lrec && match s.ctx? b.core b.key with | some c => c.requeue.length + c.held < 16 | none => false
    let save := (s.poolFind (imgUnits b)).isSome
    if !lives.isEmpty && mean - age ≤ lim then .drain
    else if flush && save && lsave ≤ lim then (if age < lsave then .flush else .save)
    else if flush then .flush
    else if save then .save
    else .drain

/-- Asks a block to leave (R178). -/
def State.preempt (s : State) (b : Block) (bound : Option Nat) : State :=
  let s := (s.countCore 0x000B b.core).trace 3 b.core (s.logical b.core).2 0 0 b.tile
  match s.leaveBy b bound with
  | .drain => s.modBlock b.uid fun b => { b with drain := true }
  | .save => s.stopBlock b.uid .save
  | .flush =>
    ((s.modCtx b.core b.key fun c => { c with held := c.held + 1 }).modBlock b.uid fun b => { b with requeue := true }).stopBlock
      b.uid .flush

/-- A victim goes before another (R159). -/
def State.victimBefore (s : State) (a b : Block) : Bool :=
  let key (x : Block) : Nat × Nat × Nat × Nat := ((s.startOf x.key).getD 0, x.key.pod, x.key.seq, x.tile)
  let ka := key a
  let kb := key b
  recPrio a.lrec < recPrio b.lrec
    || (recPrio a.lrec == recPrio b.lrec
      && (kb.1 < ka.1 || (kb.1 == ka.1 && (kb.2.1 < ka.2.1 || (kb.2.1 == ka.2.1
        && (kb.2.2.1 < ka.2.2.1 || (kb.2.2.1 == ka.2.2.1 && kb.2.2.2 < ka.2.2.2)))))))

/-- Inserts a block in that order. -/
def State.insertVictim (s : State) (x : Block) : List Block → List Block
  | [] => [x]
  | y :: ys => if s.victimBefore x y then x :: y :: ys else y :: s.insertVictim x ys

/-- A block is on its way out already. -/
def leaving (b : Block) : Bool := b.stop.isSome || b.drain

/-- The least number of victims whose removal makes room, with the blocks of lower PRIO that leave already (R159). -/
def State.victims (s : State) (core : Nat) (r : LaunchRec) (vs : List Block) : Option (List Block) :=
  (List.range (vs.length + 1)).findSome? fun n =>
    let gone := vs.take n
    match s.fit core r fun b => !(leaving b && recPrio b.lrec < recPrio r) && !(gone.any fun v => v.uid == b.uid) with
    | .ok _ => some gone
    | .no _ => none

/-- The head of a core's order cannot be placed: pre-emption where a lower PRIO allows it (R159). -/
def State.preemptFor (s : State) (core : Nat) (p : PkgLaunch) : State :=
  if !s.coreOpen core p.lrec then s
  else
    let low := (s.blocksOn core).filter fun b => recPrio b.lrec < recPrio p.lrec && !leaving b
    let order := low.foldl (fun acc b => s.insertVictim b acc) []
    match s.victims core p.lrec order with
    | some vs => vs.foldl (fun (s : State) b => s.preempt b (if recPlat p.lrec = 0 then none else some (recPlat p.lrec))) s
    | none => s

/-- Notes a fragmented placement (R158). -/
def State.noteFrag (s : State) (core : Nat) : State :=
  (s.setReg .dspFragcnt core (BitVec.ofNat 64 (min (2 ^ 32 - 1) ((s.reg .dspFragcnt core).toNat + 1)))).countCore 0x000A core

/-- Attempts placement on a core until its head cannot be placed (R157); a partition holds at most 16 groups. -/
def State.attempt (s : State) (core : Nat) : Nat → State
  | 0 => s
  | fuel + 1 =>
    match s.issuers core with
    | [] => s
    | p :: _ =>
      match s.tryPlace core p with
      | .placed s => s.attempt core fuel
      | .blocked s frag => (if frag then s.noteFrag core else s).preemptFor core p
      | .waits s => s

/-- PLACEMENT_ATTEMPT (R157). -/
def execPlacementAttempt (s : State) : Host.Outcome State Fault Refusal := .next (s.attempt s.inp.n 80)

/-! ### Asking for work (R131) -/

/-- WORK_REASK_TIMER (R131): a thief whose core can place a block of the launch asks its own die's contexts, the other
dies' in ascending order, and then, by the pod relay, the span's other packages. -/
def State.askWork (s : State) (core : Nat) (key : LaunchId) : State :=
  match s.ctx? core key, s.pkgLaunch? key with
  | some c, some p =>
    let room := s.coreOpen core p.lrec && (match s.fit core p.lrec fun _ => true with | .ok _ => true | .no _ => false)
    if c.state ≠ .hungry ∨ c.asked ∨ s.clk.ref < c.ask ∨ !room then s
    else
      let s := s.modCtx core key fun c => { c with ask := s.clk.ref + 1000 }
      match s.pickVictim key (s.logical core).1 core with
      | some v => s.post .split { n := v.core, m := core, key := key }
      | none =>
        if (recPkgs s.own p.lrec).length < 2 then s
        else
          let s := s.modCtx core key fun c => { c with asked := true }
          if key.pod = s.own then s.podAsk key (s.thiefNo core) else s.relayTo key.pod (.ask (s.thiefNo core) key)
  | _, _ => s

/-- WORK_REASK_TIMER (R131). -/
def execWorkReaskTimer (s : State) : Host.Outcome State Fault Refusal := .next (s.askWork s.inp.n s.inp.key)

/-! ### When a block may leave -/

/-- A parked group counts as stopped; one in LAUNCH only when its block ends for a fault (R189, R475). -/
def parkStops (why : Option Stop) (g : Group) : Bool :=
  match g.park with
  | some k => match k.cond with | .launch _ => why == some .fault | _ => true
  | none => false

/-- Every group has stopped, ended, or faulted with its record made, and none waits for a register. -/
def State.allStopped (s : State) (b : Block) : Bool :=
  b.groups.all fun g =>
    !pendLive g && !(s.cores.runs.any fun r => r.blk == b.uid && r.gid == g.gid)
      && (g.exited || (if g.dead then g.recorded else g.stopped || parkStops b.stop g))

/-- A request or a side-log entry belongs to a block. -/
def ofBlock (uid : Nat) (r : Req) : Bool :=
  match r.who with
  | .group b _ _ => b == uid
  | _ => false

/-- Every asynchronous operation and every access of a block is complete, and no copy into its window is under way;
with `handed`, entries that are or can be handed on do not count (R115, R178). -/
def State.quiet (s : State) (b : Block) (handed : Bool) : Bool :=
  b.groups.all (fun g => g.engs.isEmpty && g.ops.all fun o => o.dest == .none)
    && s.fab.reqs.all (fun r => !ofBlock b.uid r || r.kind == .prefetch)
    && s.fab.side.all (fun e => !ofBlock b.uid e.req || handed)
    && !s.winBusy b.uid

/-- Errors that have reached stopped or parked groups are delivered before the block leaves (R183, R198). -/
def State.takeErrors (s : State) (b : Block) : State :=
  b.groups.foldl (fun (s : State) g => if g.dead || g.cands.isEmpty then s else s.deliver b.uid g.gid) s

/-- Some group has an error not yet delivered. -/
def hasErrors (b : Block) : Bool := b.groups.any fun g => !g.dead && !g.cands.isEmpty

/-- The footprint of a block is freed with its planes, window and barrier places; its core attempts placement, and with
accumulator tiles or planes every core of its cluster (R157, R216, R259, R440). -/
def State.removeBlock (s : State) (b : Block) : State :=
  let s := b.groups.foldl (fun (s : State) g => s.withdraw b.uid g.gid) s
  let mine (r : Req) : Bool := match r.who with
    | .watch u _ => u == b.uid
    | .fetch u _ _ => u == b.uid
    | _ => false
  let free (p : Plane) : Plane := if p.owner == some b.uid then { p with owner := none } else p
  let x := s.cluster (clusterOf b.core)
  let alone := b.accts.isEmpty && x.active.owner != some b.uid && x.shadow.owner != some b.uid
  let s := s.modCluster (clusterOf b.core) fun c => { c with active := free c.active, shadow := free c.shadow }
  let s : State := { s with
    fab := { s.fab with
      reqs := s.fab.reqs.filter fun r => !mine r
      got := s.fab.got.filter fun r => !mine r }
    cores := { s.cores with
      blocks := s.cores.blocks.filter fun x => x.uid != b.uid
      runs := s.cores.runs.filter fun r => r.blk != b.uid
      windows := s.cores.windows.filter fun w => w.2.blk != b.uid } }
  let s := if b.requeue then s.modCtx b.core b.key fun c => { c with held := c.held - 1 } else s
  (if alone then [b.core] else (List.range 4).map (4 * clusterOf b.core + ·)).foldl (fun (s : State) k => s.wantPlace k) s

/-- A lifetime joins those of its launch on its die, newest first, at most 16 (R177). -/
def State.noteLife (s : State) (b : Block) : State :=
  let k := (b.key, b.core / 64)
  let old := match s.lau.lives.find? fun x => x.1 == k with | some x => x.2 | none => []
  s.modLau fun l => { l with lives := (k, ((s.clk.ref - b.born) :: old).take 16) :: l.lives.filter fun x => x.1 != k }

/-- BLOCK_RETIRE (R115, R147). -/
def State.retire (s : State) (uid : Nat) : State :=
  match s.block? uid with
  | none => s
  | some b =>
    if !(b.groups.all fun g => g.exited && !g.dead) || !s.quiet b false then s
    else if hasErrors b then s.takeErrors b
    else ((s.noteLife b).removeBlock b).countRetired b.key (b.core / 64)

/-- BLOCK_RETIRE (R147). -/
def execBlockRetire (s : State) : Host.Outcome State Fault Refusal := .next (s.retire s.inp.n)

/-- FAULT_BLOCK_END (R189). -/
def State.faultEnd (s : State) (uid : Nat) : State :=
  match s.block? uid with
  | none => s
  | some b =>
    if b.stop ≠ some .fault ∨ !s.allStopped b ∨ !s.quiet b false then s
    else if hasErrors b then s.takeErrors b
    else ((s.removeBlock b).sendRecords b).countRetired b.key (b.core / 64)

/-- FAULT_BLOCK_END (R189). -/
def execFaultBlockEnd (s : State) : Host.Outcome State Fault Refusal := .next (s.faultEnd s.inp.n)

/-! ### Cancellation (R151, R179, R198) -/

/-- A tile is cancelled while resident (R151). -/
def State.countCancelled (s : State) (key : LaunchId) (die tile : Nat) : State :=
  (s.account key die fun n => { n with cancelled := n.cancelled + 1 }).modPkg key fun p => { p with cancd := p.cancd ++ [tile] }

/-- Stops the resident blocks of a cancelled launch; one that migrates, or stands on a gated cluster, waits (R55, R182). -/
def State.cancelBlocks (s : State) (key : LaunchId) : State :=
  (s.cores.blocks.filter fun b => b.key == key && b.stop != some .fault && b.stop != some .cancel && b.stop != some .migrate
      && !s.isGated (clusterOf b.core)).foldl (fun (s : State) b =>
    let s := if b.requeue then
        (s.modCtx b.core key fun c => { c with held := c.held - 1 }).modBlock b.uid fun b => { b with requeue := false } else s
    s.stopBlock b.uid .cancel) s

/-- What closing contexts of a launch have not issued is never started (R151); one on a gated cluster keeps it until the gate opens
(R55). -/
def State.closeRanges (s : State) (key : LaunchId) : State :=
  let cs := s.lau.ctxs.filter fun c => c.key == key && c.state == .closing && (c.next < c.last || !c.requeue.isEmpty)
    && !s.isGated (clusterOf c.core)
  let s := cs.foldl (fun (s : State) c => s.modCtx c.core key fun c => { c with last := c.next, requeue := [] }) s
  cs.foldl (fun (s : State) c => s.account key (c.core / 64) fun n => {
    n with never := n.never + (c.last - c.next) + c.requeue.length }) s

/-- A cancel of a committed launch at its package: contexts close, saved blocks end, resident blocks stop (R128, R151,
R179). -/
def State.cancelPkg (s : State) (key : LaunchId) : State :=
  match s.pkgLaunch? key with
  | none => s
  | some p =>
    if p.canc || p.s.isNone then s
    else
      let cs := s.lau.ctxs.filter fun c => c.key == key && c.state != .reserved && c.state != .closing
      let s := cs.foldl (fun (s : State) c => s.modCtx c.core key fun c => { c with state := .closing, stall := none }) s
      let s := (s.modPkg key fun p => { p with canc := true }).closeRanges key
      let s := (s.cores.saved.filter fun v => v.block.key == key).foldl (fun (s : State) v =>
        (s.dropSaved v.block.uid).countCancelled key (v.block.core / 64) v.block.tile) s
      s.cancelBlocks key

/-- What a cancel message says where it names no launch this package holds: news of another package's cancel, or the cancel of a
launch given up (R150, R151). -/
def State.cancelNews (s : State) : State :=
  match s.inp.msg with
  | .cancelBy token kind ident job => s.takeCancel s.inp.n token kind ident job
  | .cancelled token never => s.modLau fun l => { l with asked := l.asked.map fun a => if a.1 == token then (token, some never) else a }
  | .cancelOver token => s.modLau fun l => { l with foreign := l.foreign.filter fun c => !(c.pkg == s.inp.n && c.token == token) }
  | _ => s.lostClist s.inp.key

/-- CANCEL_MSG (R150, R151): with `on`, or from another package's pod relay, a launch's cancel at this package, or news of a cancel
that names no launch; otherwise a cancel of one of this pod relay's launches. -/
def execCancelMsg (s : State) : Host.Outcome State Fault Refusal :=
  if s.inp.on ∨ s.inp.key.pod ≠ s.own then
    match s.pkgLaunch? s.inp.key with
    | some _ => .next (s.cancelPkg s.inp.key)
    | none => .next s.cancelNews
  else
    match s.pod? s.inp.key.seq with
    | some p => .next (s.cancelPod p)
    | none => .next s

/-- CANCELLED_BLOCK_REMOVE (R151). -/
def State.cancelEnd (s : State) (uid : Nat) : State :=
  match s.block? uid with
  | none => s
  | some b =>
    if b.stop ≠ some .cancel ∨ !s.allStopped b ∨ !s.quiet b false ∨ s.isGated (clusterOf b.core) then s
    else if hasErrors b then s.takeErrors b
    else ((s.removeBlock b).sendRecords b).countCancelled b.key (b.core / 64) b.tile

/-- CANCELLED_BLOCK_REMOVE (R151). -/
def execCancelledBlockRemove (s : State) : Host.Outcome State Fault Refusal := .next (s.cancelEnd s.inp.n)

/-! ### Save and flush (R178, R179, R197) -/

/-- A block's side-log entries are handed to the park tables of their homes, which count them (R115, R302). -/
def State.handOn (s : State) (uid : Nat) : State :=
  let s := (s.fab.side.filter fun e => ofBlock uid e.req && !e.handed && s.isOwn e.page).foldl
    (fun (s : State) e => s.countDie 0x0009 e.home) s
  { s with fab := { s.fab with side := s.fab.side.map fun e => if ofBlock uid e.req then { e with handed := true } else e } }

/-- A core whose launch has a saved block attempts placement (R157, R179). -/
def State.offerSaved (s : State) (r : LaunchRec) : State :=
  let cores := ((List.range 4).filter fun d => (s.launchDies r).getLsbD d).flatMap fun d => s.eligible d r
  cores.foldl (fun (s : State) k => s.wantPlace k) s

/-- Some eligible core of the job's partition can take a record's blocks (R85, R152). -/
def State.placeable (s : State) (r : LaunchRec) : Bool :=
  (List.range 4).any fun d => (s.launchDies r).getLsbD d && (s.eligible d r).any fun k => (s.jobDies (recJob r)).getLsbD (k / 64)

/-- The saved blocks of this package that no eligible core of their job's partition could ever take end with NOPLACE (R152). -/
def State.dropUnplaceable (s : State) : State :=
  (s.cores.saved.filter fun v => !s.placeable v.block.lrec).foldl (fun (s : State) v =>
    (s.dropSaved v.block.uid).loseBlock v.block codeNoplace 0) s

/-- A save: the image goes to the pool, or the block is lost (R178, R197); one that no core may take any more ends (R152). -/
def State.saveBlock (s : State) (b : Block) : State :=
  match s.poolFind (imgUnits b) with
  | none => (s.removeBlock b).loseBlock b codeSavefail (s.reg .dspSpbase 0)
  | some k =>
    let va := s.resolve (s.reg .dspSpbase 0) + BitVec.ofNat 64 (65536 * k)
    let b := { b with groups := b.groups.map fun g => { g with park := none, stopped := false, pend := [] } }
    match s.writeImage b ((s.startOf b.key).getD 0) va with
    | .wait page cause =>
      let since := b.waits.getD s.clk.ref
      if s.pftoOver b.core since then (s.removeBlock b).loseBlock b codeSavefail page
      else (s.poolAbsent .store b.core page cause).modBlock b.uid fun b => { b with waits := some since }
    | .fail p => (s.removeBlock b).loseBlock b codeSavefail p
    | .ok s =>
      let s := (s.handOn b.uid).removeBlock b
      let v : Saved := { slot := va, units := imgUnits b, block := b }
      (({ s with cores := { s.cores with saved := s.cores.saved ++ [v] } }).dropUnplaceable).offerSaved b.lrec

/-- A flushed tile enters its context's re-issue queue (R128, R178). -/
def State.requeueTile (s : State) (b : Block) : State :=
  (s.modCtx b.core b.key fun c =>
    let c := { c with requeue := insertNat b.tile c.requeue }
    if c.state = .hungry then { c with state := .active, stall := none } else c).wantPlace b.core

/-- PREEMPTION_STOP_COMPLETE (R178). -/
def State.stopDone (s : State) (uid : Nat) : State :=
  match s.block? uid with
  | none => s
  | some b =>
    if !s.allStopped b ∨ !s.quiet b true ∨ s.isGated (clusterOf b.core) then s
    else if hasErrors b then s.takeErrors b
    else
      let s := b.groups.foldl (fun (s : State) g => s.withdraw b.uid g.gid) s
      let b := (s.block? uid).getD b
      match b.stop with
      | some .save => s.saveBlock b
      | some .flush => ((s.handOn uid).removeBlock b).requeueTile b
      | _ => s

/-- PREEMPTION_STOP_COMPLETE (R178). -/
def execPreemptionStopComplete (s : State) : Host.Outcome State Fault Refusal := .next (s.stopDone s.inp.n)

end Sys2Proof.Machine
end

