-- ==== Sys2Proof/Machine/Nest.lean ====
section
/-! DEFINITION. NEST (R463, R464) and the loop buffer (R350, R465 to R468). -/

namespace Sys2Proof.Machine
open Sys2Proof

/-! ### NEST -/

/-- The extents of the dimensions present (R349). -/
def nestDims (p : BitVec 180) : List Nat := ((List.range 5).map (nestExtent p)).filter fun n => n != 0

/-- The number of index tuples. -/
def nestCount (p : BitVec 180) : Nat := (nestDims p).foldl (· * ·) 1

/-- The offset operand q (0 D, 1 A, 2 B) reaches on step t from its base, with elements of z bytes (R464). -/
def nestOff (p : BitVec 180) (z q base t : Nat) : Int :=
  let is := digitsFirst (nestDims p) t
  base + z * (List.range is.length).foldl (fun acc k => acc + is.getD k 0 * nestStride p (5 * q + k)) (0 : Int)

/-- The operands a NEST uses with their bases, in the order of a step: A, B, D. -/
def nestBases (c : Cur) (o : Op) : List (Nat × Nat) :=
  if o.kEng = 0 then [(1, uniNat c o.a), (0, uniNat c o.d)]
  else [(1, uniNat c o.a), (2, uniNat c o.b), (0, uniNat c o.d)]

/-- The first offset in iteration order that lies outside program scratch (R464). -/
def nestOutside (c : Cur) (o : Op) : Option Int :=
  (List.range (nestCount o.payload)).findSome? fun t =>
    ((nestBases c o).map fun q => nestOff o.payload o.ty.bytes q.1 q.2 t).find? fun a =>
      a < 0 || (c.blk.scr : Int) < a + o.ty.bytes

/-- Checks of NEST (R464). -/
def nestFaults (c : Cur) (o : Op) : List FaultInfo :=
  let ls := guardedIn c o
  (match (nestBases c o).find? fun q => q.2 % o.ty.bytes != 0 with
    | some q => [{ code := codeMisalign, lanes := ls, addr := BitVec.ofNat 64 q.2 }]
    | none => [])
  ++ (match nestOutside c o with
    | some a => [{ code := codeScrbound, lanes := ls, addr := (BitVec.ofInt 32 a).setWidth 64 }]
    | none => [])
  ++ countFaults c .nest ls

/-- One step's result (R463). -/
def nestVal (k : Nat) (t : Ty) (a b : Nat) : Nat :=
  match k with
  | 0 => a
  | 1 => atomNew .add t a b 0
  | 2 =>
    match t.fmt with
    | some f => roundVal f .rne false 0 ((decFmt f a).add .rne (decFmt f b).neg)
    | none => wrapNat t.width (intOf t a - intOf t b)
  | 3 =>
    match t.fmt with
    | some f => roundVal f .rne false 0 ((decFmt f a).mul (decFmt f b))
    | none => wrapNat t.width (intOf t a * intOf t b)
  | 4 => atomNew .min t a b 0
  | 5 => atomNew .max t a b 0
  | 6 => a &&& b
  | 7 => a ||| b
  | _ => a ^^^ b

/-- NEST (R463, R464): checked and counted at issue, carried out by its engine. -/
def execNest (o : Op) (s : State) : Host.Outcome State Fault Refusal :=
  issueEngine 0x220 o s (fun c => nestFaults c o) fun c s =>
    afterAcquires c (fun s =>
      let (s, id) := s.beginEng c .nest (guardedIn c o)
      let n : NestOp := {
        op := id, blk := c.run.blk, gid := c.run.gid, k := o.kEng.toNat, ty := o.ty, d := (laneVal c o.d 0).toNat
        a := (laneVal c o.a 0).toNat, b := (laneVal c o.b 0).toNat, p := o.payload }
      finish c o { s with cores := { s.cores with nests := s.cores.nests ++ [n] } }) s

/-- One step of a queued NEST on memory. -/
def nestStep (b : Block) (n : NestOp) (m : Memory) (t : Nat) : Memory :=
  let z := n.ty.bytes
  let key (q base : Nat) : Nat := spaceKey (scratchSpace b.core) (b.ext + (nestOff n.p z q base t).toNat)
  m.setNum (key 0 n.d) z (nestVal n.k n.ty (m.num (key 1 n.a) z) (m.num (key 2 n.b) z))

/-- The offset a step of a queued NEST reads that holds an uncorrectable error (R190). -/
def State.nestBad (s : State) (b : Block) (n : NestOp) (t : Nat) : Option Nat :=
  let z := n.ty.bytes
  let off (q base : Nat) : Nat := (nestOff n.p z q base t).toNat
  (if n.k = 0 then [off 1 n.a] else [off 1 n.a, off 2 n.b]).find? fun a => s.uncorrIn (scrKey b a) z

/-- The first step of a queued NEST that fails, and the offset it reads. -/
def State.nestFail (s : State) (b : Block) (n : NestOp) : Option (Nat × Nat) :=
  (List.range (nestCount n.p)).findSome? fun t => (s.nestBad b n t).map fun a => (t, a)

/-- An error of the nest engine: imprecise, ENGINE KIND 4 (R188, R447). -/
def nestCand (g : Group) (n : NestOp) (off : Nat) : List Cand :=
  (g.engs.filter fun e => e.id == n.op).map fun e =>
    { site := e.site, code := codeUncorr, prec := 2, stat := 0, lanes := e.site.lanes, aux := 0
      addr := BitVec.ofNat 64 off, eng := 0x4000 }

/-- NEST_COMPLETE: the oldest NEST of a group has made its steps in order, up to one that reads an uncorrectable error, and
its counter falls (R190, R289, R464). -/
def State.nestDone (s : State) (uid gid : Nat) : State :=
  match s.cores.nests.find? fun n => n.blk == uid && n.gid == gid, s.block? uid, s.group? uid gid with
  | some n, some b, some g =>
    let fail := s.nestFail b n
    let steps := match fail with | some x => x.1 | none => nestCount n.p
    let mem := (List.range steps).foldl (nestStep b n) s.fab.mem
    ({ s with
      fab := { s.fab with mem := mem }
      cores := { s.cores with nests := s.cores.nests.filter fun x => x.op != n.op } }).endEng uid gid n.op
        (match fail with | some x => nestCand g n x.2 | none => [])
  | _, _, _ => s

/-! ### The loop buffer -/

/-- LBUF once its body has been read: no trip, or the loop begins (R466). -/
def lbufGo (c : Cur) (o : Op) (body : List (BitVec 10 × Op)) (words : Nat) (s : State) : State :=
  let start := c.path.pc + 32
  let next := if lbufTrips o = 0 then start + BitVec.ofNat 64 (8 * words) else start
  match joinFault s c next with
  | f :: _ => raise c f s
  | [] =>
    let s := s.fetchFills c words start
    if lbufTrips o = 0 then finishAt c o next s
    else
      let lb : LoopBuf := {
        pc := c.path.pc, trips := lbufTrips o, trip := 0, place := 0, body := body, stride := laneVal c o.a 0, sel := lbufSel o }
      finishAt c o next (s.modPath c fun p => { p with loop := some lb })

/-- The body an LBUF names. -/
def State.lbufBody (s : State) (c : Cur) (o : Op) : BodyRead := s.readBody c (lbufSel o) (lbufLen o) 0 (c.path.pc + 32)

/-- ILLEGAL of an LBUF's selector of a field that is no register (R350, R363). -/
def selectorFaults (s : State) (c : Cur) (o : Op) : List FaultInfo :=
  match s.lbufBody c o with
  | .selector w => [{ code := codeIllegal, lanes := activeLanes s c o, aux := BitVec.ofNat 32 w }]
  | _ => []

/-- A line of the body that an LBUF still waits for: its own decoding, which comes before its other checks, needs it. -/
def State.lbufLine (s : State) (c : Cur) (o : Op) : Option DWord :=
  match checkOp 0x221 o, s.lbufBody c o with
  | none, .wait line => some line
  | _, _ => none

/-- LBUF (R465 to R468). -/
def execLbuf (o : Op) (s : State) : Host.Outcome State Fault Refusal :=
  match s.current.bind fun c => (s.lbufLine c o).map fun line => (c, line) with
  | some (c, line) => .next (s.fetchSend c line)
  | none =>
    issue 0x221 o s (fun c => selectorFaults s c o) fun c s =>
      match s.lbufBody c o with
      | .ok body words => lbufGo c o body words s
      | .bad pc code stat aux => fetchFault c pc code stat aux s
      | _ => s

end Sys2Proof.Machine
end

