-- ==== Sys2Proof/Machine/Quarter.lean ====
section
/-! DEFINITION. Quarter matrix units (R250 to R253, R456 to R458). Operations take their effect on the `m` registers in
issue order at issue; what completes later is the counter, or the values a QMOV returns. -/

namespace Sys2Proof.Machine
open Sys2Proof

/-! ### The m registers (R250) -/

/-- Element `idx` (64q + 8i + j) of m register r. -/
def mGet (g : Group) (r idx : Nat) : AccTail :=
  ⟨(FMap.get 0 g.r.macc (256 * r + idx)).toNat, (FMap.get 0 g.r.mtail (256 * r + idx)).toNat⟩

def mSet (g : Group) (r idx : Nat) (x : AccTail) : Group :=
  { g with r := { g.r with
      macc := FMap.set 0 g.r.macc (256 * r + idx) (BitVec.ofNat 64 x.acc)
      mtail := FMap.set 0 g.r.mtail (256 * r + idx) (BitVec.ofNat 32 x.tail) } }

/-- Notes that m register r has been written (MUSE, R194). -/
def markUse (g : Group) (r : Nat) : Group := { g with r := { g.r with muse := g.r.muse ||| (1#8 <<< r) } }

/-- The quarters that hold an active lane (R445). -/
def actingQuarters (ls : Word) : List Nat :=
  (List.range 4).filter fun q => (ls >>> (8 * q)).extractLsb' 0 8 != 0

/-- Changes every element of the acting quarters of m register r. -/
def mUpdate (qs : List Nat) (r : Nat) (f : Nat → AccTail → AccTail) (g : Group) : Group :=
  markUse ((qs.flatMap fun q => (List.range 64).map (64 * q + ·)).foldl (fun g idx => mSet g r idx (f idx (mGet g r idx))) g) r

/-- The m register a field names. -/
def mNum (r : BitVec 8) : Nat := (r - 0xE8).toNat

/-! ### Issue -/

/-- Issues a quarter-unit instruction: with its tile predicate off, or no acting quarter, it only advances. -/
def issueQuarter (opc : BitVec 10) (o : Op) (s : State) (checks : Cur → List FaultInfo)
    (eff : Cur → List Nat → State → State) : Host.Outcome State Fault Refusal :=
  issue opc o s
    (fun c =>
      if tileOn c o then (if activeLanes s c o != 0 then checks c else []) ++ joinFault s c (fallThrough c o) else [])
    fun c s => finish c o (if tileOn c o && activeLanes s c o != 0 then eff c (actingQuarters (activeLanes s c o)) s else s)

/-- The format code (R255) of QMMA's A type and of its B code (R456). -/
def qmmaA (t : Ty) : Nat := match t with | .e4m3 => 0 | .e5m2 => 1 | .i8 => 6 | .n8 => 7 | _ => 5
def qmmaB (k : Nat) : Nat := match k with | 0 => 0 | 1 => 1 | 2 => 6 | 3 => 7 | _ => 5

/-- Elements 0 to 31 along K of the operand that starts at register r in lane l: E elements per lane (R251). -/
def qElems (c : Cur) (r l : Nat) (bf : Bool) : List Nat :=
  (List.range 32).map fun k =>
    let e := if bf then 2 else 4
    let w := 32 / e
    (FMap.get 0 c.grp.r.v (32 * (r + k / e) + l)).toNat / 2 ^ (w * (k % e)) % 2 ^ w

/-- Element (i, j) of quarter q after a QMMA (R243, R251, R457). -/
def qmmaElem (c : Cur) (o : Op) (idx : Nat) (x : AccTail) : AccTail :=
  let q := idx / 64
  let i := idx / 8 % 8
  let j := idx % 8
  let fa := qmmaA o.ty
  let fb := qmmaB (o.kEng.toNat % 8)
  let bf := fa == 5
  let la := 8 * q + i
  let lb := if o.kEng.getLsbD 3 then j else 8 * q + j
  let sc := o.kEng.getLsbD 4
  let ma := if sc then (FMap.get 0 c.grp.r.v (32 * o.c.toNat + la)).toNat % 65536 else plainMeta
  let mb := if sc then (FMap.get 0 c.grp.r.v (32 * o.c.toNat + lb)).toNat / 65536 else plainMeta
  accGroup x (matStep fa fb (recFid c.blk.lrec) (qElems c o.a.toNat la bf) (qElems c o.b.toNat lb bf) ma mb)

/-- QMMA (R457). -/
def execQmma (o : Op) (s : State) : Host.Outcome State Fault Refusal :=
  issueQuarter 0x210 o s (fun c => countFaults c .qmu (activeLanes s c o)) fun c qs s =>
    let (s, id) := s.beginEng c .qmu (activeLanes s c o)
    let s := s.modCur c (mUpdate qs (mNum o.d) (qmmaElem c o))
    let q : QmuOp := { blk := c.run.blk, gid := c.run.gid, eng := some id, op := none }
    { s with cores := { s.cores with qmus := s.cores.qmus ++ [q] } }

/-- The code QMOV gives lane l of register v(D + j) (R458). -/
def qmovCode (c : Cur) (o : Op) (l j : Nat) : Nat :=
  let acc := (mGet c.grp (mNum o.a) (8 * l + j)).acc
  let n := 16 * FMap.get 0 c.grp.ord l + BitVec.ofNat 64 c.run.gid
  let draw := drawSlice (srDraw c.blk.lrec.seed c.blk.tile l (8 * n + BitVec.ofNat 64 j)) 0
  roundVal (o.ty.fmt.getD .f32) (RMode.ofCode o.rmE.toNat) o.satE draw (decFmt .f64 acc)

/-- QMOV (R458): the values return later, in issue order with the QMMA operations. -/
def execQmov (o : Op) (s : State) : Host.Outcome State Fault Refusal :=
  issueQuarter 0x211 o s (fun _ => []) fun c _ s =>
    let ls := activeLanes s c o
    let (s, id) := s.fresh
    let vals := (List.range 8).foldl (fun m j => (lanesOf ls).foldl (fun m l =>
      FMap.put m (32 * j + l) (BitVec.ofNat 64 (qmovCode c o l j))) m) []
    let s := s.addOp c {
      id := id, site := siteOf s c ls, kind := .load, ty := o.ty, dest := .rows o.d.toNat 8, left := 1, vals := vals }
      ((List.range 8).map (o.d.toNat + ·))
    let q : QmuOp := { blk := c.run.blk, gid := c.run.gid, eng := none, op := some id }
    { s with cores := { s.cores with qmus := s.cores.qmus ++ [q] } }

/-- QZERO (R458). -/
def execQzero (o : Op) (s : State) : Host.Outcome State Fault Refusal :=
  issueQuarter 0x212 o s (fun _ => []) fun c qs s => s.modCur c (mUpdate qs (mNum o.d) fun _ _ => ⟨0, 0⟩)

/-- QFOLD (R458). -/
def execQfold (o : Op) (s : State) : Host.Outcome State Fault Refusal :=
  issueQuarter 0x213 o s (fun _ => []) fun c qs s => s.modCur c (mUpdate qs (mNum o.d) fun _ x => ⟨fold64 x, 0⟩)

end Sys2Proof.Machine
end

