-- ==== Sys2Proof/Machine/Sparse.lean ====
section
/-! DEFINITION. The merge-path unit (R227, R228, R469) and bitmap tiles (R224, R225, R470 to R472). -/

namespace Sys2Proof.Machine
open Sys2Proof

/-! ### Bitmap tiles -/

/-- Bits of one packed element in scratch: E2M1 takes a nibble, any other type whole bytes (R470). -/
def packBits (t : Ty) : Nat := if t == .e2m1 then 4 else 8 * t.bytes

/-- Bytes of n packed values. -/
def packBytes (t : Ty) (n : Nat) : Nat := (n * packBits t + 7) / 8

/-- Element k of packed bytes. -/
def unpackAt (t : Ty) (bs : List Byte) (k : Nat) : Nat := bitsAt bs (packBits t * k) (packBits t)

/-- Values packed into bytes, the first lowest. -/
def packAll (t : Ty) (vs : List Nat) : List Byte :=
  bytesLE (packBytes t vs.length) ((vs.reverse.foldl (fun acc v => acc * 2 ^ packBits t + v) 0))

/-- Tile offset, dense offset and row stride. -/
def bmTile (c : Cur) (o : Op) : Nat := uniNat c o.a
def bmRow (c : Cur) (o : Op) (i : Nat) : Nat := uniNat c o.b + i * uniNat c o.c

/-- The alignment of the tile and of the dense tile's first row (R470). -/
def bmAlign (c : Cur) (o : Op) : List FaultInfo :=
  misalign c o (bmTile c o % 64 != 0) (bmTile c o) ++ misalign c o (bmRow c o 0 % o.ty.bytes != 0) (bmRow c o 0)

/-- The dense rows are aligned, and lie in program scratch (R206). -/
def bmRowAlign (c : Cur) (o : Op) : List FaultInfo :=
  (List.range 32).flatMap fun i => misalign c o (bmRow c o i % o.ty.bytes != 0) (bmRow c o i)
def bmRows (c : Cur) (o : Op) : List FaultInfo :=
  (List.range 32).flatMap fun i => scrRange c o (bmRow c o i) (packBytes o.ty 32)

/-- The map of a tile, as 1,024 bits, and its LEN (R224). -/
def bmMap (s : State) (c : Cur) (o : Op) : Nat := s.fab.mem.num (scrKey c.blk (bmTile c o)) 128
def bmLen (s : State) (c : Cur) (o : Op) : Nat := s.fab.mem.num (scrKey c.blk (bmTile c o + 128)) 2

/-- The set bits of a map below n. -/
def bmCount (map n : Nat) : Nat := ((List.range n).filter fun i => map.testBit i).length

/-- BMAP's checks that read nothing: the alignment of both tiles and bytes 0 to 191 of the tile (R470, R471). -/
def bmapEarly (c : Cur) (o : Op) : List FaultInfo := bmAlign c o ++ scrRange c o (bmTile c o) 192

/-- BMAP's checks on what the tile holds, in the order of R471. -/
def bmapFaults (s : State) (c : Cur) (o : Op) : List FaultInfo :=
  let t := bmTile c o
  match scrBad s c o t 192 with
  | f :: fs => f :: fs
  | [] =>
    let n := bmCount (bmMap s c o) 1024
    let len := bmLen s c o
    if n ≠ len then
      [{ code := codeBitmaplen, lanes := guardedIn c o, addr := BitVec.ofNat 64 t
         aux := BitVec.ofNat 32 (n % 2048 + 65536 * (len % 2048)) }]
    else
      bmRowAlign c o ++ scrRange c o (t + 192) (packBytes o.ty len) ++ bmRows c o
        ++ scrBad s c o (t + 192) (packBytes o.ty len)

/-- Goes on unless a check made behind the acquires fails; its fault is precise (R183, R186). -/
def unlessFaulted (c : Cur) (fs : List FaultInfo) (eff : State → State) (s : State) : State :=
  match fs with
  | f :: _ => raise c f s
  | [] => eff s

/-- BMAP's 32 rows: element (i, j) is the next stored value, or +0 (R225). -/
def bmapRow (t : Ty) (map : Nat) (vals : List Byte) (i : Nat) : List Byte :=
  packAll t ((List.range 32).map fun j =>
    if map.testBit (32 * i + j) then unpackAt t vals (bmCount map (32 * i + j)) else 0)

/-- BMAP (R470, R471): the tile is read, and so checked, after the group's earlier scratch accesses (R207, R283). -/
def execBmap (o : Op) (s : State) : Host.Outcome State Fault Refusal :=
  issueEngine 0x229 o s (fun c => bmapEarly c o) fun c s =>
    afterAcquires c (fun s => unlessFaulted c (bmapFaults s c o) (fun s =>
      let map := bmMap s c o
      let vals := s.fab.mem.bytes (scrKey c.blk (bmTile c o + 192)) (packBytes o.ty (bmLen s c o))
      let mem := (List.range 32).foldl (fun (m : Memory) i =>
        m.setBytes (scrKey c.blk (bmRow c o i)) (bmapRow o.ty map vals i)) s.fab.mem
      finish c o { s with fab := { s.fab with mem := mem } }) s) s

/-- BPACK's first checks: its whole possible footprint (R472). -/
def bpackFaults (c : Cur) (o : Op) : List FaultInfo :=
  bmAlign c o ++ scrRange c o (bmTile c o) ((192 + packBytes o.ty 1024 + 63) / 64 * 64)

/-- The checks of the dense rows BPACK then reads, and UNCORR in them (R190, R206, R472). -/
def bpackBad (s : State) (c : Cur) (o : Op) : List FaultInfo :=
  bmRowAlign c o ++ bmRows c o ++ (List.range 32).flatMap fun i => scrBad s c o (bmRow c o i) (packBytes o.ty 32)

/-- The bitmap tile of 1,024 elements (R472). -/
def bpackTile (t : Ty) (es : List Nat) : List Byte :=
  let map := (es.reverse.foldl (fun acc e => 2 * acc + (if e = 0 then 0 else 1)) 0)
  let vs := es.filter fun e => e != 0
  let body := bytesLE 128 map ++ bytesLE 2 vs.length ++ bytesLE 62 0 ++ packAll t vs
  body ++ bytesLE ((64 - body.length % 64) % 64) 0

/-- BPACK (R470, R472). -/
def execBpack (o : Op) (s : State) : Host.Outcome State Fault Refusal :=
  issueEngine 0x22A o s (fun c => bpackFaults c o) fun c s =>
    afterAcquires c (fun s => unlessFaulted c (bpackBad s c o) (fun s =>
      let es := (List.range 32).flatMap fun i =>
        let row := s.fab.mem.bytes (scrKey c.blk (bmRow c o i)) (packBytes o.ty 32)
        (List.range 32).map (unpackAt o.ty row)
      let mem := s.fab.mem.setBytes (scrKey c.blk (bmTile c o)) (bpackTile o.ty es)
      finish c o { s with fab := { s.fab with mem := mem } }) s) s

/-! ### The merge-path unit -/

/-- Checks of MPATH (R469). -/
def mpathFaults (c : Cur) (o : Op) : List FaultInfo :=
  let ls := guardedIn c o
  let bad (r : BitVec 8) (z : Nat) : List FaultInfo :=
    if (pairVal c r 0).toNat % z ≠ 0 then [{ code := codeMisalign, lanes := ls, addr := pairVal c r 0 }] else []
  bad o.d 8 ++ bad o.a 4 ++ countFaults c .nest ls

/-- The unit reads and writes at all (R469). -/
def mpathRuns (n p : Nat) : Bool := 1 ≤ n && n ≤ 2 ^ 31 - 1 && 1 ≤ p && p ≤ 256

/-- The SRCID of a die's merge-path unit (R495). -/
def mpathSrc (die : Nat) : BitVec 16 := BitVec.ofNat 16 (die % 4 * 2 ^ 14 + 129)

/-- MPATH (R469): queued at its die's unit in arrival order. -/
def execMpath (o : Op) (s : State) : Host.Outcome State Fault Refusal :=
  issueEngine 0x228 o s (fun c => mpathFaults c o) fun c s =>
    afterAcquires c (fun s =>
      let (s, id) := (s.sendDepotOf c.run.blk c.run.gid).beginEng c .nest (guardedIn c o)
      let p := uniNat c o.c
      let q : MpathOp := {
        op := id, core := c.blk.core, blk := c.run.blk, gid := c.run.gid, out := pairVal c o.d 0, rows := pairVal c o.a 0
        n := uniNat c o.b, p := p, site := siteOf s c (guardedIn c o), srcid := mpathSrc (c.blk.core / 64) }
      finish c o { s with cores := { s.cores with mpaths := s.cores.mpaths ++ [(c.blk.core / 64, q)] } }) s

/-- The operation a die's unit is at. -/
def State.mpathHead (s : State) (die : Nat) : Option MpathOp := (s.cores.mpaths.find? fun x => x.1 == die).map fun x => x.2

/-- Changes one operation. -/
def State.modMpath (s : State) (op : Nat) (f : MpathOp → MpathOp) : State :=
  { s with cores := { s.cores with mpaths := s.cores.mpaths.map fun x => if x.2.op == op then (x.1, f x.2) else x } }

/-- An error of the unit: imprecise, ENGINE KIND 4 (R188, R447). -/
def mpathCand (q : MpathOp) (code stat aux : Nat) (addr : DWord) : Cand :=
  { site := q.site, code := code, prec := 2, stat := stat, lanes := q.site.lanes, aux := BitVec.ofNat 32 aux, addr := addr
    eng := 0x4001 }

/-- Diagonal k (R227). -/
def mpathDiag (q : MpathOp) (k : Nat) : Nat := k * (q.n + q.z.getD 0) / q.p

/-- Reads or writes a run of bytes of one line. -/
def State.mpathSend (s : State) (q : MpathOp) (kind : AccKind) (va : DWord) (size : Nat) (data : List Nat) : State :=
  if !vaLegal va then s.modMpath q.op fun q => { q with failed := [mpathCand q codeAddress 0 0 (s.resolve va)] }
  else if kind.writes && 256 ≤ (s.sideOf q.core).length then s
  else
    let va := s.resolve va
    let s := if kind.writes then s.l1Drop q.core (lineOf va) else s
    let (s, id) := s.send {
      id := 0, kind := kind, core := q.core, who := .mpath (q.core / 64), line := lineOf va
      parts := (List.range data.length).map fun i =>
        { lane := i, va := va + BitVec.ofNat 64 (size * i), size := size, data := BitVec.ofNat 64 (data.getD i 0) }
      srcid := q.srcid, pc := q.site.pc }
    s.modMpath q.op fun q => { q with req := some id }

/-- The pieces of size z, at most n, from an address to the end of its line. -/
def lineRoom (va : DWord) (z n : Nat) : Nat := min n ((64 - va.toNat % 64) / z)

/-- Entry k of the output; where no i meets R227 the split is a free value of the inputs (R228, log entry 26). -/
def mpathEntry (q : MpathOp) (k : Nat) : Nat :=
  let i := match q.best.getD k none with | some i => i | none => (Config.mpathSplit q.p (q.z.getD 0) q.ptrs k).toNat
  i + (mpathDiag q k + 2 ^ 32 - i % 2 ^ 32) % 2 ^ 32 * 2 ^ 32

/-- The unit's next request: rowptr[N], the row pointers in order, then the split points. -/
def State.mpathNext (s : State) (q : MpathOp) : State :=
  match q.z with
  | none => s.mpathSend q .load (q.rows + BitVec.ofNat 64 (4 * q.n)) 4 [0]
  | some _ =>
    if q.pos ≤ q.n then
      let va := q.rows + BitVec.ofNat 64 (4 * q.pos)
      s.mpathSend q .load va 4 (List.replicate (lineRoom va 4 (q.n + 1 - q.pos)) 0)
    else
      let va := q.out + BitVec.ofNat 64 (8 * q.sent)
      let n := lineRoom va 8 (q.p + 1 - q.sent)
      s.mpathSend q .store va 8 ((List.range n).map fun k => mpathEntry q (q.sent + k))

/-- The unit after reading row pointers from index `pos` on. -/
def mpathTake (q : MpathOp) (vals : List DWord) : MpathOp :=
  let best := (List.range vals.length).foldl (fun (best : List (Option Nat)) x =>
    let i := q.pos + x
    (List.range (q.p + 1)).map fun k =>
      if (vals.getD x 0).toNat + i ≤ mpathDiag q k then some i else best.getD k none) q.best
  { q with best := best, ptrs := q.ptrs ++ vals.map fun v => v.setWidth 32, pos := q.pos + vals.length, req := none }

/-- An answer of the unit's request (R447). -/
def State.mpathAnswer (s : State) (q : MpathOp) (r : Req) : State :=
  let s := s.dropGot r.id
  match r.phase with
  | .failed stat cause =>
    let discard := s.isDiscard r stat cause
    s.modMpath q.op fun q => { q with
      req := none
      failed := [mpathCand q (if discard then codeSldiscard else codeOfStat stat)
        (if discard then 0 else s.statOf r stat cause)
        (match r.slot with | some k => k + 2 ^ 31 | none => if stat = statXlt then cause else 0)
        (match r.parts with | p :: _ => p.va | [] => r.line)] }
  | _ =>
    match q.z with
    | none => s.modMpath q.op fun q => { q with z := some (r.vals.getD 0 0).toNat, req := none }
    | some _ =>
      if q.pos ≤ q.n then s.modMpath q.op fun q => mpathTake q r.vals
      else s.modMpath q.op fun q => { q with sent := q.sent + r.parts.length, req := none }

/-- MPATH_COMPLETE: the unit takes the answer it waits for, makes its next request, or completes: its counter falls
(R227, R469). -/
def State.mpathStep (s : State) (die : Nat) : State :=
  match s.mpathHead die with
  | none => s
  | some q =>
    let isOver (q : MpathOp) : Bool := !mpathRuns q.n q.p || !q.failed.isEmpty || (q.z.isSome && q.n < q.pos && q.p < q.sent)
    let s := match q.req with
      | some id => match s.got? id with | some r => s.mpathAnswer q r | none => s
      | none => s
    match s.mpathHead die with
    | none => s
    | some q =>
      if isOver q then
        let s : State := { s with cores := { s.cores with mpaths := s.cores.mpaths.filter fun x => x.2.op != q.op } }
        s.endEng q.blk q.gid q.op q.failed
      else if q.req.isSome then s
      else s.mpathNext q

end Sys2Proof.Machine
end

