-- ==== Sys2Proof/Machine/Schedule.lean ====
section
/-! DEFINITION. Runs and results: RUN_GRANT, GROUP_DUE, LONG_RESULT_RETURN, SLEEP_EXPIRY (R160 to R171, R390), and the
completions of the engines (R212, R214 to R218, R227, R253, R268 to R270, R289, R464). -/

namespace Sys2Proof.Machine
open Sys2Proof

/-! ### The issue slot (R160, R169 to R171) -/

/-- What a held slot waits for has come. -/
def State.holdOver (s : State) (uid : Nat) (g : Group) (slotB : Bool) (p : Path) : Bool :=
  match p.hold with
  | .none => true
  | .push => !pushBlocked g slotB p
  | .fetch id => (s.got? id).isSome
  | .mem true => s.acked uid g.gid
  | .mem false => s.scrClear uid g.gid
  | .acq => s.memClear uid g.gid

/-- The path of a slot when the slot is ready (R169). -/
def State.readySlot (s : State) (b : Block) (g : Group) (slotB : Bool) : Option Path :=
  match groupSlot g slotB with
  | none => none
  | some p =>
    if g.dead || g.exited || g.park.isSome || g.stopped || (staleLoop g slotB).isSome || s.isGated (clusterOf b.core) || s.clk.stopped
    then none
    else if s.holdOver b.uid g slotB p then some p else none

/-- The slot a group would issue from: the one whose last run began earlier, ties to A (R170). -/
def State.readyGroup (s : State) (b : Block) (g : Group) : Option (Bool × Path) :=
  match s.readySlot b g false, s.readySlot b g true with
  | some p, some q => if q.lastRun < p.lastRun then some (true, q) else some (false, p)
  | some p, none => some (false, p)
  | none, some q => some (true, q)
  | none, none => none

/-- A ready group of a partition, as R170 compares it. -/
structure Bidder where
  blk  : Block
  grp  : Group
  slotB : Bool
  path : Path
  deriving DecidableEq, Repr

/-- The ready groups of a partition of a core. -/
def State.bidders (s : State) (core part : Nat) : List Bidder :=
  (partGroups (s.blocksOn core) part).filterMap fun x =>
    (s.readyGroup x.1 x.2).map fun y => { blk := x.1, grp := x.2, slotB := y.1, path := y.2 }

/-- R170's order. -/
def bidBefore (a b : Bidder) : Bool :=
  if a.grp.due != b.grp.due then a.grp.due
  else if recPrio a.blk.lrec != recPrio b.blk.lrec then recPrio b.blk.lrec < recPrio a.blk.lrec
  else if a.grp.lastRun != b.grp.lastRun then a.grp.lastRun < b.grp.lastRun
  else a.grp.gslot < b.grp.gslot

/-- The first of a list by an order. -/
def firstBy {α : Type} (lt : α → α → Bool) : List α → Option α
  | [] => none
  | x :: xs =>
    match firstBy lt xs with
    | some y => if lt y x then some y else some x
    | none => some x

/-- RUN_GRANT: a free issue slot grants the next run, or one that has left the slot before its first instruction (R160,
R170). -/
def State.grantRun (s : State) (core part : Nat) : State :=
  if s.cores.runs.any fun r => r.core == core && r.part == part then s
  else
    match firstBy bidBefore (s.bidders core part) with
    | none => s
    | some x =>
      let n := s.cores.runSeq + 1
      let fresh := !x.path.begun
      let s := s.modGroup x.blk.uid x.grp.gid fun g =>
        let g := groupSetSlot g x.slotB ((groupSlot g x.slotB).map fun p => { p with
          hold := .none, begun := false, lastRun := if fresh then n else p.lastRun })
        if fresh then { g with lastRun := n, lastRef := s.clk.ref, due := false } else g
      let run : Run := { core := core, part := part, blk := x.blk.uid, gid := x.grp.gid, slotB := x.slotB, count := 0 }
      let s : State := { s with cores := { s.cores with runs := s.cores.runs ++ [run], runSeq := n + 1 } }
      if fresh then
        (s.countCore 0x0003 core).trace 0 core (s.logical core).2 x.grp.gid x.path.pc x.blk.tile
      else s

/-- RUN_GRANT (R170). -/
def execRunGrant (s : State) : Host.Outcome State Fault Refusal := .next (s.grantRun s.inp.n s.inp.m)

/-- GROUP_DUE (R171). -/
def execGroupDue (s : State) : Host.Outcome State Fault Refusal :=
  match s.block? s.inp.n with
  | none => .next s
  | some b =>
    match blockGroup? b s.inp.m with
    | none => .next s
    | some g =>
      if (s.readyGroup b g).isSome ∧ g.lastRef + 1024 ≤ s.clk.ref then
        .next (s.modGroup s.inp.n s.inp.m fun g => { g with due := true })
      else .next s

/-! ### Long results (R162, R183) -/

/-- Writes what a completed operation returns (R233, R420, R424): lanes of face Y to its own destination. -/
def writeLong (o : LongOp) (g : Group) : Group :=
  let w := o.ty.is64
  let val (x : DWord) : Nat := if w then x.toNat else loadLane o.ty x.toNat
  match o.dest with
  | .none => g
  | .vec x y => o.vals.foldl (fun g e => setGen g w (if o.site.fx.getLsbD e.1 then x else y) e.1 (val e.2)) g
  | .uni n => match o.vals with | e :: _ => setUniN g w n (val e.2) | [] => g
  | .all x => match o.vals with | e :: _ => (lanesOf o.site.lanes).foldl (fun g l => setGen g w x l (val e.2)) g | [] => g
  | .rows x _ => o.vals.foldl (fun g e => setLane g (x + e.1 / 32) (e.1 % 32) (BitVec.ofNat 32 e.2.toNat)) g

/-- A long result is written and its registers wait no more; a failed one writes no lane (R162, R183), and a load of scratch that
failed stops its group at once (R190). -/
def takeLong (o : LongOp) (g : Group) : Group :=
  let g := { g with ops := g.ops.filter fun p => p.id != o.id }
  if o.errs.isEmpty then writeLong o { g with pend := g.pend.filter fun p => p.2 != o.id }
  else { g with cands := g.cands ++ o.errs, dead := g.dead || o.errs.any fun k => k.prec == 0 }

/-- LONG_RESULT_RETURN: a result whose every part has arrived is taken (R162, R183); a group at a
drain seam, and a HITCH, look again. A drain's values were written before its counter fell (R290). -/
def State.returnLong (s : State) (uid gid id : Nat) : State :=
  match s.group? uid gid with
  | none => s
  | some g =>
    match g.ops.find? fun o => o.id == id with
    | none => s.hitchArrive uid gid
    | some o => if o.left ≠ 0 then s else ((s.modGroup uid gid (takeLong o)).settle uid gid).hitchArrive uid gid

/-- LONG_RESULT_RETURN (R162). -/
def execLongResultReturn (s : State) : Host.Outcome State Fault Refusal := .next (s.returnLong s.inp.n s.inp.m s.inp.k)

/-- SLEEP_EXPIRY (R390). -/
def execSleepExpiry (s : State) : Host.Outcome State Fault Refusal :=
  match s.group? s.inp.n s.inp.m with
  | none => .next s
  | some g =>
    match g.park with
    | some k =>
      match k.cond with
      | .sleep t => if t ≤ s.clk.ref then .next (s.finishPark s.inp.n s.inp.m) else .next s
      | _ => .next s
    | none => .next s

/-! ### Copy channels (R215, R290) -/

/-- COPY_BEAT_DELIVER (R215). -/
def execCopyBeatDeliver (s : State) : Host.Outcome State Fault Refusal := .next (s.beat s.inp.n s.inp.m)

/-- COPY_DESCRIPTOR_COMPLETE (R290); a window that its owner waits to change may be free now (R216). -/
def execCopyDescriptorComplete (s : State) : Host.Outcome State Fault Refusal :=
  match s.chanOf s.inp.n s.inp.m with
  | [] => .next s
  | d :: _ => .next ((s.descComplete s.inp.n s.inp.m).windowRetry d.rblk)

/-! ### The cluster array (R268 to R270) -/

/-- The block of lower PRIO whose plane an operation waits for (R259). -/
def State.planeOwner (s : State) (cl : Nat) (b : Block) (op : ArrOp) : Option Block :=
  let x := s.cluster cl
  let owner := match op.kind with
    | .mstat .. => x.shadow.owner
    | _ => x.active.owner
  if headReady x b op then none
  else
    match owner with
    | some uid =>
      match s.block? uid with
      | some q => if recPrio q.lrec < recPrio b.lrec && !leaving q then some q else none
      | none => none
    | none => none

/-- Heads that wait for a plane of a block of lower PRIO request its pre-emption (R259). -/
def State.planePreempt (s : State) (cl : Nat) : State :=
  (s.cluster cl).book.foldl (fun (s : State) e =>
    match e.ops, s.block? e.blk with
    | op :: _, some b =>
      match s.planeOwner cl b op with
      | some q => s.preempt q (if recPlat b.lrec = 0 then none else some (recPlat b.lrec))
      | none => s
    | _, _ => s) s

/-- BOOKING_GRANT (R259, R270). -/
def execBookingGrant (s : State) : Host.Outcome State Fault Refusal :=
  .next ((s.grant s.inp.n s.inp.port).planePreempt s.inp.n)

/-- An operation leaves its entry; an entry without operations is freed (R269). -/
def bookDone (op : Nat) (book : List Booking) : List Booking :=
  (book.map fun e => { e with ops := e.ops.filter fun o => o.op != op, low := 0, any := 0 }).filter fun e => !e.ops.isEmpty

/-- Only the entry of the operation counts its grants anew. -/
def bookLeave (op : Nat) (book : List Booking) : List Booking :=
  book.flatMap fun e => if e.ops.any fun o => o.op == op then bookDone op [e] else [e]

/-- A drain into registers writes its values (R266, R290). -/
def takeDrain (lop : Nat) (g : Group) : Group :=
  match g.ops.find? fun o => o.id == lop with
  | some o => takeLong o g
  | none => g

/-- The operation of a port ends: the port is free, the operation leaves the table, a drain into registers writes its values, and
then the ARR counter falls with its errors (R258, R266, R268, R290). -/
def State.arrayEnd (s : State) (cl : Nat) (port : ArrayPort) : State :=
  let x := s.cluster cl
  match portOp x port with
  | none => s
  | some op =>
    let s := s.modCluster cl fun x =>
      let x := { x with book := bookLeave op.op x.book }
      match port with
      | .load => { x with load := none }
      | .stream => { x with stream := none }
    let errs := match s.group? op.blk op.gid with
      | some g => match g.engs.find? fun (e : EngOp) => e.id == op.op with | some e => e.errs | none => []
      | none => []
    let s := match op.kind with
      | .mdrainReg _ lop =>
        (s.modGroup op.blk op.gid (takeDrain lop)).post .longResultReturn { n := op.blk, m := op.gid, k := lop }
      | _ => s
    s.endEng op.blk op.gid op.op errs

/-- ARRAY_OP_COMPLETE: an operation that waits for a window of the weight store has not ended (R212, R268). -/
def State.arrayDone (s : State) (cl : Nat) (port : ArrayPort) : State :=
  match port with
  | .stream => s.arrayEnd cl port
  | .load => if s.loadWaits cl then s else (s.loadRead cl).arrayEnd cl port

/-- ARRAY_OP_COMPLETE (R268). -/
def execArrayOpComplete (s : State) : Host.Outcome State Fault Refusal := .next (s.arrayDone s.inp.n s.inp.port)

/-- WS_WINDOW_END: a bank's window has ended, and the channels of the die that wait on the store go on (R212). -/
def State.windowEnd (s : State) (die bank : Nat) : State :=
  if s.bankBusy die bank then s
  else
    (s.cores.chans.filter fun x => x.1.1 / 64 == die && (match x.2 with | d :: _ => d.kind == .weight | [] => false)).foldl
      (fun (s : State) x => s.beat x.1.1 x.1.2) s

/-- WS_WINDOW_END (R212). -/
def execWsWindowEnd (s : State) : Host.Outcome State Fault Refusal := .next (s.windowEnd s.inp.n s.inp.m)

/-! ### Quarter unit, scratch nest, merge path (R227, R253, R464) -/

/-- QMU_OP_COMPLETE: the oldest operation of a group's quarter unit is complete (R253, R458). -/
def State.qmuDone (s : State) (uid gid : Nat) : State :=
  match s.cores.qmus.find? fun q => q.blk == uid && q.gid == gid with
  | none => s
  | some q =>
    let s : State := { s with cores := { s.cores with qmus := s.cores.qmus.erase q } }
    match q.eng, q.op with
    | some e, _ => s.endEng uid gid e []
    | none, some o =>
      s.modGroup uid gid fun (g : Group) => { g with ops := g.ops.map fun (l : LongOp) => if l.id == o then { l with left := 0 } else l }
    | none, none => s

/-- QMU_OP_COMPLETE (R253). -/
def execQmuOpComplete (s : State) : Host.Outcome State Fault Refusal := .next (s.qmuDone s.inp.n s.inp.m)

/-- NEST_COMPLETE (R464). -/
def execNestComplete (s : State) : Host.Outcome State Fault Refusal := .next (s.nestDone s.inp.n s.inp.m)

/-- MPATH_COMPLETE (R227). -/
def execMpathComplete (s : State) : Host.Outcome State Fault Refusal := .next (s.mpathStep s.inp.n)

end Sys2Proof.Machine
end

