-- ==== Sys2Proof/Machine/Migrate.lean ====
section
/-! DEFINITION. Thermal migration (R54, R180 to R182): the choice of a target, the start, and the transfer. -/

namespace Sys2Proof.Machine
open Sys2Proof

/-! ### Sensors (R53) -/

/-- The key of a sensor. -/
def sensorKey : Sensor → Nat
  | .core n => n
  | .array cl => 256 + cl
  | .stack n => 512 + n
  | .bank die b => 1024 + 16 * die + b

/-- The last reading of a sensor; nothing before its first sample. -/
def State.temp (s : State) (k : Sensor) : Option Nat :=
  match FMap.get 0 s.th.temps (sensorKey k) with
  | 0 => none
  | t + 1 => some t

/-! ### The target (R54, R180) -/

/-- The operating points of two clusters are equal: frequency, VCL and tail rails (R45). -/
def State.samePoint (s : State) (a b : Nat) : Bool :=
  s.field .clkClf a 0 6 == s.field .clkClf b 0 6 && s.field .clkClf b 31 1 == 1
    && s.field .pwrVcl a 16 7 == s.field .pwrVcl b 16 7 && (s.reg .pwrVtail a) == (s.reg .pwrVtail b)

/-- The target's cluster can take the accumulator tiles of the source's blocks (R180). -/
def State.tilesFit (s : State) (src tgt : Nat) : Bool :=
  let need := (s.blocksOn src).foldl (fun n b => n + b.accts.length) 0
  clusterOf src == clusterOf tgt || need == 0 || (s.tilesUsed (clusterOf tgt) fun _ => true).isEmpty && need ≤ 4

/-- A launch's weight-store banks of two dies are the same (R211). -/
def sameBanks (r : LaunchRec) (a b : Nat) : Bool := r.wsmask.extractLsb' (16 * a) 16 == r.wsmask.extractLsb' (16 * b) 16

/-- A core takes blocks of another: room for their accumulator tiles, no HOLD and no QUIESCE hold, the source's operating point, and
a die that remains to the blocks' jobs, with their features and their banks (R44, R45, R84, R85, R152, R180, R211). -/
def State.takesFrom (s : State) (src tgt : Nat) : Bool :=
  let cl := clusterOf tgt
  s.tilesFit src tgt && s.field .pwrCstat cl 0 1 == 0 && !s.lau.holds.contains (tgt / 64) && s.samePoint (clusterOf src) cl
    && (s.blocksOn src).all fun b =>
      b.lrec.feat &&& ~~~(Config.featMask (tgt / 64)) == 0 && (s.jobDies (recJob b.lrec)).getLsbD (tgt / 64)
        && sameBanks b.lrec (src / 64) (tgt / 64)

/-- A core is a target for another (R54, R180). -/
def State.isTarget (s : State) (src tgt : Nat) : Bool :=
  src != tgt && !Config.coreAbsent (tgt / 64) (tgt % 64)
    && (match s.temp (.core tgt) with | some t => t ≤ 85 | none => false)
    && (s.blocksOn tgt).isEmpty && (s.ctxsOf tgt).isEmpty && s.cores.chans.all (fun x => x.1.1 != tgt)
    && (s.sideOf tgt).isEmpty && !s.isGated (clusterOf tgt) && !s.isMoving tgt && s.takesFrom src tgt

/-- The coolest target on a die; ties go to the lowest core number (R54). -/
def State.targetOn (s : State) (src die : Nat) : Option Nat :=
  leastBy (fun c => (s.temp (.core c)).getD 0) (((List.range 64).map (64 * die + ·)).filter (s.isTarget src))

/-- The target R54 chooses: the own die first, then the others in ascending order. -/
def State.migrationTarget (s : State) (src : Nat) : Option Nat :=
  (src / 64 :: (List.range 4).filter fun d => d != src / 64).findSome? (s.targetOn src)

/-! ### Start and retry -/

/-- A core holds groups that may be moved. -/
def State.hasGroups (s : State) (core : Nat) : Bool := !(s.blocksOn core).isEmpty

/-- Serves a core's migration request: its blocks are stopped, or the request stays pending (R54, R180, R181). -/
def State.tryMigrate (s : State) (core : Nat) : State :=
  let rest := s.th.wants.filter fun w => w.1 != core
  if !s.hasGroups core then { s with th := { s.th with wants := rest } }
  else
    match (if s.isMoving core || s.isGated (clusterOf core) then none else s.migrationTarget core) with
    | none => { s with th := { s.th with wants := rest ++ [(core, s.clk.ref + 1000)] } }
    | some t =>
      let s : State := { s with th := { s.th with wants := rest, moves := s.th.moves ++ [(core, t, 1)] } }
      ((s.blocksOn core).filter fun b => b.stop.isNone).foldl (fun (s : State) b => s.stopBlock b.uid .migrate) s

/-- MIGRATION_RETRY (R54). -/
def execMigrationRetry (s : State) : Host.Outcome State Fault Refusal :=
  match s.th.wants.find? fun w => w.1 == s.inp.n with
  | some w => if w.2 ≤ s.clk.ref then .next (s.tryMigrate s.inp.n) else .next s
  | none => .next s

/-! ### The transfer (R181) -/

/-- A block of a core under migration may move: stopped for it, with every operation but its copies complete (R181). -/
def State.movable (s : State) (b : Block) : Bool :=
  b.stop == some .migrate && s.allStopped b && !hasErrors b
    && b.groups.all (fun g => (g.engs.all fun e => e.cls == .copy) && g.ops.all fun o => o.dest == .none)
    && s.fab.reqs.all fun r => !ofBlock b.uid r || r.kind == .prefetch

/-- Moves the bytes of an extent from one core's scratch to another's. -/
def State.moveScratch (s : State) (src tgt ext n : Nat) : State :=
  let lo := spaceKey (scratchSpace src) ext
  let dst := spaceKey (scratchSpace tgt) ext
  let cells := s.fab.mem.filter fun c => lo ≤ c.1 && c.1 < lo + n
  let bad := s.fab.bad.filter fun k => lo ≤ k && k < lo + n
  let s := s.clearScratch tgt ext n
  { s with fab := { s.fab with
      mem := cells.foldl (fun (m : Memory) c => m.setByte (dst + (c.1 - lo)) c.2) s.fab.mem
      bad := bad.foldl (fun ks k => insertNat (dst + (k - lo)) ks) s.fab.bad } }

/-- Tiles `old` of one cluster move to tiles `new_` of another. -/
def State.moveTiles (s : State) (cs ct : Nat) (old new_ : List Nat) : State :=
  let src := s.cluster cs
  s.modCluster ct fun c =>
    (List.range old.length).foldl (fun (c : Cluster) k =>
      let a := old.getD k 0
      let b := new_.getD k 0
      { c with
        acc := (src.acc.filter fun e => e.1 / 65536 == a).foldl (fun m e => FMap.set 0 m (65536 * b + e.1 % 65536) e.2) c.acc
        tail := (src.tail.filter fun e => e.1 / 65536 == a).foldl (fun m e => FMap.set 0 m (65536 * b + e.1 % 65536) e.2) c.tail
        badAcc := c.badAcc ++ (src.badAcc.filter fun k => k / 65536 == a).map fun k => 65536 * b + k % 65536 })
      (clearTiles new_ c)

/-- The planes that blocks of a core own move to another cluster (R181). -/
def State.movePlanes (s : State) (cs ct : Nat) (uids : List Nat) : State :=
  let src := s.cluster cs
  let mine (p : Plane) : Bool := match p.owner with | some u => uids.contains u | none => false
  let free (p : Plane) : Plane := if mine p then { p with owner := none } else p
  ((s.modCluster cs fun c => { c with active := free c.active, shadow := free c.shadow }).modCluster ct fun c =>
    { c with
      active := if mine src.active then src.active else c.active
      shadow := if mine src.shadow then src.shadow else c.shadow }).unready ct

/-- Every group of a block parked in a cluster barrier withdraws from it (R440). -/
def State.withdrawAll (s : State) (b : Block) : State := b.groups.foldl (fun (s : State) g => s.withdraw b.uid g.gid) s

/-- A group that goes on after its block's stop: withdrawn from a cluster barrier, it executes it anew (R440); its fetches see its
own stores, as after an acquire of pkg (R296, R341). -/
def resumed (g : Group) : Group :=
  { g with
    stopped := false, codeOld := []
    park := match g.park with
      | some k => match k.cond with | .barClu _ => none | _ => some k
      | none => none }

/-- One block moves: scratch, tiles, place. -/
def State.moveBlock (s : State) (tgt : Nat) (b : Block) : State :=
  let cs := clusterOf b.core
  let ct := clusterOf tgt
  let s := s.moveScratch b.core tgt b.ext b.extLen
  let free := (List.range 4).filter fun t => !(s.tilesUsed ct fun _ => true).contains t
  let accts := if cs = ct then b.accts else free.take b.accts.length
  let s := if cs = ct then s else s.moveTiles cs ct b.accts accts
  s.modBlock b.uid fun b => { b with
    core := tgt, accts := accts, stop := none, groups := b.groups.map resumed }

/-- Exchanges the map entries that name two physical cores (R181). -/
def State.swapMap (s : State) (a b : Nat) : State :=
  let named (core : Nat) : Option Nat := (List.range 256).find? fun i =>
    let e := (s.reg .dspLmap i).toNat
    e / 2 ^ 31 % 2 == 1 && e / 256 % 4 * 64 + e % 64 == core
  let entry (core : Nat) : DWord := BitVec.ofNat 64 (2 ^ 31 + 256 * (core / 64) + core % 64)
  let i := named a
  let j := named b
  let s := match i with | some i => s.setReg .dspLmap i (entry b) | none => s
  match j with | some j => s.setReg .dspLmap j (entry a) | none => s

/-- Requests of the source's channels and of its groups' fetches and waits go on for the target. -/
def moveReq (src tgt : Nat) (uids : List Nat) (r : Req) : Req :=
  match r.who with
  | .channel c ch => if c = src then { r with core := tgt, who := .channel tgt ch } else r
  | .watch u _ | .fetch u _ _ => if uids.contains u then { r with core := tgt } else r
  | _ => r

/-- What waited for the end of a block's migration applies to it: a QUIESCE, errors of its operations, a cancel (R84, R151, R182). -/
def State.afterMigration (s : State) (b : Block) : State :=
  let s := match s.block? b.uid with
    | some b => if s.lau.holds.contains (b.core / 64) && !leaving b then s.preempt b none else s
    | none => s
  let s := match s.block? b.uid with | some b => s.takeErrors b | none => s
  match s.pkgLaunch? b.key with
  | some p => if p.canc then s.cancelBlocks b.key else s
  | none => s

/-- The physical cores of a cluster. -/
def coresOf (cl : Nat) : List Nat := (List.range 4).map (4 * cl + ·)

/-- Every core of a cluster attempts placement (R157). -/
def State.wantCluster (s : State) (cl : Nat) : State := (coresOf cl).foldl (fun (s : State) k => s.wantPlace k) s

/-- Steps 3 to 7 of R181, as one step. -/
def State.transfer (s : State) (src tgt : Nat) : State :=
  let bs := s.blocksOn src
  let uids := bs.map fun b => b.uid
  let s := bs.foldl (fun (s : State) b => s.withdrawAll b) s
  let s := bs.foldl (fun (s : State) b => s.handOn b.uid) s
  let s := if clusterOf src = clusterOf tgt then s else s.movePlanes (clusterOf src) (clusterOf tgt) uids
  let s := bs.foldl (fun (s : State) b => s.moveBlock tgt b) s
  let s := s.swapMap src tgt
  let s : State := { s with
    fab := { s.fab with reqs := s.fab.reqs.map (moveReq src tgt uids), got := s.fab.got.map (moveReq src tgt uids) }
    cores := { s.cores with
      chans := s.cores.chans.map fun x => if x.1.1 == src then ((tgt, x.1.2), x.2) else x
      windows := s.cores.windows.map fun w => if w.1 == src then (tgt, w.2) else w }
    lau := { s.lau with ctxs := s.lau.ctxs.map fun c => if c.core == src then { c with core := tgt } else c }
    th := { s.th with moves := s.th.moves.filter fun m => m.1 != src } }
  let s := (s.l1Clear tgt).countCore 0x000C src
  let s := bs.foldl (fun (s : State) b =>
    (s.trace 4 tgt (s.logical tgt).2 0 0 b.tile).afterMigration b) s
  (s.wantCluster (clusterOf src)).wantPlace tgt

/-- A migration whose target no longer takes the blocks: it goes to another, or the blocks resume where they are, as by an acquire
of pkg, what waited for the migration applies, and the request is pending again (R44, R54, R84, R182, R296). Both cores attempt
placement (R157). -/
def State.retarget (s : State) (src old : Nat) : State :=
  let rest := s.th.moves.filter fun m => m.1 != src
  match s.migrationTarget src with
  | some t => State.wantPlace { s with th := { s.th with moves := rest ++ [(src, t, 1)] } } old
  | none =>
    let s : State := { s with th := { s.th with
      moves := rest, wants := (s.th.wants.filter fun w => w.1 != src) ++ [(src, s.clk.ref + 1000)] } }
    let bs := (s.blocksOn src).filter fun b => b.stop == some .migrate
    let s := bs.foldl (fun (s : State) b =>
      (s.withdrawAll b).modBlock b.uid fun b => { b with stop := none, groups := b.groups.map resumed }) s
    let s := bs.foldl (fun (s : State) b => s.afterMigration b) (s.l1Clear src)
    (s.wantPlace src).wantPlace old

/-- MIGRATION_TRANSFER (R181): the source's blocks have stopped, and those that end here instead have left. -/
def execMigrationTransfer (s : State) : Host.Outcome State Fault Refusal :=
  match s.th.moves.find? fun m => m.1 == s.inp.n with
  | none => .next s
  | some m =>
    let bs := s.blocksOn m.1
    if s.isGated (clusterOf m.1) || s.isGated (clusterOf m.2.1) then .next s
    else if bs.any fun b => b.stop == some .migrate && hasErrors b && s.allStopped b then
      .next (bs.foldl (fun (s : State) b => s.takeErrors b) s)
    else if bs.all s.movable then .next (if s.takesFrom m.1 m.2.1 then s.transfer m.1 m.2.1 else s.retarget m.1 m.2.1)
    else .next s

end Sys2Proof.Machine
end

