-- ==== Sys2Proof/Machine/Registers.lean ====
section
/-! DEFINITION. Device registers: access codes (R7), semaphores and the register groups they guard (R66 to R69), the
watchdogs (R60) and the measurement registers (R64). -/

namespace Sys2Proof.Machine
open Sys2Proof

/-! ### Access codes (R7 and the register tables) -/

/-- How many registers of a name a package has. A lane-cycle register is numbered 32 × core + range or bin, a table entry
64 × die + entry, a measurement register 8 × n + doubleword. -/
def regCount : RegName → Nat
  | .pwrVcl | .pwrVtail | .clkClf | .pwrCstat | .cxaCad | .pwrGatecnt | .fidErr | .fidInj => 64
  | .pwrPlim | .pwrRstat | .clkRefstat | .xltRootl | .xltRoots => 4
  | .hbmTctl | .hbmTstat | .hbmCecnt => 12
  | .uciPctl | .uciPstat | .uciSbdrop | .uciBadop => 2
  | .cplrPctl | .cplrPstat | .cplrVlthr | .cplrBadft | .cplrBadop | .cplrOvfl => 18
  | .fwcWdog => 7
  | .fwcMext => 8
  | .fwcMeas => 64
  | .clkVfmin => 4096
  | .pwrTable => 16
  | .fwcSem => 16
  | .queCtl | .queIstat | .queQuant | .queHead | .queGo | .queBase | .queCbase => 32
  | .dspLmap | .xltSlstat | .dspFragcnt | .dbgLcidle | .evcSel | .evcCnt => 256
  | .hbmShort | .dbgWpa | .dbgWpm | .dbgWctl | .dbgWpv | .dbgWpvm | .dbgWstat | .dbgWhpc | .dbgWhid | .dbgWhgt
  | .dbgWhd => 8
  | .xltStat => 5
  | .dbgLclo | .dbgLchi | .dbgLca | .dbgLcd | .dbgLcp | .dbgLcx => 8192
  | _ => 1

/-- The RW bits of a register whose write has no condition of its own. -/
def rwMask : RegName → DWord
  | .cxlReqto | .cplrE2eto | .queQuant | .xltHhead | .xltPfto | .dspStallto | .dspRsvto | .dspLead
  | .fwcElhead => 0xFFFFFFFF
  | .dbgTrctl => 0xFF
  | .xltHvec | .fwcElvec => 0x1FFFF
  | .dbgWpa | .dbgWpm | .dbgWpv | .dbgWpvm => 0xFFFFFFFFFFFFFFFF
  | .dbgWctl => 0xB
  | .dbgTrbase => 0xFFFFFFFFFFFFF000
  | .dbgTrsz => 0x1F
  | _ => 0

/-- The W1C bits of a register. -/
def w1cMask : RegName → DWord
  | .pwrCstat => 4
  | .hbmTstat => 0x8000000
  | .cplrPstat => 7
  | .fwcSem => 8
  | .fwcSemerr => 3
  | .queIstat => 0x7F
  | .xltStat => 0x80000000
  | .evcStat => 1
  | .dbgWstat => 0x8000000000000000
  | .dbgStopc => 0x80000000
  | _ => 0

/-- The RC bits of a register. -/
def rcMask : RegName → DWord
  | .pwrGatecnt | .dspFragcnt | .fwcEllost | .dbgTrlost => 0xFFFFFFFF
  | .cplrPstat => 0xFF00
  | .xltSlstat => 0xFF000000
  | .hbmShort | .dbgLca | .dbgLcd | .dbgLcp | .dbgLcx | .dbgLcidle => 0xFFFFFFFFFFFFFFFF
  | .dbgWstat => 0xFFFF00000000
  | _ => 0

/-- The registers only the firmware complex writes (R64, R72, R89, R96, R179). -/
def firmOnly : RegName → Bool
  | .uciPctl | .fwcMext | .fwcMextgo | .dspLmap | .xltRootl | .xltRoots | .xltRoot5 | .xltRoot6 | .dspSpbase | .dspSpsize => true
  | _ => false

/-! ### Semaphores (R66 to R69) -/

/-- A party as OWN numbers it. -/
def partyCode : Party → Nat
  | .portA => 1
  | .portB => 2
  | .firmware => 3

/-- The port of a party; nothing for the firmware. -/
def partyPort : Party → Option Nat
  | .portA => some 0
  | .portB => some 1
  | .firmware => none

/-- The party of a control port. -/
def portParty (port : Nat) : Party := if port = 0 then .portA else .portB

/-- The semaphore that guards a register (R34, R52, R68, R75, R112, R192, R277, R298 and R308). -/
def guardOfReg : RegName → Option Nat
  | .queCtl | .queIstat | .queGo | .queBase | .queCbase | .queQuant | .queHead | .xltHring | .xltHvec | .fwcElog | .fwcElvec | .fwcElhead | .cplrE2eto => some 0
  | .pwrPlim | .cxaCad | .pwrTable => some 2
  | .evcSel | .dbgLclo | .dbgLchi => some 4
  | .fidInj | .dbgWpa | .dbgWpm | .dbgWctl | .dbgWpv | .dbgWpvm | .dbgWstat | .dbgWhpc | .dbgWhid | .dbgWhgt | .dbgWhd | .dbgTrbase
  | .dbgTrsz | .dbgTrhead | .dbgTrctl | .dbgTrlost | .dbgStopc | .dbgStopt => some 5
  | .cxlReqto => some 7
  | _ => none

/-- The owner of a semaphore. -/
def State.semOwner (s : State) (n : Nat) : Nat := s.field .fwcSem n 0 2

/-- A party owns a semaphore. -/
def State.owns (s : State) (p : Party) (n : Nat) : Bool := s.semOwner n == partyCode p

/-- Records a refused guarded write (R68). -/
def State.violate (s : State) (sem : Nat) (r : RegName) (i : Nat) : State :=
  let s := if s.field .fwcSemerr 0 1 1 = 1 then s
    else (s.setField .fwcSemerr 0 32 32 (Config.regOffset (regCode r) i).toNat).setField .fwcSemerr 0 8 4 sem
  s.setField .fwcSemerr 0 1 1 1

/-- Carries out a register write if its party owns the guarding semaphore; a write to a register there is none of, or that
only the firmware makes, has no effect (R68). -/
def State.guardedWrite (s : State) (p : Party) (r : RegName) (i : Nat) (eff : State → State) : State :=
  if regCount r ≤ i ∨ (firmOnly r ∧ p ≠ .firmware) then s
  else
    match guardOfReg r with
    | some n => if s.owns p n then eff s else s.violate n r i
    | none => eff s

/-- PHASE of FWC_BSTAT. -/
def State.bootPhase (s : State) : Nat := s.field .fwcBstat 0 28 4

/-- A party's ACQ is heard (R66): a control port that is down has no writes (R69). -/
def State.mayAcquire (s : State) (p : Party) : Bool :=
  match partyPort p with
  | none => true
  | some port => 3 ≤ s.bootPhase && s.portUp port

/-- The first of several parties in cyclic order after the winner of the last contest (R67). -/
def firstParty (last : Nat) (ps : List Party) : Option Party :=
  (List.range 3).findSome? fun k => ps.find? fun p => partyCode p == (last + k) % 3 + 1

/-- ACQ writes of one cycle to a semaphore (R66, R67). -/
def State.acquire (s : State) (n : Nat) (ps : List Party) : State :=
  let ps := (ps.filter s.mayAcquire).eraseDups
  if 16 ≤ n ∨ s.semOwner n ≠ 0 then s
  else
    match firstParty (FMap.get 0 s.fw.semLast n) ps with
    | none => s
    | some p =>
      let s := s.setField .fwcSem n 0 2 (partyCode p)
      if 2 ≤ ps.length then { s with fw := { s.fw with semLast := FMap.set 0 s.fw.semLast n (partyCode p) } } else s

/-- SEMAPHORE_ACQUIRE (R66, R67). -/
def execSemaphoreAcquire (s : State) : Host.Outcome State Fault Refusal :=
  match s.inp.msg with
  | .writers ps => .next (s.acquire s.inp.n ps)
  | _ => .next (s.acquire s.inp.n [s.inp.who])

/-- Releases the semaphores of a mask (R66). -/
def State.release (s : State) (p : Party) (mask : DWord) : State :=
  ((List.range 16).filter fun n => mask.getLsbD n).foldl (fun (s : State) n =>
    if s.owns p n then s.setField .fwcSem n 0 2 0 else s.setField .fwcSemerr 0 0 1 1) s

/-- SEMAPHORE_RELEASE (R66). -/
def execSemaphoreRelease (s : State) : Host.Outcome State Fault Refusal := .next (s.release s.inp.who s.inp.v)

/-- A control port leaves its active state: every semaphore it owns is free and BROKEN (R69). -/
def State.breakSems (s : State) (p : Party) : State :=
  ((List.range 16).filter (s.owns p)).foldl (fun (s : State) n => (s.setField .fwcSem n 0 2 0).setField .fwcSem n 3 1 1) s

/-! ### Plain writes and reads (R7) -/

/-- Sets RW bits and clears W1C bits. Clearing HIT clears the record, clearing VIOL clears OFFS and SEM (R68, R305). -/
def State.plainWrite (s : State) (r : RegName) (i : Nat) (v : DWord) : State :=
  let old := s.reg r i
  let w := v &&& w1cMask r
  let s := s.setReg r i (((old &&& ~~~(rwMask r)) ||| (v &&& rwMask r)) &&& ~~~w)
  if r == .fwcSemerr && v.getLsbD 1 then (s.setField r i 32 32 0).setField r i 8 4 0
  else if r == .dbgWstat && v.getLsbD 63 then
    let s := (s.setField r i 60 3 0).setField r i 0 32 0
    (((s.setReg .dbgWhpc i 0).setReg .dbgWhid i 0).setReg .dbgWhgt i 0).setReg .dbgWhd i 0
  else s

/-- The key of a lane-cycle count (R300): 128 × core + 4 × bin + class; the idle count is bin 17. -/
def laneKey : RegName → Nat → Option Nat
  | .dbgLca, i => some (i / 32 * 128 + 4 * (i % 32))
  | .dbgLcd, i => some (i / 32 * 128 + 4 * (i % 32) + 1)
  | .dbgLcp, i => some (i / 32 * 128 + 4 * (i % 32) + 2)
  | .dbgLcx, i => some (i / 32 * 128 + 4 * (i % 32) + 3)
  | .dbgLcidle, i => some (i * 128 + 68)
  | _, _ => none

/-- Clears the RC bits of a register. -/
def State.clearRead (s : State) (r : RegName) (i : Nat) : State :=
  match laneKey r i with
  | some k => { s with dbg := { s.dbg with lanes := FMap.set 0 s.dbg.lanes k 0 } }
  | none => if rcMask r = 0 then s else s.setReg r i (s.reg r i &&& ~~~(rcMask r))

/-- REGISTER_READ_CLEAR (R7): the value returned is that of the read (State.regRead), and the RC fields are zero after. -/
def execRegisterReadClear (s : State) : Host.Outcome State Fault Refusal :=
  if s.inp.n < regCount s.inp.reg then .next (s.clearRead s.inp.reg s.inp.n) else .next s

/-! ### Watchdogs (R60) -/

/-- Interrupts both control ports; the vector is not stated (log entry 2). -/
def State.intrBoth (s : State) : State :=
  let v := BitVec.ofNat 16 s.freeNat
  ((s.draw.sendIntr 0 v).sendIntr 1 v)

/-- Reloads or disables a watchdog; the deadline is kept, 0 when disabled. -/
def State.wdogWrite (s : State) (n : Nat) (v : DWord) : State :=
  let c := v.toNat % 2 ^ 32
  if 7 ≤ n then s
  else { s with fw := { s.fw with wdog := FMap.set 0 s.fw.wdog n (if c = 0 then 0 else s.clk.ref + c) } }

/-- FWC_WDOG_WRITE (R60). -/
def execFwcWdogWrite (s : State) : Host.Outcome State Fault Refusal :=
  .next (s.guardedWrite s.inp.who .fwcWdog s.inp.n fun s => s.wdogWrite s.inp.n s.inp.v)

/-- A watchdog's count has run out. -/
def State.wdogDue (s : State) (n : Nat) : Bool :=
  let d := FMap.get 0 s.fw.wdog n
  d != 0 && d ≤ s.clk.ref

/-- SERVICE_WATCHDOG_EXPIRY (R60): that core alone is reset, its watchdog with it, and restarts at the entry of its image; the
control core is interrupted. The reset is one step here, so that no message is addressed to the core during it. The expired
watchdog holds 0, disabled, until it is written again (DESIGN CHOICE, log entry 118). -/
def execServiceWatchdogExpiry (s : State) : Host.Outcome State Fault Refusal :=
  let n := s.inp.n
  if 1 ≤ n ∧ n ≤ 6 ∧ s.wdogDue n then
    let s := s.wdogWrite n 0
    .next { s with
      fw := { s.fw with cores := FMap.set {} s.fw.cores n { pc := BitVec.ofNat 64 (FMap.get 0 s.fw.entries n) } }
      sent := s.sent ++ [.control n] }
  else .next s

/-- Sets PHASE 15, with a cause (R74). -/
def State.bootFail (s : State) (err : Nat) : State := (s.setField .fwcBstat 0 28 4 15).setField .fwcBstat 0 20 8 err

/-- CONTROL_WATCHDOG_EXPIRY (R60, R74): WDOG marks this case; the spec gives it no ERR code. -/
def execControlWatchdogExpiry (s : State) : Host.Outcome State Fault Refusal :=
  if s.wdogDue 0 then
    let s : State := { (s.wdogWrite 0 0) with fw := { (s.wdogWrite 0 0).fw with down := true } }
    .next ((s.setField .fwcBstat 0 28 4 15).setField .fwcBstat 0 14 1 1).intrBoth
  else .next s

/-! ### Measurement (R64) -/

/-- The bytes of a 512-bit register, first byte lowest. -/
def measBytes (x : BitVec 512) : List Byte := bytesLE 64 x.toNat

/-- A digest as a register holds it. -/
def measOf (bs : List Byte) : BitVec 512 := BitVec.ofNat 512 (natOfBytes bs)

/-- SHA-512 of the 64 KiB boot ROM (R61, R64). -/
def Config.romDigest : BitVec 512 := measOf (sha512 ((List.range 65536).map Config.romByte))

/-- Extends a measurement register by 64 bytes; there is none with a number above 7 (DESIGN CHOICE, log entry 102). -/
def State.extend (s : State) (n : Nat) (bs : List Byte) : State :=
  if 8 ≤ n then s
  else { s with fw := { s.fw with
    meas := FMap.set 0 s.fw.meas n (measOf (sha512 (measBytes (FMap.get 0 s.fw.meas n) ++ bs))) } }

/-- FWC_MEXT, 64 bits at a time: doubleword i of the 64 bytes. -/
def State.mextWrite (s : State) (i : Nat) (v : DWord) : State :=
  let old := s.fw.mext.toNat
  { s with fw := { s.fw with
    mext := BitVec.ofNat 512 (old - old / 2 ^ (64 * i) % 2 ^ 64 * 2 ^ (64 * i) + v.toNat * 2 ^ (64 * i)) } }

/-- MEASUREMENT_EXTEND (R64). -/
def execMeasurementExtend (s : State) : Host.Outcome State Fault Refusal :=
  .next (s.guardedWrite s.inp.who .fwcMextgo 0 fun s => s.extend s.inp.v.toNat (measBytes s.fw.mext))

end Sys2Proof.Machine
end

