-- ==== Sys2Proof/Machine/Power.lean ====
section
/-! DEFINITION. Rails, clocks, cadence, thermal control and bring-up (R38 to R58, R86). -/

namespace Sys2Proof.Machine
open Sys2Proof

/-! ### A cluster's state of power (R42, R44) -/

def State.powerOf (s : State) (cl : Nat) : ClusterPower := FMap.get {} s.th.power cl

def State.modPower (s : State) (cl : Nat) (f : ClusterPower → ClusterPower) : State :=
  { s with th := { s.th with power := FMap.set {} s.th.power cl (f (s.powerOf cl)) } }

/-- IDLE of PWR_CSTAT (R44). -/
def State.clusterIdle (s : State) (cl : Nat) : Bool :=
  s.field .pwrCstat cl 0 1 == 1 && s.cores.blocks.all (fun b => clusterOf b.core != cl)
    && (s.cluster cl).book.isEmpty && s.cores.chans.all fun x => clusterOf x.1.1 != cl || x.2.isEmpty

/-- A refused write of power or clocks. -/
def State.powerRefused (s : State) (cl : Nat) : State := s.setField .pwrCstat cl 2 1 1

/-- The bit positions of the three tail codes in PWR_VTAIL. -/
def tailBits : List Nat := [0, 8, 16]

/-- A tail code is in its range for a VCL code (R39). -/
def tailOk (vcl tail : Nat) : Bool := vcl - 30 ≤ tail && tail ≤ vcl

/-- The targets of a cluster's four rails, in steps of 0.5 mV above 0.50 V. -/
def State.railTargets (s : State) (cl : Nat) : List Nat :=
  (10 * s.field .pwrVcl cl 0 7) :: tailBits.map fun lo => 10 * s.field .pwrVtail cl lo 7

/-- One step of 0.5 mV towards a target. -/
def railStep (now target : Nat) : Nat := if now < target then now + 1 else if target < now then now - 1 else now

/-- The rails after one REFTICK: all four move together, and the tail rails stay within R39 of VCL (R42). -/
def railsNext (now targets : List Nat) : List Nat :=
  let v := railStep (now.headD 0) (targets.headD 0)
  v :: (List.zip now.tail targets.tail).map fun x => max (v - 300) (min v (railStep x.1 x.2))

/-- A cluster's rails move for one REFTICK; CUR is the greatest code not above VCL (R41, R42, log entry 97). -/
def State.railTick (s : State) (cl : Nat) : State :=
  let p := s.powerOf cl
  if !p.slewing then s
  else
    let rails := railsNext p.rails (s.railTargets cl)
    (s.setField .pwrVcl cl 16 7 (rails.headD 0 / 10)).modPower cl fun p => { p with rails := rails }

/-- The rails begin to slew where one of them is not at its target (R42). -/
def State.slew (s : State) (cl : Nat) : State :=
  if (s.powerOf cl).rails = s.railTargets cl then s
  else (s.setField .pwrVcl cl 31 1 1).modPower cl fun p => { p with slewing := true, slewAt := s.clk.ref }

/-- A write of PWR_VCL (R41, R42, R44, R46). -/
def State.vclWrite (s : State) (cl : Nat) (v : DWord) : State :=
  let t := v.toNat % 128
  let old := s.field .pwrVcl cl 0 7
  let tail (lo : Nat) : Nat := if s.field .pwrVtail cl lo 7 = old then t else s.field .pwrVtail cl lo 7
  if s.clusterIdle cl && t ≤ 70 && (Config.vfMin cl (s.field .clkClf cl 0 6)).toNat ≤ t && tailBits.all (fun lo => tailOk t (tail lo)) then
    let s' := tailBits.foldl (fun (a : State) lo => a.setField .pwrVtail cl lo 7 (tail lo)) s
    (s'.setField .pwrVcl cl 0 7 t).slew cl
  else s.powerRefused cl

/-- PWR_VCL_WRITE (R41). -/
def execPwrVclWrite (s : State) : Host.Outcome State Fault Refusal :=
  .next (s.guardedWrite s.inp.who .pwrVcl s.inp.n fun s => s.vclWrite s.inp.n s.inp.v)

/-- A write of PWR_VTAIL (R39, R41, R44). Every choice of rails in range is one that fidelity 3 allows (R40). -/
def State.vtailWrite (s : State) (cl : Nat) (v : DWord) : State :=
  let code (lo : Nat) : Nat := v.toNat / 2 ^ lo % 128
  let vcl := s.field .pwrVcl cl 0 7
  if s.clusterIdle cl && tailBits.all fun lo => tailOk vcl (code lo) then
    (tailBits.foldl (fun (a : State) lo => a.setField .pwrVtail cl lo 7 (code lo)) s).slew cl
  else s.powerRefused cl

/-- PWR_VTAIL_WRITE (R41). -/
def execPwrVtailWrite (s : State) : Host.Outcome State Fault Refusal :=
  .next (s.guardedWrite s.inp.who .pwrVtail s.inp.n fun s => s.vtailWrite s.inp.n s.inp.v)

/-- The cores of a cluster attempt placement. -/
def State.placeOn (s : State) (cl : Nat) : State := (coresOf cl).foldl (fun (s : State) c => s.wantPlace c) s

/-- REGULATOR_SLEW_DONE (R42): every rail has reached its target; a launch that waits for this operating point may be placed. -/
def execRegulatorSlewDone (s : State) : Host.Outcome State Fault Refusal :=
  let cl := s.inp.n
  if (s.powerOf cl).slewing && (s.powerOf cl).rails == s.railTargets cl then
    .next (((s.setField .pwrVcl cl 31 1 0).modPower cl fun p => { p with slewing := false }).placeOn cl)
  else .next s

/-- A write of CLK_CLF (R43, R44, R46): the clock stops until the PLL locks, after at most 2,000 REFTICKs, which the spec does not
state nearer. -/
def State.clfWrite (s : State) (cl : Nat) (v : DWord) : State :=
  let f := v.toNat % 64
  if s.clusterIdle cl && 18 ≤ f && f ≤ 44 && (Config.vfMin cl f).toNat ≤ s.field .pwrVcl cl 16 7 then
    let at_ := s.clk.ref + 1 + s.freeNat % 2000
    ((s.draw.setField .clkClf cl 0 6 f).setField .clkClf cl 31 1 0).modPower cl fun p => { p with
      relock := true, lockAt := at_, clfAt := s.clk.ref }
  else s.powerRefused cl

/-- CLK_CLF_WRITE (R43). -/
def execClkClfWrite (s : State) : Host.Outcome State Fault Refusal :=
  .next (s.guardedWrite s.inp.who .clkClf s.inp.n fun s => s.clfWrite s.inp.n s.inp.v)

/-- PLL_LOCK (R44): a launch that waits for this operating point may be placed. -/
def execPllLock (s : State) : Host.Outcome State Fault Refusal :=
  let cl := s.inp.n
  if (s.powerOf cl).relock then
    .next (((s.setField .clkClf cl 31 1 1).modPower cl fun p => { p with relock := false }).placeOn cl)
  else .next s

/-- A write of PWR_CSTAT (R44): HOLD, and CFGERR cleared by 1. -/
def State.cstatWrite (s : State) (cl : Nat) (v : DWord) : State :=
  let s := (s.plainWrite .pwrCstat cl v).setField .pwrCstat cl 0 1 (v.toNat % 2)
  if v.getLsbD 0 then s else s.placeOn cl

/-- PWR_CSTAT_HOLD_WRITE (R44). -/
def execPwrCstatHoldWrite (s : State) : Host.Outcome State Fault Refusal :=
  .next (s.guardedWrite s.inp.who .pwrCstat s.inp.n fun s => s.cstatWrite s.inp.n s.inp.v)

/-! ### Cadence and the limiter (R50 to R52) -/

/-- A write of CXA_CAD (R50). -/
def State.cadWrite (s : State) (cl : Nat) (v : DWord) : State :=
  let c := v.toNat % 32
  if 1 ≤ c ∧ c ≤ 16 then s.setField .cxaCad cl 0 5 c else s.powerRefused cl

/-- CXA_CAD_WRITE (R50, R68). -/
def execCxaCadWrite (s : State) : Host.Outcome State Fault Refusal :=
  .next (s.guardedWrite s.inp.who .cxaCad s.inp.n fun s => s.cadWrite s.inp.n s.inp.v)

/-- The clusters of a die. -/
def clustersOf (die : Nat) : List Nat := (List.range 16).map (16 * die + ·)

/-- A write of PWR_PLIM (R52). -/
def State.plimWrite (s : State) (die : Nat) (v : DWord) : State :=
  let w := v.toNat % 2048
  if 100 ≤ w ∧ w ≤ 1200 then s.setReg .pwrPlim die (BitVec.ofNat 64 w)
  else (clustersOf die).foldl (fun (s : State) cl => s.powerRefused cl) s

/-- PWR_PLIM_WRITE (R52, R68). -/
def execPwrPlimWrite (s : State) : Host.Outcome State Fault Refusal :=
  .next (s.guardedWrite s.inp.who .pwrPlim s.inp.n fun s => s.plimWrite s.inp.n s.inp.v)

/-- A cluster is busy: a block is resident on one of its cores. -/
def State.clusterBusy (s : State) (cl : Nat) : Bool := s.cores.blocks.any fun b => clusterOf b.core == cl

/-- The largest of the ceilings of the power classes whose launches are resident on a cluster (R50; of several, DESIGN CHOICE, log
entry 98). -/
def State.ceiling (s : State) (cl : Nat) : Nat :=
  (s.cores.blocks.filter fun b => clusterOf b.core == cl).foldl (fun n b =>
    match s.th.rows.find? fun x => x.1 == recPclass b.lrec with
    | some (_, _, _, c) => max n c
    | none => n) 0

/-- EFF of CXA_CAD (R50). -/
def State.effCadence (s : State) (cl : Nat) : Nat := max (max (s.field .cxaCad cl 0 5) (s.field .cxaCad cl 8 5)) (s.ceiling cl)

/-- One comparison of a die's limiter (R51). -/
def State.limiter (s : State) (die estimate : Nat) : State :=
  let lim := s.field .pwrPlim die 0 11
  ((clustersOf die).filter s.clusterBusy).foldl (fun (s : State) cl =>
    let n := s.field .cxaCad cl 8 5
    if lim < estimate then s.setField .cxaCad cl 8 5 (min 16 (n + 1))
    else if estimate * 100 ≤ lim * 95 then s.setField .cxaCad cl 8 5 (max 1 (n - 1))
    else s) s

/-- POWER_LIMITER_TICK (R51). -/
def execPowerLimiterTick (s : State) : Host.Outcome State Fault Refusal := .next (s.limiter s.inp.n s.inp.m)

/-- SUPPLY_DROOP (R51). -/
def execSupplyDroop (s : State) : Host.Outcome State Fault Refusal :=
  if s.inp.n < 64 then .next (s.setField .cxaCad s.inp.n 8 5 16) else .next s

/-! ### GTICK (R49) -/

/-- A write of CLK_GTCTL: GTICK starts once and never stops (R49). -/
def State.gtctlWrite (s : State) (v : DWord) : State :=
  if v.getLsbD 0 then { s with clk := { s.clk with run := true } } else s

/-- GTICK_START (R49). -/
def execGtickStart (s : State) : Host.Outcome State Fault Refusal :=
  .next (s.guardedWrite s.inp.who .clkGtctl 0 fun s => s.gtctlWrite s.inp.v)

/-! ### Thermal control (R53 to R55) -/

/-- The core of a block; none for one that has left. -/
def State.coreOfBlock (s : State) (uid : Nat) : Option Nat := (s.block? uid).map fun b => b.core

/-- The core whose clock an event needs: it executes there, or is another party's request of it (R55). -/
def State.eventCore (s : State) (i : Instr) (x : Input) : Option Nat :=
  match i with
  | .runGrant | .copyBeatDeliver | .copyDescriptorComplete | .depotSend | .promoteReceive | .sideLogReplay | .walkerStart
  | .placementAttempt | .workReaskTimer | .stallTimeout => some x.n
  | .split =>
    if x.on then
      (if x.key.pod = s.own ∧ (s.ownAsked x.key x.m).isNone then none else (s.pickVictim x.key 0 256).map fun c => c.core)
    else some (if s.isGated (clusterOf x.n) then x.n else x.m)
  | .rangeReceive =>
    if x.n / 256 = s.own ∧ !(x.key.pod == s.own && (s.ownAsked x.key x.n).isSome) then some (s.thiefCore x.n) else none
  | .replayDoneMarker => if x.n < 256 then some x.n else none
  | .bookingGrant | .arrayOpComplete => some (4 * x.n)
  | .groupDue | .longResultReturn | .sleepExpiry | .memoryWaitRecheck | .launchStatusReturn | .qmuOpComplete | .nestComplete
  | .blockRetire | .faultBlockEnd | .cancelledBlockRemove | .preemptionStopComplete => s.coreOfBlock x.n
  | .accessRsp | .accessAck | .accessErr =>
    if x.who = .portA then none else (s.req? x.n).bind fun r => if r.core < 256 then some r.core else none
  | .promoteAck => (s.fab.proms.find? fun p => p.id == x.n).map fun p => p.core
  | _ => none

/-- The cluster whose clock a turn needs. -/
def State.turnCluster (s : State) : Turn → Option Nat
  | .event i x => (s.eventCore i x).map clusterOf
  | .issue core _ => some (clusterOf core)
  | .upset _ | .firm _ => none

/-- A turn must wait for the clock of its cluster (R55); those of a die whose VCL is removed wait for ever (R56). -/
def State.mustWait (s : State) (t : Turn) : Bool := match s.turnCluster t with | some cl => s.isGated cl | none => false

/-- The sensors of a cluster: its four cores and its array. -/
def clusterSensors (cl : Nat) : List Sensor := (coresOf cl).map .core ++ [.array cl]

/-- A core hot, or cool again: a migration request is served, or withdrawn (R53, R54). -/
def State.coreHeat (s : State) (core t : Nat) : State :=
  if 95 ≤ t then
    if s.hasGroups core && !(s.th.wants.any fun w => w.1 == core) then s.tryMigrate core else s
  else if t ≤ 90 then { s with th := { s.th with wants := s.th.wants.filter fun w => w.1 != core } }
  else s

/-- A stack or a bank warm, or no longer (R53). -/
def State.warmth (s : State) (key t : Nat) : State :=
  if 85 ≤ t then { s with th := { s.th with warm := insertNat key s.th.warm } }
  else if t ≤ 80 then { s with th := { s.th with warm := s.th.warm.filter (· != key) } }
  else s

/-- The gate of a cluster closes (R55): the count, and an error-log entry of kind 3 that names die and cluster in its VA
field (log entry 17). -/
def State.gateClose (s : State) (cl : Nat) : State :=
  let s := (s.setField .clkClf cl 30 1 1).setReg .pwrGatecnt cl (BitVec.ofNat 64 (((s.reg .pwrGatecnt cl).toNat + 1) % 2 ^ 32))
  let s := s.modPower cl fun p => { p with gatedAt := s.clk.ref }
  s.logEntry 3 0 0 0 (BitVec.ofNat 64 (256 * (cl / 16) + cl % 16)) (List.replicate 64 0)

/-- How long a time that began at t stood still from REFTICK a to REFTICK b (R55). -/
def stood (a b t : Nat) : Nat := b - Nat.max a t

/-- A time t that stood still from REFTICK a to REFTICK b (R55); one that began meanwhile begins at b. -/
def stoodStill (a b t : Nat) : Nat := t + stood a b t

/-- A request's time-outs stood still (R55). -/
def shiftReq (cl a b : Nat) (r : Req) : Req :=
  if r.core / 4 ≠ cl ∨ r.scr then r
  else
    { r with
      sent := stoodStill a b r.sent
      phase := match r.phase with
        | .parked since => .parked (stoodStill a b since)
        | .cxl due e k => .cxl (if due = 0 then 0 else due + stood a b r.began) e k
        | p => p }

/-- The gate opens (R55): time-outs of the cluster's requests go on from where they stood, and what waited proceeds. -/
def State.gateOpen (s : State) (cl : Nat) : State :=
  let a := (s.powerOf cl).gatedAt
  let b := s.clk.ref
  let mine := (s.fab.reqs.filter fun r => r.core / 4 == cl && r.phase == .away).map fun r => r.id
  let s : State := { s with
    fab := { s.fab with
      reqs := s.fab.reqs.map (shiftReq cl a b)
      side := s.fab.side.map fun e => if e.core / 4 == cl then { e with since := stoodStill a b e.since } else e }
    lnk := { s.lnk with away := s.lnk.away.map fun x => if mine.contains x.id then { x with due := x.due + stood a b x.began } else x }
    cores := { s.cores with runs := s.cores.runs.map fun r =>
      if r.core / 4 == cl then { r with stall := r.stall.map (stoodStill a b) } else r } }
  let s := (s.setField .clkClf cl 30 1 0).placeOn cl
  let s : State := { s with agenda := s.agenda ++ s.frozen.filter (fun t => !s.mustWait t), frozen := s.frozen.filter s.mustWait }
  let keys := ((s.lau.pkgs.filter fun p => p.canc).map fun p => p.key).eraseDups
  keys.foldl (fun (s : State) k => (s.closeRanges k).cancelBlocks k) s

/-- The gate of a cluster after a sample (R53, R55). It stays closed while a sensor of the cluster has no reading (DESIGN CHOICE,
log entry 99). -/
def State.gateCheck (s : State) (cl : Nat) : State :=
  let temps := (clusterSensors cl).map s.temp
  if s.field .clkClf cl 30 1 = 1 then
    if temps.all fun t => match t with | some t => t ≤ 90 | none => false then s.gateOpen cl else s
  else if temps.any fun t => match t with | some t => 105 ≤ t | none => false then s.gateClose cl
  else s

/-- A trip (R53): every rail is removed, and only a power cycle ends it. -/
def State.trip (s : State) : State :=
  { s with clk := { s.clk with tripped := true, thermtrip := false }, agenda := [] }

/-- One reading is noted. -/
def State.noteReading (s : State) (r : Reading) : State :=
  let s : State := { s with th := { s.th with temps := FMap.set 0 s.th.temps (sensorKey r.sensor) (r.celsius + 1) } }
  match r.sensor with
  | .stack _ | .bank _ _ => s.warmth (sensorKey r.sensor) r.celsius
  | _ => s

/-- A sample of the sensors (R53). -/
def State.sample (s : State) (rs : List Reading) : State :=
  let s := rs.foldl State.noteReading s
  if rs.any fun r => 115 ≤ r.celsius then s.trip
  else
    let s := (List.range 64).foldl State.gateCheck s
    rs.foldl (fun (s : State) r => match r.sensor with | .core n => s.coreHeat n r.celsius | _ => s) s

/-- SENSOR_SAMPLE (R53). -/
def execSensorSample (s : State) : Host.Outcome State Fault Refusal :=
  match s.inp.msg with
  | .readings rs => .next (s.sample rs)
  | _ => .next s

/-! ### Bandwidth shares (R85, R86) -/

/-- 64-byte transfers that 1/256 of a stack's 3.072 TB/s carries in 10,000 REFTICKs. -/
def shareTransfers : Nat := 18750

/-- The share of partition j on a stack. -/
def State.shareOf (s : State) (j stack : Nat) : Nat :=
  match s.lau.parts.find? fun p => p.1 == j with
  | some p => p.2.2.2.getD stack 0
  | none => 0

/-- The sum of the shares on a stack. -/
def State.shareSum (s : State) (stack : Nat) : Nat := (List.range 8).foldl (fun n j => n + s.shareOf j stack) 0

/-- What a partition receives of a stack in an interval (R86). -/
def State.received (s : State) (j stack avail : Nat) : Nat :=
  let g := s.shareOf j stack
  let sum := s.shareSum stack
  if sum ≤ avail then g else g * avail / sum

/-- Transfers that partition j requested within its guarantee and could not receive. -/
def State.shortfall (s : State) (j stack avail demand : Nat) : Nat :=
  min demand (shareTransfers * s.shareOf j stack) - min demand (shareTransfers * s.received j stack avail)

/-- A stack falls short of a partition's share. -/
def State.isShort (s : State) (j : Nat) (avail : List Nat) : Bool :=
  (List.range 12).any fun st => s.received j st (avail.getD st 256) < s.shareOf j st

/-- Interrupts the ports named by the bindings of a partition's queues, once each, with the vector of the lowest. -/
def State.intrPart (s : State) (j : Nat) : State :=
  [false, true].foldl (fun (s : State) side =>
    match (List.range 32).find? fun q =>
        let p := FMap.get {} s.que.ports q
        p.state != .unbound && p.part.toNat == j && p.port == side with
    | some q => s.sendIntr side.toNat (FMap.get {} s.que.ports q).vec
    | none => s) s

/-- One interval of R86. -/
def State.bandwidth (s : State) (avail : List Nat) (demand : List (List Nat)) : State :=
  (List.range 8).foldl (fun (s : State) j =>
    let lost := (List.range 12).foldl (fun n st =>
      n + s.shortfall j st (avail.getD st 256) ((demand.getD j []).getD st 0)) 0
    let s := s.setReg .hbmShort j (BitVec.ofNat 64 ((s.reg .hbmShort j).toNat + lost))
    let was := s.th.short.contains j
    if s.isShort j avail then
      if was then s else State.intrPart { s with th := { s.th with short := insertNat j s.th.short } } j
    else { s with th := { s.th with short := s.th.short.filter (· != j) } }) s

/-- BANDWIDTH_INTERVAL (R86). -/
def execBandwidthInterval (s : State) : Host.Outcome State Fault Refusal :=
  match s.inp.msg with
  | .bandwidth a d => .next (s.bandwidth a d)
  | _ => .next s

/-! ### Supplies, the reference and bring-up (R56, R57, R74) -/

/-- VSRGOOD: VSR has stayed in range for 1,000 REFTICKs (R57). -/
def State.vsrGood (s : State) (die : Nat) : Bool :=
  let t := FMap.get 0 s.th.vsr die
  t != 0 && t + 999 ≤ s.clk.ref

/-- VSR_SUPPLY_CHANGE (R57). -/
def execVsrSupplyChange (s : State) : Host.Outcome State Fault Refusal :=
  let die := s.inp.n
  let t := FMap.get 0 s.th.vsr die
  let t' := if s.inp.on then (if t = 0 then s.clk.ref + 1 else t) else 0
  if die < 4 then
    .next (State.setField { s with th := { s.th with vsr := FMap.set 0 s.th.vsr die t' } } .pwrRstat die 1 1 (!s.inp.on).toNat)
  else .next s

/-- REFERENCE_CLOCK_CHANGE (R57): the package has one reference, which each die's register shows. -/
def execReferenceClockChange (s : State) : Host.Outcome State Fault Refusal :=
  .next ((List.range 4).foldl (fun (s : State) d => s.setField .clkRefstat d 0 1 s.inp.on.toNat) s)

/-- REFTICKs of the firmware's poll of what a stack does in a mode; mode 0 is leaving reset (R70). -/
def hbmLimit (mode : Nat) : Nat :=
  if mode = 0 then 20000 else if mode ≤ 2 then 50000 else if mode = 8 then 1000 else 100000

/-- Stacks whose poll has run past its limit while the firmware brings the package up (R70). -/
def State.hbmOverdue (s : State) : List Nat :=
  if s.bootPhase ≠ 1 then []
  else ((s.fw.training ++ s.fw.rising).filter fun t => t.2.2 + hbmLimit t.2.1 < s.clk.ref).map fun t => t.1

/-- A poll of a die's bring-up has missed its limit: 0x10 + a step of R56 that polls, or 0x20 + a stack of the die, one of whose steps
has failed (R56, R70, R74). A die's first poll begins no earlier than the firmware, and the second once VSRGOOD stands. -/
def State.pollFails (s : State) (die err : Nat) : Bool :=
  let ref := s.clk.ref
  let stack := err - 0x20
  s.bootPhase == 1 &&
    match err with
    | 0x11 => !s.vsrGood die && (s.fw.began + 100000 < ref : Bool)
    | 0x12 => s.vsrGood die && s.field .clkRefstat die 0 1 == 0 && (max s.fw.began (FMap.get 0 s.th.vsr die + 999) + 10000 < ref : Bool)
    | 0x14 => (clustersOf die).any fun cl => s.field .pwrVcl cl 31 1 == 1 && ((s.powerOf cl).slewAt + 500 < ref : Bool)
    | 0x16 => (clustersOf die).any fun cl => (s.powerOf cl).relock && ((s.powerOf cl).clfAt + 2000 < ref : Bool)
    | _ => (0x20 ≤ err : Bool) && (err < 0x2C : Bool) && stack / 3 == die
        && (s.fw.failed.contains stack || s.hbmOverdue.contains stack)

/-- BRING_UP_FAILURE (R56, R70, R74): the firmware removes the die's VCL. -/
def execBringUpFailure (s : State) : Host.Outcome State Fault Refusal :=
  if s.inp.n < 4 ∧ s.fw.boot = .firmware ∧ !s.fw.down ∧ s.pollFails s.inp.n s.inp.v.toNat then
    .next (State.bootFail { s with th := { s.th with dark := insertNat s.inp.n s.th.dark } } s.inp.v.toNat)
  else .next s

/-- The firmware has polled a Coupler port to its end: it is trained, it has failed, or 400,000 REFTICKs have passed (R73). -/
def State.cplrTried (s : State) (k : Nat) : Bool :=
  let p := FMap.get {} s.lnk.cplr k
  p.tried != 0 && (p.state == .active || p.state == .retrain || p.state == .disabled || p.tried + 400000 ≤ s.clk.ref)

/-- A UCIe port has ended its training, or its 200,000 REFTICKs have passed (R71). -/
def State.ucieTried (s : State) (p : UciePort) : Bool := p.ltsm != 1 || (p.since + 200000 ≤ s.clk.ref : Bool)

/-- A stack has passed every step of R70. -/
def State.stackTrained (s : State) (st : Nat) : Bool :=
  s.field .hbmTstat st 29 1 == 1 && (List.range 5).all (fun i => (FMap.get 0 s.fw.passed st).testBit (i + 1)) && !s.fw.failed.contains st

/-- Every step of R56 and every sequence of R70 to R73 has completed, and FWC_MEAS4 has been extended (R74). A UCIe or
Coupler port that failed to train does not fail the boot. -/
def State.broughtUp (s : State) : Bool :=
  s.fw.boot == .firmware && !s.fw.down && s.bootPhase == 1 && s.clk.run && FMap.get 0 s.fw.meas 4 != 0
    && (List.range 4).all (fun d => s.vsrGood d && s.field .clkRefstat d 0 1 == 1)
    && (List.range 64).all (fun cl => s.field .clkClf cl 31 1 == 1 && s.field .pwrVcl cl 31 1 == 0 && s.field .pwrCstat cl 0 1 == 0)
    && (List.range 12).all s.stackTrained && s.lnk.ucie.all s.ucieTried && (List.range 18).all s.cplrTried

/-- A write of a row of the power table (R45, R68): bit 31 marks it valid, with FMUL in bits 5 to 0, the VCL code in 14 to 8 and
the cadence ceiling in 20 to 16 (log entry 15). -/
def State.rowWrite (s : State) (row : Nat) (v : DWord) : State :=
  let fields := ((v.extractLsb' 0 6).toNat, (v.extractLsb' 8 7).toNat, (v.extractLsb' 16 5).toNat)
  let rest := s.th.rows.filter fun x => x.1 != row
  let s : State := { s with th := { s.th with rows := if v.getLsbD 31 then FMap.put rest row fields else rest } }
  (List.range 64).foldl (fun (s : State) cl => s.placeOn cl) s

/-- A row of the power table as it reads. -/
def State.rowRead (s : State) (row : Nat) : DWord :=
  match s.th.rows.find? fun x => x.1 == row with
  | some (_, f, v, c) => BitVec.ofNat 64 (2 ^ 31 + c % 32 * 2 ^ 16 + v % 128 * 2 ^ 8 + f % 64)
  | none => 0

/-- FIRMWARE_READY (R74): PHASE 3, and what the firmware has programmed of the second tier stands (R20). -/
def execFirmwareReady (s : State) : Host.Outcome State Fault Refusal :=
  if s.broughtUp then .next (s.programHdm.setField .fwcBstat 0 28 4 3) else .next s

end Sys2Proof.Machine
end

