-- ==== Sys2Proof/Machine/Stacks.lean ====
section
/-! DEFINITION. Training of the HBM stacks (R70), the UCIe ports (R16, R69, R71, R72), and the CXL expanders (R20,
R21). -/

namespace Sys2Proof.Machine
open Sys2Proof

/-! ### HBM stacks (R70) -/

/-- The modes HBM_TCTL takes. -/
def hbmMode (m : Nat) : Bool := m ≤ 5 || m == 8

/-- A stack in reset: nothing of its training stands. -/
def State.hbmReset (s : State) (st : Nat) : State :=
  let s : State := { s with fw := { s.fw with
    training := s.fw.training.filter fun t => t.1 != st, rising := s.fw.rising.filter fun t => t.1 != st
    passed := FMap.set 0 s.fw.passed st 0 } }
  s.setField .hbmTstat st 28 4 0

/-- A stack begins to leave reset (0) or to become operational (8), in a time the spec does not state (R70). -/
def State.hbmRise (s : State) (st what : Nat) : State :=
  { s with fw := { s.fw with rising := (s.fw.rising.filter fun t => !(t.1 == st && t.2.1 == what)) ++ [(st, what, s.clk.ref)] } }

/-- A stack has left reset, or is operational. -/
def State.hbmRisen (s : State) (st what : Nat) : State :=
  State.setField { s with fw := { s.fw with rising := s.fw.rising.filter fun t => !(t.1 == st && t.2.1 == what) } } .hbmTstat st
    (if what = 8 then 29 else 28) 1 1

/-- GO: starts the mode, in place of one still running (DESIGN CHOICE, log entry 100). Mode 0 starts nothing. -/
def State.hbmGo (s : State) (st mode : Nat) : State :=
  if mode = 0 then s
  else if mode = 8 then s.hbmRise st 8
  else
    let s : State := { s with fw := { s.fw with
      training := (s.fw.training.filter fun t => t.1 != st) ++ [(st, mode, s.clk.ref)] } }
    (s.setField .hbmTstat st 31 1 1).setField .hbmTstat st 30 1 0

/-- A write of HBM_TCTL (R70). A mode it does not take is refused, and the write with it, RSTN and GO too (DESIGN CHOICE, log entry
111). -/
def State.hbmWrite (s : State) (st : Nat) (v : DWord) : State :=
  let mode := v.toNat / 16 % 16
  if !hbmMode mode then s.setField .hbmTstat st 27 1 1
  else
    let s := (s.setField .hbmTctl st 4 4 mode).setField .hbmTctl st 1 1 (v.toNat / 2 % 2)
    if v.getLsbD 1 then
      let s := if s.field .hbmTstat st 28 1 = 1 ∨ s.fw.rising.any (fun t => t.1 == st && t.2.1 == 0) then s else s.hbmRise st 0
      if v.getLsbD 0 then s.hbmGo st mode else s
    else s.hbmReset st

/-- The write of HBM_TCTL that starts a mode, RSTN standing at 1. -/
def goWord (mode : Nat) : DWord := BitVec.ofNat 64 (16 * (mode % 16) + 3)

/-- A write of HBM_TCTL that starts a mode. -/
def State.hbmStart (s : State) (mode : Nat) : Host.Outcome State Fault Refusal :=
  .next (s.guardedWrite s.inp.who .hbmTctl s.inp.n fun s => s.hbmWrite s.inp.n (goWord mode))

/-- HBM_STACK_RESET (R70). -/
def execHbmStackReset (s : State) : Host.Outcome State Fault Refusal :=
  .next (s.guardedWrite s.inp.who .hbmTctl s.inp.n fun s => s.hbmWrite s.inp.n s.inp.v)

/-- HBM_CA_TRAINING (R70). -/
def execHbmCaTraining (s : State) : Host.Outcome State Fault Refusal := s.hbmStart 1
/-- HBM_LANE_REPAIR (R70). -/
def execHbmLaneRepair (s : State) : Host.Outcome State Fault Refusal := s.hbmStart 2
/-- HBM_READ_TRAINING (R70). -/
def execHbmReadTraining (s : State) : Host.Outcome State Fault Refusal := s.hbmStart 3
/-- HBM_WRITE_TRAINING (R70). -/
def execHbmWriteTraining (s : State) : Host.Outcome State Fault Refusal := s.hbmStart 4
/-- HBM_VREF_SWEEP (R70). -/
def execHbmVrefSweep (s : State) : Host.Outcome State Fault Refusal := s.hbmStart 5
/-- HBM_OPERATIONAL (R70): the mode stands in v, and one HBM_TCTL does not take is refused. With mode 8 the stack becomes
operational; a register write leaves it to HBM_TRAINING_STEP_DONE, which may come too late for the poll. -/
def execHbmOperational (s : State) : Host.Outcome State Fault Refusal :=
  let mode := s.inp.v.toNat
  .next (s.guardedWrite s.inp.who .hbmTctl s.inp.n fun s =>
    let t := s.hbmWrite s.inp.n (goWord mode)
    if mode % 16 = 8 then t.hbmRisen s.inp.n 8 else t)

/-- A stack fails a step: its die's bring-up does (R70). -/
def State.hbmFail (s : State) (st : Nat) : State :=
  if s.bootPhase = 1 then
    State.post { s with fw := { s.fw with failed := insertNat st s.fw.failed } } .bringUpFailure
      { n := st / 3, v := BitVec.ofNat 64 (0x20 + st) }
  else s

/-- A stack passes a step of its training. -/
def State.hbmPass (s : State) (st mode : Nat) : State :=
  { s with fw := { s.fw with passed := FMap.set 0 s.fw.passed st (FMap.get 0 s.fw.passed st ||| 2 ^ mode) } }

/-- HBM_TRAINING_STEP_DONE (R70): the lane test counts the lanes it has replaced; a step that has not passed fails the die's
bring-up. With no training under way, the stack has done what it was about: left reset, or become operational. -/
def execHbmTrainingStepDone (s : State) : Host.Outcome State Fault Refusal :=
  let st := s.inp.n
  match s.fw.training.find? fun t => t.1 == st with
  | none =>
    match s.fw.rising.find? fun t => t.1 == st with
    | some (_, what, _) => .next (s.hbmRisen st what)
    | none => .next s
  | some (_, mode, _) =>
    let s' : State := { s with fw := { s.fw with training := s.fw.training.filter fun t => t.1 != st } }
    let s' := (s'.setField .hbmTstat st 31 1 0).setField .hbmTstat st 30 1 s.inp.on.toNat
    let s' := if mode = 2 then s'.setField .hbmTstat st 0 16 s.inp.m else s'
    .next (if s.inp.on then s'.hbmPass st mode else s'.hbmFail st)

/-! ### UCIe ports (R16, R69, R71, R72) -/

/-- A port's training begins afresh, unless it trains or runs already. -/
def State.ucieTrain (s : State) (port : Nat) : State :=
  (s.setField .uciPctl port 0 1 1).modUcie port fun p =>
    if p.ltsm = 0 then { p with ltsm := 1, since := s.clk.ref, stage := 1, down := false, mods := 0 } else p

/-- A step that writes registers for a party. -/
def writesRegs : Instr → Bool
  | .bootGo | .measurementExtend | .fwcWdogWrite | .semaphoreAcquire | .semaphoreRelease | .registerWrite | .pwrVclWrite
  | .pwrVtailWrite | .clkClfWrite | .pwrCstatHoldWrite | .cxaCadWrite | .pwrPlimWrite | .gtickStart | .hbmStackReset
  | .hbmCaTraining | .hbmLaneRepair | .hbmReadTraining | .hbmWriteTraining | .hbmVrefSweep | .hbmOperational | .uciePortEnable
  | .uciePortReset | .cplrPortEnable | .cplrPortDisable | .cplrLoopback | .cplrVlthrWrite | .xltRootWrite | .xltHringWrite
  | .xltHheadWrite | .fwcElogWrite | .fwcElheadWrite | .queCtlWrite | .queBaseWrite | .queueGo | .dspLmapWrite
  | .eventCounterSelect | .laneCycleRangeWrite | .fidInject | .stopArm | .stopTargetWrite => true
  | _ => false

/-- A turn without a control port's register writes that have not reached the register block (R69). -/
def withoutPort (port : Nat) (t : Turn) : Option Turn :=
  match t with
  | .event .hostWr x => if x.n == port && (match x.msg with | .target (.reg _ _) => true | _ => false) then none else some t
  | .event i x =>
    match x.msg with
    | .writers ps =>
      let ps := ps.filter fun p => p != portParty port
      if ps.isEmpty then none else some (.event i { x with msg := .writers ps })
    | _ => if writesRegs i && x.who == portParty port then none else some t
  | _ => some t

/-- A turn without the register writes of the control ports that are down (R69). -/
def State.withoutDown (s : State) (t : Turn) : Option Turn :=
  [0, 1].foldl (fun (t : Option Turn) port => if s.portUp port then t else t.bind (withoutPort port)) (some t)

/-- Region 6 accesses that wait for the host end with LINKDOWN when port A goes down (R19). -/
def State.dropHosted (s : State) : State :=
  let hosted (r : Req) : Bool := match r.phase with | .hosted _ => true | _ => false
  let s : State := { s with
    lnk := { s.lnk with away := s.lnk.away.filter fun a => a.pkg != hostPkg }
    fab := { s.fab with reqs := s.fab.reqs.map fun r => if hosted r then { r with phase := .failed statLinkdown 0 } else r } }
  let far (page : DWord) : Bool := s.isOwn page && vaRgn page == 6
  let pages := ((s.parkedAt 4).map fun r => pageOf (s.resolve r.line)) ++ (s.fab.side.map fun e => e.page)
    ++ (s.fab.peerDef.map fun x => x.2.2)
  let posted := s.fab.posted
  let s := ((pages.filter far).eraseDups).foldl (fun (s : State) page => s.pagePresent 4 page 65536) s
  { s with fab := { s.fab with posted := posted } }

/-- A port stands in RESET; one that was active is DOWN, its semaphores are free and its writes in flight are gone (R69). -/
def State.ucieStop (s : State) (port : Nat) : State :=
  match s.lnk.ucie[port]? with
  | none => s
  | some p =>
    if p.ltsm = 0 then s
    else
      let s := s.modUcie port fun q => { q with ltsm := 0, mods := 0, later := [], down := q.down || q.ltsm == 2 }
      let s := if port = 0 then s.dropHosted else s
      State.breakSems { s with agenda := s.agenda.filterMap (withoutPort port) } (portParty port)

/-- UCIE_PORT_ENABLE (R72). -/
def execUciePortEnable (s : State) : Host.Outcome State Fault Refusal :=
  .next (s.guardedWrite s.inp.who .uciPctl s.inp.n fun s => s.ucieTrain s.inp.n)

/-- Writing EN = 0 (R72). -/
def State.ucieDisable (s : State) (port : Nat) : State := (s.setField .uciPctl port 0 1 0).ucieStop port

/-- UCIE_PORT_RESET (R72). -/
def execUciePortReset (s : State) : Host.Outcome State Fault Refusal :=
  .next (s.guardedWrite s.inp.who .uciPctl s.inp.n fun s => s.ucieDisable s.inp.n)

/-- UCIE_LINK_DOWN (R69). -/
def execUcieLinkDown (s : State) : Host.Outcome State Fault Refusal :=
  if s.portUp s.inp.n then .next (s.ucieStop s.inp.n) else .next s

/-- One more in a counter of discarded messages, which stays at its last value after 2^64 − 1 (DESIGN CHOICE, log entry 105). -/
def State.bump (s : State) (r : RegName) (i : Nat) : State := s.setReg r i (satInc (s.reg r i))

/-- UCIE_SIDEBAND_MESSAGE (R16). -/
def execUcieSidebandMessage (s : State) : Host.Outcome State Fault Refusal :=
  if s.inp.on && s.inp.n < 2 then .next (s.bump .uciSbdrop s.inp.n) else .next s

/-- The opcodes a host sends on UCIe (R17): RD, WR, WAKE and completions. -/
def hostOpcodes : List Nat := [0x01, 0x02, 0x04, 0x05, 0x06, 0x0A]

/-- UCIE_UNKNOWN_MESSAGE (R17). -/
def execUcieUnknownMessage (s : State) : Host.Outcome State Fault Refusal :=
  if s.inp.n < 2 && !hostOpcodes.contains s.inp.v.toNat then .next (s.bump .uciBadop s.inp.n) else .next s

/-! ### Errors of memories (R15, R190) -/

/-- An error befalls a memory: an uncorrectable one stands where it is found until something reads it, an L1 line is dropped, and
a corrected one is only counted. -/
def State.upset (s : State) (u : Upset) : State :=
  match u with
  | .line key => { s with fab := { s.fab with bad := insertNat key s.fab.bad } }
  | .cached key => { s with fab := { s.fab with cbad := insertNat key s.fab.cbad } }
  | .l1 core line => s.l1Drop core line
  | .register blk gid key => s.modGroup blk gid fun g => { g with r := { g.r with bad := insertNat key g.r.bad } }
  | .element cl key => s.modCluster cl fun c => { c with badAcc := insertNat key c.badAcc }
  | .plane cl shadow => s.modCluster cl fun c =>
    if shadow then { c with shadow := { c.shadow with bad := true } } else { c with active := { c.active with bad := true } }
  | .corrected die => s.countDie 0x0010 die
  | .stackCorrected st => if st < 12 then (s.bump .hbmCecnt st).countDie 0x0011 (st / 3) else s

/-! ### Accesses of the firmware complex (R59) -/

/-- A memory space a firmware core reaches: HBM, the second tier, host memory as the package holds it, the weight stores, and its own
SRAM, the control core's boot flash with it; no scratch, register or L1 of a compute die. -/
def fwSpace (core space : Nat) : Bool :=
  space < 10 || (if core = 0 then space == ctlSpace || space == flashSpace else space == serviceSpace (core - 1))

/-- An access of a firmware core, while the firmware runs (R59, log entry 120): a core that is not there, or a space it does not reach, changes
nothing. Register 0 stays zero. -/
def State.fwAccess (s : State) (a : FwAccess) : State :=
  if s.fw.boot ≠ .firmware then s
  else
    match a with
    | .store core space addr bs =>
      if core ≤ 6 && fwSpace core space && (addr + bs.length ≤ 2 ^ 50 : Bool) then
        { s with fab := { s.fab with mem := s.fab.mem.setBytes (spaceKey space addr) bs } }
      else s
    | .load core rd space addr size =>
      if core ≤ 6 && fwSpace core space && (1 ≤ rd : Bool) && (rd < 32 : Bool) && (size ≤ 8 : Bool) then
        let v := BitVec.ofNat 64 (s.fab.mem.num (spaceKey space addr) size)
        let c := FMap.get {} s.fw.cores core
        { s with fw := { s.fw with cores := FMap.set {} s.fw.cores core { c with regs := FMap.set 0 c.regs rd v } } }
      else s

/-! ### CXL expanders (R20, R21) -/

/-- CXL_EXPANDER_TRAINING (R20): at most 512 GiB a port. -/
def execCxlExpanderTraining (s : State) : Host.Outcome State Fault Refusal :=
  if 4 ≤ s.inp.n then .next s
  else if s.inp.on then
    .next { s with lnk := { s.lnk with cxl := FMap.set 0 s.lnk.cxl s.inp.n (min s.inp.m (512 * 2 ^ 30)) } }
  else .next { s with lnk := { s.lnk with cxlLog := s.lnk.cxlLog ++ [s.inp.n] } }

/-- CXL_RESPONSE (R15, R21): data poisoned by the expander takes the uncorrectable path; a late completion is counted; a write to a
watched line is held back while a hit's stop is to come (R307). -/
def execCxlResponse (s : State) : Host.Outcome State Fault Refusal :=
  match s.req? s.inp.n with
  | some r =>
    match r.phase with
    | .cxl _ _ key =>
      if s.inp.on then .next (s.failAll r statUncorr 0)
      else if s.heldByStop r then .next s
      else .next (s.perform r fun va => key + (va.toNat - r.line.toNat))
    | _ => .next (s.bump .cxlLate 0)
  | none => .next (s.bump .cxlLate 0)

/-- CXL_REQUEST_TIMEOUT (R21, R22). -/
def execCxlRequestTimeout (s : State) : Host.Outcome State Fault Refusal :=
  match s.req? s.inp.n with
  | some r =>
    match r.phase with
    | .cxl due _ _ =>
      if due ≠ 0 ∧ due ≤ s.clk.ref ∧ !s.standsStill r.core then .next (s.failAll r statTimeout 0) else .next s
    | _ => .next s
  | none => .next s

end Sys2Proof.Machine
end

