-- ==== Sys2Proof/Machine/Boot.lean ====
section
/-! DEFINITION. The boot ROM (R61 to R65, R71, R74). -/

namespace Sys2Proof.Machine
open Sys2Proof

/-! ### The firmware header (R62) -/

/-- Bytes lo to lo + n − 1 of a header as a number. -/
def headNum (h : List Byte) (lo n : Nat) : Nat := natOfBytes ((h.drop lo).take n)

/-- Bytes that must be zero are. -/
def headZero (h : List Byte) (lo n : Nat) : Bool := ((h.drop lo).take n).all (· == 0)

def headLen (h : List Byte) : Nat := headNum h 8 8
def headLoad (h : List Byte) : Nat := headNum h 16 8
def headEntry (h : List Byte) : Nat := headNum h 24 8
def headSvn (h : List Byte) : Nat := headNum h 32 4
def headSlot (h : List Byte) : Nat := headNum h 36 1
def headKey (h : List Byte) : List Byte := (h.drop 64).take 32
def headSig (h : List Byte) : List Byte := (h.drop 128).take 64

/-- A header that breaks the table apart from length and offsets: "GKFW", version 1. -/
def headBad (h : List Byte) : Bool :=
  headNum h 0 4 != 0x57464B47 || headNum h 4 4 != 1 || 64 < headSvn h || 3 < headSlot h
    || !headZero h 37 27 || !headZero h 96 32 || !headZero h 192 64

/-- A fault in length or offset. -/
def headRange (h : List Byte) : Bool :=
  headLen h % 64 != 0 || headLen h < 64 || 3 * 2 ^ 20 < headLen h || 2 ^ 22 < headLoad h + headLen h
    || headEntry h < headLoad h || headLoad h + headLen h ≤ headEntry h

/-! ### Fuses (R63) -/

/-- The thermometer as this boot reads it. -/
def State.thermometer (s : State) : DWord := Config.svnFuses ||| s.fw.svn

/-- F: the number of blown thermometer bits. -/
def State.fusedSvn (s : State) : Nat := ((List.range 64).filter fun i => s.thermometer.getLsbD i).length

/-- A key slot is revoked. -/
def State.revoked (s : State) (slot : Nat) : Bool := Config.keySlotRevoked slot || s.fw.revoked.getLsbD slot

/-! ### The check and the load (R61 to R65) -/

/-- The image's error code, or nothing when the ROM accepts it (R62, R63). -/
def State.imageError (s : State) (flash : Bool) (h image : List Byte) : Option Nat :=
  if flash && Config.flashError then some 0x07
  else if headBad h then some 0x01
  else if headRange h then some 0x02
  else if !Config.keySlotProgrammed (headSlot h) || s.revoked (headSlot h) then some 0x03
  else if measOf (sha512 (headKey h)) != Config.keyHash (headSlot h) then some 0x04
  else if !edVerify (headKey h) (headSig h) (h.take 128 ++ image) then some 0x05
  else if headSvn h < s.fusedSvn then some 0x06
  else none

/-- The cores present on a die. -/
def presentCores (die : Nat) : Nat := ((List.range 64).filter fun p => !Config.coreAbsent die p).length

/-- The fuse record FWC_MEAS2 measures (R64). -/
def State.fuseRecord (s : State) (slot : Nat) : List Byte :=
  bytesLE 4 slot ++ bytesLE 8 s.thermometer.toNat ++ bytesLE 8 (Config.featMask 0).toNat
    ++ (List.range 4).map (fun d => BitVec.ofNat 8 (presentCores d)) ++ bytesLE 8 0

/-- STEP of FWC_BSTAT. -/
def State.romStep (s : State) (n : Nat) : State := s.setField .fwcBstat 0 16 4 n

/-- Loads a service core's image that the firmware image names, measures it, and stands the core at its entry (R61). -/
def State.loadService (s : State) (image : List Byte) (n : Nat) : State :=
  let code := Config.serviceImage image n
  let entry := Config.serviceEntry image n
  let s := s.extend 3 (sha512 code)
  { s with
    fab := { s.fab with mem := s.fab.mem.setBytes (spaceKey (serviceSpace n) 0) (code.take (256 * 1024)) }
    fw := { s.fw with
      cores := FMap.set {} s.fw.cores (n + 1) { pc := BitVec.ofNat 64 entry }, entries := FMap.set 0 s.fw.entries (n + 1) entry } }

/-- Steps 5 to 7 of R61 on an accepted image: it is measured, the service cores are loaded and released, identity and alias key
are derived and the device secret hidden, and the firmware runs with the MMU off. The ERR of an earlier image is cleared (DESIGN
CHOICE, log entry 103). -/
def State.runImage (s : State) (h image : List Byte) : State :=
  let s := (s.romStep 5).extend 1 (sha512 (h.take 128 ++ image))
  let s := s.extend 2 (sha512 (s.fuseRecord (headSlot h)))
  let s : State := { s with fab := { s.fab with mem := s.fab.mem.setBytes (spaceKey ctlSpace (headLoad h)) image } }
  let s := (List.range 6).foldl (fun (s : State) n => s.loadService image n) (s.romStep 6)
  let id := Config.deriveIdentity Config.deviceSecret
  let alias_ := Config.deriveKey Config.deviceSecret (FMap.get 0 s.fw.meas 1)
  let s : State := { s with fw := { s.fw with
    service := 0x3F, secret := false, entry := headEntry h, svnNow := headSvn h, boot := .firmware, began := s.clk.ref
    idKey := id, aliasKey := alias_, aliasCert := Config.aliasCert id alias_
    cores := FMap.set {} s.fw.cores 0 { FMap.get {} s.fw.cores 0 with pc := BitVec.ofNat 64 (headEntry h), satp := 0 } } }
  (((s.romStep 7).setField .fwcBstat 0 28 4 1).setField .fwcBstat 0 0 7 (headSvn h)).setField .fwcBstat 0 20 8 0

/-- The ROM waits for the host at step 3. -/
def State.hostLoad (s : State) : State :=
  ((State.romStep { s with fw := { s.fw with boot := .hostWait } } 3).setField .fwcBstat 0 15 1 1)

/-- Step 4 on an image in flash or in SRAM (R61): a failed image is neither run nor measured. The header lies at offset 0 of
either (DESIGN CHOICE, log entry 101), the image behind its 256 bytes. -/
def State.checkImage (s : State) (flash : Bool) : State :=
  let base := spaceKey (if flash then flashSpace else ctlSpace) 0
  let h := s.fab.mem.bytes base 256
  let image := s.fab.mem.bytes (base + 256) (if headRange h then 0 else headLen h)
  let s := s.romStep 4
  match s.imageError flash h image with
  | some e => (s.setField .fwcBstat 0 20 8 e).hostLoad
  | none => s.runImage h image

/-- Step 3: the flash image, or the host's where the strap says so (R61). -/
def State.romLoad (s : State) : State :=
  if s.clk.hostload then s.hostLoad else (s.romStep 3).checkImage true

/-- The fuses, flash and straps that outlast a power-on reset. -/
def State.powerOn (s : State) : State :=
  let r := State.reset
  { r with
    agenda := []
    outside := s.outside
    fab := { r.fab with mem := s.fab.mem.filter fun c => spaceKey flashSpace 0 ≤ c.1 && c.1 < spaceKey (flashSpace + 1) 0 }
    clk := { r.clk with hostload := s.clk.hostload }
    fw := { r.fw with revoked := s.fw.revoked, svn := s.fw.svn, boot := .rom } }

/-- POWER_ON_RESET (R61): the package as reset leaves it, the ROM measured, both UCIe ports in training. -/
def execPowerOnReset (s : State) : Host.Outcome State Fault Refusal :=
  let t := s.powerOn.romStep 1
  let t : State := { t with fw := { t.fw with meas := FMap.set 0 t.fw.meas 0 Config.romDigest } }
  .next (((t.romStep 2).ucieTrain 0).ucieTrain 1)

/-- Both UCIe ports have ended training, or the 200,000 REFTICKs of the ROM's poll have passed: the ROM goes on, or stops with
error 0x08 (R71). -/
def State.romLinks (s : State) : State :=
  if s.fw.boot ≠ .rom ∨ s.fw.down ∨ s.field .fwcBstat 0 16 4 ≠ 2
      ∨ s.lnk.ucie.any (fun p => p.ltsm == 1 && s.clk.ref < p.since + 200000) then s
  else if s.lnk.ucie.any fun p => p.ltsm == 2 then s.romLoad
  else State.bootFail { s with fw := { s.fw with boot := .failed }, clk := { s.clk with fwfail := false } } 0x08

/-- Held interrupts leave once the port is active (R19). -/
def State.flushHeld (s : State) (port : Nat) : State :=
  match s.lnk.ucie[port]? with
  | none => s
  | some p =>
    p.held.foldl (fun (s : State) v => s.sendIntr port v) (s.modUcie port fun p => { p with held := [] })

/-- UCIE_TRAINING_DONE (R16, R19, R71). -/
def execUcieTrainingDone (s : State) : Host.Outcome State Fault Refusal :=
  let port := s.inp.n
  let mods : BitVec 2 := s.inp.v.extractLsb' 0 2
  match s.lnk.ucie[port]? with
  | none => .next s
  | some p =>
    if p.ltsm ≠ 1 then .next s
    else if mods = 0 then .next (s.modUcie port fun p => { p with ltsm := 0, down := true }).romLinks
    else .next ((s.modUcie port fun p => { p with ltsm := 2, mods := mods }).flushHeld port).romLinks

/-- A write of FWC_BGO (R61). -/
def State.bgoWrite (s : State) (v : DWord) : State :=
  if s.fw.boot = .hostWait ∧ !s.fw.down ∧ v.getLsbD 0 then s.checkImage false else s

/-- A REFTICK of the UCIe ports in training: the states of R71 follow one another at times the spec does not state, and the ROM's
poll may run out. -/
def State.ucieTick (s : State) : State :=
  if s.lnk.ucie.all fun p => p.ltsm != 1 then s
  else
    let n := s.freeNat
    let stage (i : Nat) (p : UciePort) : UciePort := if p.ltsm = 1 then { p with stage := min 4 (p.stage + n / 2 ^ i % 2) } else p
    (([0, 1].foldl (fun (s : State) i => s.modUcie i (stage i)) s.draw)).romLinks

/-- BOOT_GO (R61). -/
def execBootGo (s : State) : Host.Outcome State Fault Refusal := .next (s.bgoWrite s.inp.v)

/-- FUSE_PROGRAMMING (R63, R68): by a Yeleno command, which the firmware takes only while it is ready (R74), of a party that holds
semaphore 6; the ROM reads the fuses at the next boot. -/
def execFuseProgramming (s : State) : Host.Outcome State Fault Refusal :=
  if !s.owns s.inp.who 6 ∨ s.bootPhase ≠ 3 ∨ s.fw.down then .next s
  else
    match s.inp.msg with
    | .fuse (.revoke slot) =>
      if slot < 4 then .next { s with fw := { s.fw with revoked := s.fw.revoked ||| (1#4 <<< slot) } } else .next s
    | .fuse (.svn bit) =>
      if bit < 64 then .next { s with fw := { s.fw with svn := s.fw.svn ||| (1#64 <<< bit) } } else .next s
    | _ => .next s

end Sys2Proof.Machine
end

