-- ==== Sys2Proof/Machine/Wire.lean ====
section
/-! DEFINITION. Requests on their way to another package or to the host, and those of other packages (R17, R29, R33, R37); the
data slots are those of Machine/Packet.lean (log entry 18). -/

namespace Sys2Proof.Machine
open Sys2Proof

/-- Sends one message of a request to another package. It counts as first sent, for CPLR_E2ETO, when it is put in the queue of
messages that wait for a plane (R34; DESIGN CHOICE, log entry 109). -/
def State.sendMessage (s : State) (r : Req) (m : Nat × Nat × DWord × List Byte) : State :=
  match s.freeTag with
  | none => s
  | some t =>
    let pkg := vaPkg r.line
    let p : Packet := {
      hdr := header pkg s.own m.2.1 (m.2.2.2.length / 16) t 0 r.srcid.toNat m.2.2.1, data := m.2.2.2 }
    let a : Away := { id := r.id, piece := m.1, pkg := pkg, tag := t, granule := granuleOf m.2.2.1, due := s.clk.ref + s.e2eto
                      began := s.clk.ref }
    State.queuePacket { s with lnk := { s.lnk with away := s.lnk.away ++ [a] } } 0 pkg p

/-- A request leaves for its package; without a live plane it fails here with LINKDOWN, and with NOROUTE when its package is
absent from the pod (R33, R91); while tags are short it waits. -/
def State.sendAway (s : State) (r : Req) : State :=
  let ms := (messagesOf r).filter fun m => r.held.isEmpty || r.held.contains m.1
  if s.livePlanes.isEmpty then s.modReq r.id fun r => { r with phase := .failed statLinkdown 0 }
  else if !Config.podMembers.contains (vaPkg r.line) then s.modReq r.id fun r => { r with phase := .failed statNoroute 0 }
  else if !s.tagsFor ms.length then s
  else
    let s := s.modReq r.id fun r => { r with
      phase := .away, held := [], retry := false, vals := if r.held.isEmpty then List.replicate r.parts.length 0 else r.vals }
    ms.foldl (fun (s : State) m => s.sendMessage r m) s

/-- A request performed at another package: what this package's core does on it (R208, R280, R283). -/
def State.awayDone (s : State) (r : Req) (data : List Byte) : State :=
  let s := match r.who, r.rel with
    | .group b g _, some _ => s.modGroup b g fun g => { g with rels := max g.rels r.id }
    | _, _ => s
  let s := match r.acq with
    | some sc => if 2 ≤ sc then s.l1Acquire r.who r.core else s
    | none => s
  let s := if r.kind == .store then s.l1Written r else if r.fill then s else s.l1Drop r.core r.line
  let s := if r.fill then s.l1Fill r data else s
  s.modReq r.id fun r => { r with phase := .answered }

/-- The values of a read's pieces in the data of its RSP. -/
def rspVals (r : Req) (data : List Byte) : List DWord :=
  r.parts.map fun p => BitVec.ofNat 64 (natOfBytes ((data.drop (p.va.toNat - r.line.toNat)).take p.size))

/-- The watchpoints see an atomic of the host's memory lane by lane, each lane's update a write of its own (R304, R305). -/
def State.hostLanes (s : State) (r : Req) (line : List Byte) (xs : List (Part × DWord)) : State :=
  (xs.foldl (fun (x : State × List Byte) (y : Part × DWord) =>
    let n := y.1.size
    let new_ := patchBytes x.2 (y.1.va.toNat - r.line.toNat) (bytesLE n
      (atomNew r.aop r.ty y.2.toNat (y.1.data.toNat % 2 ^ (8 * n)) (y.1.cmp.toNat % 2 ^ (8 * n))))
    (x.1.watchReq { r with parts := [y.1] } x.2 new_, new_)) (s, line)).1

/-- A region 6 access that the host has performed. What the line held where no answer says it is free (log entry 89). -/
def State.hostDone (s : State) (r : Req) : State :=
  match r.leaf with
  | none => s.modReq r.id fun r => { r with phase := .answered }
  | some t =>
    let pieces := List.zip r.parts r.vals
    let atomic := match r.kind with | .atom | .reduce => true | _ => false
    let blank := (List.range 64).map fun i => Config.freeByte (64 * s.free + i)
    let old := if r.kind == .store || r.kind == .copyWr then blank
      else pieces.foldl (fun d x => patchBytes d (x.1.va.toNat - r.line.toNat) (bytesLE x.1.size x.2.toNat)) blank
    let new_ :=
      if atomic then
        pieces.foldl (fun d x => patchBytes d (x.1.va.toNat - r.line.toNat) (bytesLE x.1.size
          (atomNew r.aop r.ty x.2.toNat (x.1.data.toNat % 2 ^ (8 * x.1.size)) (x.1.cmp.toNat % 2 ^ (8 * x.1.size))))) old
      else if r.kind.writes then r.parts.foldl (patchPart r.line) old
      else old
    let key := targetKey t.home t.leaf t.size
    let s := s.draw
    let s := if r.kind == .atom then s.hostLanes r old pieces else if r.kind.writes then s.watchReq r old new_ else s
    (s.performedAs r (r.parts.map fun p => (key p.va, p.size)) new_).modReq r.id fun r => { r with phase := .answered }

/-- With its last answer a request some of whose messages were deferred takes DEFER; one whose page is back already is sent again
(R113, R117). -/
def State.deferAway (s : State) (r : Req) : State :=
  if r.retry then s.modReq r.id fun r => { r with phase := .flying, retry := false }
  else (s.modReq r.id fun r => { r with phase := .deferred }).post .deferReceive { n := r.id }

/-- A completion arrives for a message sent (R33): its values are kept, promotes its home finds due are sent (R287), and the
request is answered with its last piece, or fails at once. -/
def State.completion (s : State) (a : Away) (fail : Option (Nat × Nat)) (data : List Byte) : State :=
  let s : State := { s with lnk := { s.lnk with away := s.lnk.away.filter fun b => b != a } }
  match s.req? a.id with
  | none => s
  | some r =>
    let hosted := match r.phase with | .hosted _ => true | _ => false
    if !hosted && r.phase != .away then s
    else
      match fail with
      | some (st, ca) => s.failAll r st ca
      | none =>
        let old := BitVec.ofNat 64 (natOfBytes (data.take 8))
        let vals := match r.kind with
          | .atom | .reduce => (List.range r.parts.length).map fun i => if i = a.piece then old else r.vals.getD i 0
          | .store | .copyWr => r.vals
          | _ => rspVals r data
        let promote := match r.kind with
          | .atom | .reduce => natOfBytes ((data.drop 8).take 8) % 2 == 1
          | _ => natOfBytes ((data.drop 64).take 8) % 2 == 1
        let s := s.modReq r.id fun r => { r with vals := vals }
        let s := match r.acq with | some sc => if promote && !hosted then s.sendPromotes r sc else s | none => s
        if s.lnk.away.any fun b => b.id == a.id then s
        else if !r.held.isEmpty then s.deferAway r
        else if hosted then (if s.heldByStop r then s else s.hostDone { r with vals := vals })
        else s.awayDone r data

/-- The cause that stands for an ERR whose status needs none (R188). -/
def causeErr : Nat := 254

/-- An ERR arrives for a message sent to another package (R33): an XLTFAULT waits for its cause, which a management message
brings (R101, log entry 90). -/
def State.errOf (s : State) (a : Away) (stat : Nat) : State :=
  if stat ≠ statXlt then s.completion a (some (stat, causeErr)) []
  else
    match a.cause with
    | some ca => s.completion a (some (stat, ca)) []
    | none => { s with lnk := { s.lnk with away := s.lnk.away.map fun b => if b == a then { b with err := true } else b } }

/-- The cause of an XLTFAULT arrives (R101, log entry 90). -/
def State.causeOf (s : State) (a : Away) (cause : Nat) : State :=
  if a.out then s
  else if a.err then s.completion a (some (statXlt, cause)) []
  else { s with lnk := { s.lnk with away := s.lnk.away.map fun b => if b == a then { b with cause := some cause } else b } }

/-- Another package has deferred one message of a request (R113): with its last completion or DEFER the request is deferred, and
what was performed there is not sent again. -/
def State.deferred (s : State) (a : Away) : State :=
  let s : State := { s with lnk := { s.lnk with away := s.lnk.away.filter fun b => b != a } }
  match s.req? a.id with
  | none => s
  | some r =>
    if r.phase ≠ .away ∨ a.out then s
    else
      let s := s.modReq r.id fun r => { r with held := r.held ++ [a.piece] }
      if s.lnk.away.any fun b => b.id == a.id then s else s.deferAway r

/-! ### Requests of other packages -/

/-- The core number the requests of another package carry. -/
def peerCore (pkg : Nat) : Nat := 257 + pkg

/-- The pieces of one byte each that a mask names, with their data. -/
def maskParts (line : DWord) (mask : Nat) (data : List Byte) : List Part :=
  ((List.range 64).filter fun i => mask / 2 ^ i % 2 == 1).map fun i =>
    { lane := i, va := line + BitVec.ofNat 64 i, size := 1, data := (data.getD i 0).setWidth 64 }

/-- The request a message of VL 0 makes at this home; nothing for an opcode that is none. -/
def peerReq (p : Packet) : Option Req :=
  let h := p.hdr
  let addr := hdrAddr h
  let line := lineOf addr
  let pkg := hdrSpkg h
  let num (lo n : Nat) : Nat := natOfBytes ((p.data.drop lo).take n)
  let atomic := hdrOpc h = opcAtom
  let sync := if atomic then num 4 4 else num 9 7
  let scope (c : Nat) : Option Nat := if c = 0 then none else some (c - 1)
  let base (kind : AccKind) (parts : List Part) : Req := {
    id := 0, kind := kind, core := peerCore pkg, who := .peer pkg (hdrTag h), line := line, parts := parts, srcid := hdrSrcid h
    acq := scope (sync % 16), rel := scope (sync / 16 % 16), addr := addr
    of_ := (sync / 256, if atomic then num 24 8 else num 16 8) }
  let mask := num 0 8
  let kind := ofWireKind (num 8 1)
  if hdrOpc h = opcRd then some (base (if kind.writes then .load else kind) (maskParts line mask []))
  else if hdrOpc h = opcWr then some (base (if kind == .copyWr then .copyWr else .store) (maskParts line mask (p.data.drop 32)))
  else if atomic then
    let piece : Part := {
      lane := 0, va := addr, size := num 2 1, data := BitVec.ofNat 64 (num 8 8), cmp := BitVec.ofNat 64 (num 16 8) }
    some { base (if num 3 1 = 2 then .reduce else .atom) [piece] with
      aop := ofAtomCode (num 0 1), ty := (Ty.ofCode (BitVec.ofNat 5 (num 1 1))).getD .n32 }
  else none

/-- The data of an RSP: the old value of an atomic, or the line's bytes that were read, and whether promotes are due. -/
def rspData (r : Req) : List Byte :=
  match r.kind with
  | .atom | .reduce => bytesLE 8 (r.vals.headD 0).toNat ++ bytesLE 8 r.fill.toNat
  | _ =>
    (List.zip r.parts r.vals).foldl (fun d x => patchBytes d (x.1.va.toNat - r.line.toNat) (bytesLE x.1.size x.2.toNat))
      (List.replicate 64 0) ++ bytesLE 16 r.fill.toNat

/-- Sends the completion of a request of another package; its ADDR is the request's (R37). The cause of an XLTFAULT goes with the
management messages (R101, log entry 90). -/
def State.peerReply (s : State) (r : Req) (pkg tag : Nat) : State :=
  let h (opc len stat : Nat) : BitVec 128 := header pkg s.own opc len tag stat r.srcid.toNat r.addr
  match r.phase, r.kind with
  | .failed st ca, _ =>
    (if st = statXlt then s.mgmtTo pkg (.cause tag ca) else s).queuePacket 1 pkg { hdr := h opcErr 0 st }
  | _, .store | _, .copyWr => s.queuePacket 1 pkg { hdr := h opcAck 0 0 }
  | _, _ => s.queuePacket 1 pkg { hdr := h opcRsp ((rspData r).length / 16) 0, data := rspData r }

end Sys2Proof.Machine
end

