-- ==== Sys2Proof/Machine/Homes.lean ====
section
/-! DEFINITION. What befalls a request: its home, its completion, DEFER and replay, time-outs, promotion, the epoch and the
siding (R33, R101, R106, R108, R110 to R122, R191, R222, R287). -/

namespace Sys2Proof.Machine
open Sys2Proof

/-! ### HOME_ACCESS (R101) -/

/-- An earlier overlapping request, a dependence or a side-log entry holds a request back before it leaves for another
package. -/
def State.mayLeave (s : State) (r : Req) : Bool :=
  s.inTurn r && s.isAway r && !s.blockedSide r

/-- HOME_ACCESS (R101): the home takes the request, or it leaves for the home of another package. -/
def execHomeAccess (s : State) : Host.Outcome State Fault Refusal :=
  match s.req? s.inp.n with
  | some r => if s.mayLeave r then .next (s.sendAway r) else .next (s.homeTake s.inp.n)
  | none => .next s

/-! ### Completions (R33) -/

/-- The step that carries on a command (R82). -/
def cmdEvent (c : Cmd) : Option Instr :=
  match natOfBytes (c.bytes.take 1) with
  | 1 => some .yelenoLaunch
  | 2 => some .graph
  | 3 => some .waitCmd
  | 4 => some .cancel
  | 5 => some .mapCmd
  | 6 => some .unmapCmd
  | 7 => some .harvest
  | 8 => some .shootdown
  | 9 => some .wload
  | 10 => some (if natOfBytes ((c.bytes.drop 9).take 1) = 1 then .quiesceHold else .quiesceRelease)
  | 11 => some .partitionCmd
  | 12 => some .readCounters
  | 13 => some .attest
  | _ => none

def State.cmd? (s : State) (id : Nat) : Option Cmd := s.que.cmds.find? fun c => c.id == id

/-- A command goes on. -/
def State.wakeCmd (s : State) (id : Nat) : State :=
  match s.cmd? id with
  | some c => match cmdEvent c with | some i => s.post i { n := id } | none => s
  | none => s

/-- A completion of a host's message, through the control port it came by; its SRCID is the host's there (R495). -/
def State.toHost (s : State) (port opc tag stat : Nat) (addr : DWord) (data : List Byte) : State :=
  { s with sent := s.sent ++ [.host port {
      hdr := header s.own s.own opc (data.length / 16) tag stat (hostSrc port).toNat addr, data := data }] }

/-- The messages that stood behind a memory write of their port go on (R295). -/
def State.hostLater (s : State) (port : Nat) : State :=
  match s.lnk.ucie[port]? with
  | some p => p.later.foldl (fun (s : State) x => s.post x.1 x.2) (s.modUcie port fun p => { p with later := [] })
  | none => s

/-- The last line of a host's RD (purpose 3) or WR (4) of memory has been answered: the message is (R17). -/
def State.hostReply (s : State) (purpose arg : Nat) : State :=
  let mine (r : Req) : Bool := r.who == .unit purpose arg
  if s.fab.reqs.any mine then s
  else
    let rs := sortOn (fun (r : Req) => r.id) (s.fab.got.filter mine)
    let s : State := { s with fab := { s.fab with got := s.fab.got.filter fun r => !mine r } }
    let port := arg / 4096
    let tag := arg % 4096
    let va := match rs with | r :: _ => r.addr | [] => 0
    let bad := rs.findSome? fun r => match r.phase with | .failed st _ => some st | _ => none
    match bad with
    | some st => (s.toHost port opcErr tag st va []).hostLater port
    | none =>
      if purpose = 3 then s.toHost port opcRsp tag 0 va (rs.flatMap bytesOfReq)
      else (s.toHost port opcAck tag 0 va []).hostLater port

/-- The host ring holds a page-fault record: its interrupt goes out, and the next record follows. A write that failed is tried
again with the next REFTICK (R112, log entry 40). -/
def State.pageFaultDone (s : State) (r : Req) : State :=
  let s : State := State.dropGot { s with fw := { s.fw with pfBusy := false } } r.id
  match r.phase with
  | .failed _ _ => s
  | _ =>
    let vec := s.reg .xltHvec 0
    (State.sendIntr { s with fw := { s.fw with pf := s.fw.pf.drop 1, pfTail := s.fw.pfTail + 1 } } (vec.extractLsb' 16 1).toNat
      (vec.extractLsb' 0 16)).pageFaultOut

/-- A line of an error-log entry has been answered: with the last the entry is written and its interrupt goes out, or it is tried
again with the next REFTICK (R192, log entry 40). -/
def State.errorLogDone (s : State) (r : Req) : State :=
  let failed := match r.phase with | .failed _ _ => true | _ => false
  let s : State := State.dropGot { s with fw := { s.fw with elBusy := s.fw.elBusy - 1, elBad := s.fw.elBad || failed } } r.id
  if s.fw.elBusy ≠ 0 ∨ s.fw.elBad then s
  else
    let vec := s.reg .fwcElvec 0
    (State.sendIntr { s with fw := { s.fw with el := s.fw.el.drop 1 } } (vec.extractLsb' 16 1).toNat (vec.extractLsb' 0 16)).errorLogOut

/-- What an answer leads to at its initiator: the step that takes it. -/
def State.followUp (s : State) (r : Req) : State :=
  match r.who with
  | .unit 1 arg => s.post .launchRequest { n := arg }
  | .unit 2 arg => s.post .reserveStart { n := arg }
  | .unit 3 arg => s.hostReply 3 arg
  | .unit 4 arg => s.hostReply 4 arg
  | .unit 5 port => s.post .queueRead { n := port }
  | .unit 6 id => match s.cmd? id with | some c => s.post .queueRead { n := c.port } | none => s.dropGot r.id
  | .unit 7 id => if (s.cmd? id).isSome then s.wakeCmd id else s.dropGot r.id
  | .unit 8 _ => s.pageFaultDone r
  | .unit 9 _ => s.errorLogDone r
  | .unit 0 _ => s.dropGot r.id
  | .channel core ch => s.post .copyBeatDeliver { n := core, m := ch }
  | .mpath die => s.post .mpathComplete { n := die }
  | .watch b g => s.post .memoryWaitRecheck { n := b, m := g }
  | _ => s

/-- An answer reaches its initiator: a group, a unit that takes it, or the package that sent the request. -/
def State.reply (s : State) (r : Req) (fail : Option (Nat × Nat)) : State :=
  match r.who with
  | .peer pkg tag => (s.dropReq r.id).peerReply r pkg tag
  | _ => (s.answerTo r fail).followUp r

/-- Another package's request. -/
def isPeer (r : Req) : Bool := match r.who with | .peer _ _ => true | _ => false

/-- The request completes with data. -/
def returnsData (r : Req) : Bool :=
  match r.kind with
  | .store | .copyWr => false
  | _ => true

/-- A completion without error: it waits while the request's acquire still has promotes under way (R287). -/
def State.completeOk (s : State) (id : Nat) (data : Bool) : State :=
  match s.req? id with
  | some r =>
    if r.phase ≠ .answered ∨ returnsData r ≠ data ∨ s.fab.proms.any (fun p => p.req == id) then s
    else if r.kind == .prefetch && !isPeer r then s.dropReq id
    else s.reply r none
  | none => s

/-- The host's completion of a region 6 access, by its tag; one that completes nothing is discarded (R17, R33). The cause of its
XLTFAULT is one of the four of R185 (log entry 90). -/
def State.hostCompletes (s : State) (tag : Nat) (fail : Option Nat) (data : List Byte) : State :=
  match s.lnk.away.find? fun a => a.pkg == hostPkg && a.tag == tag with
  | some a =>
    if s.portUp 0 then
      s.draw.completion a (fail.map fun st => (st, if st = statXlt then 1 + s.freeNat % 4 else causeErr)) data
    else s
  | none => s

/-- ACCESS_RSP (R33): of request n in this package; from port A the host's, with tag n and its data. -/
def execAccessRsp (s : State) : Host.Outcome State Fault Refusal :=
  if s.inp.who = .portA then .next (s.hostCompletes s.inp.n none s.inp.bytes) else .next (s.completeOk s.inp.n true)

/-- ACCESS_ACK (R33): of request n in this package; from port A the host's, with tag n. -/
def execAccessAck (s : State) : Host.Outcome State Fault Refusal :=
  if s.inp.who = .portA then .next (s.hostCompletes s.inp.n none []) else .next (s.completeOk s.inp.n false)

/-- A prefetch that meets an uncorrectable error tells nobody: the error goes to the log, with kind 2 and its target-memory
address (R15, R192). -/
def State.logLost (s : State) (r : Req) (stat : Nat) : State :=
  match r.leaf with
  | some t => if stat = statUncorr then s.logEntry 2 0 0 0 (BitVec.ofNat 64 (targetKey t.home t.leaf t.size r.line % 2 ^ 50))
      (List.replicate 64 0) else s
  | none => s

/-- An error of request n reaches its initiator; at this home of another package's access it is logged too (R191), a prefetch's
excepted, which is dropped without fault (R101). -/
def State.completeErr (s : State) (id : Nat) : State :=
  match s.req? id with
  | none => s
  | some r =>
    match r.phase with
    | .failed st ca =>
      if r.kind == .prefetch && !isPeer r then (s.logLost r st).dropReq r.id
      else
        let s := match r.who with
          | .peer pkg _ => if r.kind == AccKind.prefetch then s else s.logEntry 1 st pkg r.srcid.toNat r.addr (List.replicate 64 0)
          | _ => s
        s.reply r (some (st, ca))
    | _ => s

/-- ACCESS_ERR (R33, R185, R494): of request n in this package; from port A the host's, with tag n and STAT m. -/
def execAccessErr (s : State) : Host.Outcome State Fault Refusal :=
  if s.inp.who = .portA then .next (s.hostCompletes s.inp.n (some s.inp.m) []) else .next (s.completeErr s.inp.n)

/-- An outstanding message to another package has timed out. -/
def awayDue (ref : Nat) (a : Away) : Bool := !a.out && a.due != 0 && decide (a.due ≤ ref)

/-- E2E_TIMEOUT (R33, R191): the request's tags stay unused for as long again, and this package logs the time-out. A message
that has left keeps the order of its granule until its completion comes (R37). -/
def execE2eTimeout (s : State) : Host.Outcome State Fault Refusal :=
  let mine := s.lnk.away.filter fun a => a.id == s.inp.n && !a.out
  if (mine.any (awayDue s.clk.ref)) ∧ !(s.fab.reqs.any fun r => r.id == s.inp.n && s.standsStill r.core) then
    let tags := mine.map fun a => a.tag
    let s : State := { s with lnk := { s.lnk with
      away := (s.lnk.away.filter fun a => a.id != s.inp.n || a.out || (a.plane.isSome && !a.err)).map fun a =>
        if a.id == s.inp.n then { a with out := true } else a
      dead := (s.lnk.dead.filter fun d => s.clk.ref < d.2) ++ tags.map fun t => (t, s.clk.ref + s.e2eto)
      queue := s.lnk.queue.filter fun x => !(x.1 == 0 && tags.contains (hdrTag x.2.2.hdr)) } }
    match s.req? s.inp.n with
    | some r =>
      if r.phase = .away then
        .next ((s.failAll r statTimeout 0).logEntry 1 statTimeout s.own r.srcid.toNat r.line
          (List.replicate 64 0))
      else .next s
    | none => .next s
  else .next s

/-! ### DEFER and replay (R110 to R118) -/

/-- The page of a deferred access is no longer absent. -/
def State.pageBack (s : State) (r : Req) : Bool :=
  match s.check (homeOf r.line) r.kind r.line with
  | .absent _ => false
  | _ => true

/-- DEFER_RECEIVE (R113). An access of another package is deferred there: its DEFER goes out with the management messages
(log entry 18). A page that is back already signals at once. -/
def execDeferReceive (s : State) : Host.Outcome State Fault Refusal :=
  match s.req? s.inp.n with
  | none => .next s
  | some r =>
    if r.phase ≠ .deferred then .next s
    else
      let s' := match r.who with | .peer pkg tag => s.deferPeer r pkg tag | _ => s.deferTake r
      if s.isOwn r.line && s.pageBack r then .next (s'.pagePresent (homeOf r.line) (pageOf (s.resolve r.line)) 65536) else .next s'

/-- Changes the wakes of a home's page. -/
def State.modWake (s : State) (home : Nat) (page : DWord) (f : Wake → Wake) : State :=
  { s with fab := { s.fab with wakes := s.fab.wakes.map fun w => if w.home == home && w.page == page then f w else w } }

/-- SIDE_LOG_REPLAY (R117). -/
def execSideLogReplay (s : State) : Host.Outcome State Fault Refusal :=
  let core := s.inp.n
  let page := BitVec.ofNat 64 s.inp.k
  match s.fab.wakes.find? fun w => w.home == s.inp.m && w.page == page && w.cores.contains core with
  | none => .next s
  | some w =>
    let (s, ids) := s.replaySide fun e => e.core == core && e.home == w.home && inPage w.page w.size e.page
    .next ((s.modWake w.home page fun w => { w with
      cores := w.cores.filter (· != core), marks := w.marks ++ [(core, ids)] }).post .replayDoneMarker
        { n := core, m := w.home, k := page.toNat })

/-- Every marker of a page is in: its parked requests go on, or the marker of this package goes to the page's home. -/
def State.wakeEnd (s : State) (w : Wake) : State :=
  let s : State := { s with fab := { s.fab with wakes := s.fab.wakes.filter fun x => !(x.home == w.home && x.page == w.page) } }
  if s.isOwn w.page then s.releaseParked w.home w.page w.size else s.mgmtTo (vaPkg w.page) (.marker w.home w.page)

/-- REPLAY_DONE_MARKER (R117): a marker stands behind the replays of its core. -/
def execReplayDoneMarker (s : State) : Host.Outcome State Fault Refusal :=
  let core := s.inp.n
  let page := BitVec.ofNat 64 s.inp.k
  match s.fab.wakes.find? fun w => w.home == s.inp.m && w.page == page with
  | none => .next s
  | some w =>
    let behind (m : Nat × List Nat) : Bool := m.2.any fun id => s.fab.reqs.any fun r => r.id == id && !reqDone r && r.phase != .deferred
    if w.marks.any fun m => m.1 == core && behind m then .next s
    else
      let w' := { w with marks := w.marks.filter fun m => m.1 != core }
      let s := s.modWake w.home page fun _ => w'
      if w'.cores.isEmpty && w'.marks.isEmpty then .next (s.wakeEnd w') else .next s

/-- PARK_TIMEOUT (R118): also of a request that waits in front of a full park table (R111). -/
def execParkTimeout (s : State) : Host.Outcome State Fault Refusal :=
  match s.req? s.inp.n with
  | none => .next s
  | some r =>
    let late := match r.phase with
      | .parked since => s.pftoOver r.core since
      | .flying => match r.came with | some c => s.pftoOver r.core c.1 && !s.isAway r && !r.scr && !s.pageBack r | none => false
      | _ => false
    if late then .next (s.modReq r.id fun r => { r with phase := .failed statParkto 0 }) else .next s

/-- SIDE_LOG_TIMEOUT (R118). -/
def execSideLogTimeout (s : State) : Host.Outcome State Fault Refusal :=
  match s.fab.side.find? fun e => e.core == s.inp.n && e.slot == s.inp.m && s.pftoOver e.core e.since with
  | some e => .next ((s.discardSide e).followUp { e.req with phase := .failed 7 255 })
  | none => .next s

/-- SIDE_LOG_FULL_TIMEOUT (R116): the instruction that waits fails with PARKTO, raised at the requester, and its group traps. -/
def execSideLogFullTimeout (s : State) : Host.Outcome State Fault Refusal :=
  match s.cores.runs.find? fun r => r.blk == s.inp.n && r.gid == s.inp.m with
  | none => .next s
  | some run =>
    match run.stall, run.full, s.curOf run.blk run.gid run.slotB with
    | some t, some addr, some c =>
      if s.pftoOver run.core t && sideFull s c then
        let k := candOf s c { code := codeParkto, lanes := run.fullLanes, aux := 0, addr := addr } 1
        .next ((((s.modCur c fun g => { g with dead := true, cands := g.cands ++ [k], park := none }).endTurn run.core
          run.part).sendDepotOf run.blk run.gid).makeRecord run.blk run.gid)
      else .next s
    | _, _, _ => .next s

/-! ### The TLB, the epoch and the siding (R106, R108, R120 to R122) -/

/-- Writes back, or drops too, the entries a test picks; a companion word whose line holds an uncorrectable error is noted in the
error log with kind 2 (R106, R108, R192). -/
def State.writeBackTlb (s : State) (evict : Bool) (p : TlbEntry → Bool) : State :=
  let bad := s.fab.tlb.filter fun t => p t && t.bits != 0 && s.uncorrIn (spaceKey t.die (t.addr + 4096)) 8
  bad.foldl (fun (s : State) t => s.logEntry 2 0 0 0 (BitVec.ofNat 64 (t.addr + 4096)) (List.replicate 64 0)) (s.flushTlb evict p)

/-- TLB_WRITEBACK_TIMER (R106). -/
def execTlbWritebackTimer (s : State) : Host.Outcome State Fault Refusal :=
  if s.inp.on then .next ((s.writeBackTlb false fun _ => true).relayTo s.inp.key.pod (.flushed s.inp.key))
  else .next (s.writeBackTlb false fun t => t.home == s.inp.n)

/-- EPOCH_ADVANCE (R120). -/
def execEpochAdvance (s : State) : Host.Outcome State Fault Refusal :=
  if s.fab.epoch < s.clk.ref / 1024 then .next { s with fab := { s.fab with epoch := s.fab.epoch + 1 } } else .next s

/-- The epochs of accesses translated here and not yet performed: those that wait for an expander or for the host. -/
def State.stamps (s : State) : List Nat :=
  s.fab.reqs.filterMap fun r => match r.phase with | .cxl _ e _ | .hosted e => some e | _ => none

/-- XLT_QCNT (R120): the largest epoch up to which everything translated is performed; nothing when epoch 0 is not. -/
def State.qcnt (s : State) : Option Nat :=
  match s.stamps with
  | [] => some s.fab.epoch
  | e :: es =>
    let m := es.foldl min e
    if m = 0 then none else some (m - 1)

/-- A stamp has been reached. -/
def State.stampDone (s : State) (stamp : Nat) : Bool := match s.qcnt with | some q => stamp ≤ q | none => false

/-- SIDING_RELEASE (R121): the range is named by the key of its first byte. -/
def execSidingRelease (s : State) : Host.Outcome State Fault Refusal :=
  .next { s with fab := { s.fab with siding := s.fab.siding.filter fun x => !(spaceKey x.1 x.2.1 == s.inp.n && s.stampDone x.2.2.2) } }

/-- An access has been translated and is not yet performed: under a leaf here, or perhaps at another package's home. -/
def translated (r : Req) : Bool := match r.phase with | .cxl _ _ _ | .hosted _ | .away => true | _ => false

/-- Every L1 of the package drops its lines of a range of VA, and a line of the range that is on its way to an L1 is not filled
there (R108). -/
def State.l1Range (s : State) (va : DWord) (bytes : Nat) : State :=
  let hit (line : DWord) : Bool := va.toNat < line.toNat + 64 && line.toNat < va.toNat + bytes
  { s with fab := { s.fab with
      l1 := s.fab.l1.filter fun l => !hit l.line
      reqs := s.fab.reqs.map fun r => if translated r && !isPeer r && hit r.line then { r with fill := false } else r } }

/-- A TLB entry caches a leaf of a range of addresses. -/
def tlbIn (lo bytes : Nat) (t : TlbEntry) : Bool := t.page.toNat < lo + bytes && lo < t.page.toNat + t.size

/-- Steps 1 and 2 of R108 in this package, for one range of addresses. -/
def State.shoot (s : State) (va : DWord) (bytes : Nat) : State := (s.writeBackTlb true (tlbIn va.toNat bytes)).l1Range va bytes

/-- Acknowledgements of other packages' SHOOTDOWNs go out once the accesses translated before are done (R108). -/
def State.shootAcks (s : State) : State :=
  let over_ (x : Nat × Nat × List Nat) : Bool := x.2.2.all fun id => s.fab.reqs.all fun r => r.id != id || Sys2Proof.Machine.reqDone r
  (s.fab.shoots.filter over_).foldl (fun (s : State) x => s.mgmtTo x.1 (.invalDone x.2.1))
    { s with fab := { s.fab with shoots := s.fab.shoots.filter fun x => !over_ x } }

/-- SHOOTDOWN_INVALIDATE (R108): from another package, which is told when it is done; the command there stands in k. Entries
that this package's homes hold for the range go too, and accesses translated under them here are waited for. -/
def execShootdownInvalidate (s : State) : Host.Outcome State Fault Refusal :=
  let lo := s.inp.v.toNat
  let ids := (s.fab.reqs.filter fun r => match r.phase, r.leaf with
    | .cxl _ _ _, some t | .hosted _, some t => tlbIn lo (s.inp.m * 65536) t
    | _, _ => false).map fun r => r.id
  let s := s.shoot s.inp.v (s.inp.m * 65536)
  .next (State.shootAcks { s with fab := { s.fab with shoots := s.fab.shoots ++ [(s.inp.n, s.inp.k, ids)] } })

/-! ### The depot and promotion (R222, R287) -/

/-- DEPOT_SEND (R222). -/
def execDepotSend (s : State) : Host.Outcome State Fault Refusal :=
  .next (s.sendDepot fun r => r.core == s.inp.n && r.line.toNat == s.inp.m)

/-- The accesses of a core that precede releases of its groups (R287). -/
def State.beforeReleases (s : State) (core : Nat) : List Nat :=
  let bs := s.cores.blocks.filter fun b => b.core == core
  bs.flatMap fun b => b.groups.flatMap fun g => ((s.outstanding b.uid g.gid).filter fun r => r.id < g.rels).map fun r => r.id

/-- PROMOTE_RECEIVE (R287): the core's depot leaves, and the acknowledgement stands behind what precedes its releases. -/
def execPromoteReceive (s : State) : Host.Outcome State Fault Refusal :=
  if s.fab.proms.any fun p => p.core == s.inp.n && p.id == s.inp.m && p.waits.isNone then
    let s := s.sendDepot fun r => r.core == s.inp.n
    let ids := s.beforeReleases s.inp.n
    .next { s with fab := { s.fab with proms := s.fab.proms.map fun p =>
      if p.id == s.inp.m then { p with waits := some ids } else p } }
  else .next s

/-- PROMOTE_ACK (R287): with the last, the acquire is performed, and its core's L1 holds nothing older (R283). -/
def execPromoteAck (s : State) : Host.Outcome State Fault Refusal :=
  match s.fab.proms.find? fun p => p.id == s.inp.n with
  | some p =>
    match p.waits with
    | some ids =>
      if ids.all s.performed then
        let s : State := { s with fab := { s.fab with proms := s.fab.proms.filter fun q => q.id != p.id } }
        .next (if s.fab.proms.any fun q => q.req == p.req then s
          else match s.req? p.req with | some r => s.l1Acquire r.who r.core | none => s)
      else .next s
    | none => .next s
  | none => .next s

/-! ### Configuration (R96, R112, R119, R192) -/

/-- Every launch port is UNBOUND or IDLE (R96). -/
def State.portsQuiet (s : State) : Bool :=
  (List.range 32).all fun n =>
    let st := (FMap.get {} s.que.ports n).state
    st == .unbound || st == .idle

/-- A refused write of a home's configuration. -/
def State.xltRefused (s : State) (home : Nat) : State := s.setField .xltStat home 31 1 1

/-- The home a tree root belongs to. -/
def rootHome (r : RegName) (i : Nat) : Nat := match r with | .xltRootl | .xltRoots => i | _ => 4

/-- The register is a tree root. -/
def isRoot : RegName → Bool
  | .xltRootl | .xltRoots | .xltRoot5 | .xltRoot6 => true
  | _ => false

/-- A write of a tree root by the firmware (R96). -/
def State.rootWrite (s : State) (r : RegName) (i : Nat) (v : DWord) : State :=
  if s.portsQuiet then s.setReg r i (v &&& 0x8003FFFFFFFFF000) else s.xltRefused (rootHome r i)

/-- XLT_ROOT_WRITE (R96). -/
def execXltRootWrite (s : State) : Host.Outcome State Fault Refusal :=
  if isRoot s.inp.reg then
    .next (s.guardedWrite s.inp.who s.inp.reg s.inp.n fun s => s.rootWrite s.inp.reg s.inp.n s.inp.v)
  else .next s

/-- A ring register's value is taken: base 0 or a region 6 VA of this package, and a size of 0 to 8. -/
def State.ringOk (s : State) (v : DWord) : Bool :=
  let base := v &&& 0xFFFFFFFFFFFFF000
  (base == 0 || (vaLegal base && s.isOwn base && vaRgn base == 6)) && (v.extractLsb' 8 4).toNat ≤ 8

/-- A write of XLT_HRING (R112): held records go out while slots are free. -/
def State.hringWrite (s : State) (v : DWord) : State :=
  if s.ringOk v then
    (s.setReg .xltHring 0 (v &&& 0xFFFFFFFFFFFFFF00)).pageFaultOut
  else s.xltRefused 4

/-- XLT_HRING_WRITE (R112). -/
def execXltHringWrite (s : State) : Host.Outcome State Fault Refusal :=
  .next (s.guardedWrite s.inp.who .xltHring 0 fun s => s.hringWrite s.inp.v)

/-- A write of XLT_HHEAD (R112). -/
def State.hheadWrite (s : State) (v : DWord) : State :=
  (s.plainWrite .xltHhead 0 v).pageFaultOut

/-- XLT_HHEAD_WRITE (R112). -/
def execXltHheadWrite (s : State) : Host.Outcome State Fault Refusal :=
  .next (s.guardedWrite s.inp.who .xltHhead 0 fun s => s.hheadWrite s.inp.v)

/-- A write of FWC_ELOG (R192). -/
def State.elogWrite (s : State) (v : DWord) : State :=
  if s.ringOk v then s.setReg .fwcElog 0 (v &&& 0xFFFFFFFFFFFFFF00) else s.xltRefused 4

/-- FWC_ELOG_WRITE (R192). -/
def execFwcElogWrite (s : State) : Host.Outcome State Fault Refusal :=
  .next (s.guardedWrite s.inp.who .fwcElog 0 fun s => s.elogWrite s.inp.v)

/-- FWC_ELHEAD_WRITE (R192). -/
def execFwcElheadWrite (s : State) : Host.Outcome State Fault Refusal :=
  .next (s.guardedWrite s.inp.who .fwcElhead 0 fun s => s.plainWrite .fwcElhead 0 s.inp.v)

end Sys2Proof.Machine
end

