-- ==== Sys2Proof/Machine/Coupler.lean ====
section
/-! DEFINITION. The Coupler: training, flits, replay, flow control, planes and GTICK alignment (R23 to R37, R47, R48,
R73). -/

namespace Sys2Proof.Machine
open Sys2Proof

/-! ### Ports -/

def State.cplr (s : State) (k : Nat) : CplrPort := FMap.get {} s.lnk.cplr k

def State.modCplr (s : State) (k : Nat) (f : CplrPort → CplrPort) : State :=
  { s with lnk := { s.lnk with cplr := FMap.set {} s.lnk.cplr k (f (s.cplr k)) } }

/-- The management plane after a change of the live planes (R37): kept while it lives. -/
def State.manage (s : State) : State :=
  let live := s.livePlanes
  let keep := match s.lnk.mgmt with | some k => live.contains k | none => false
  if keep then s else { s with lnk := { s.lnk with mgmt := live.head? } }

/-- A package that has lost its last live plane: it has no number (R36), is out of step, its GTICK running free (R48), and
requests whose message no flit has carried complete with LINKDOWN (R33). -/
def State.outOfPod (s : State) : State :=
  if s.livePlanes.isEmpty then
    let s : State := { s with
      clk := { s.clk with sync := false, master := false, adj := 0 }
      lnk := { s.lnk with pkg := none, queue := s.lnk.queue.filter fun x => x.1 != 0 } }
    (s.lnk.away.filter fun a => a.plane.isNone && a.pkg != hostPkg).foldl (fun (s : State) a => s.completion a (some (statLinkdown, 0)) []) s
  else s

/-- The package joins the pod under a number: its time's master is the lowest-numbered member (R47, log entry 91), and its own
GTICK goes on where it leads (R48). -/
def State.joinPod (s : State) (number : Nat) : State :=
  let low := Config.podMembers.foldl min number
  { s with
    lnk := { s.lnk with pkg := some number, last := number }
    clk := { s.clk with master := low == number, sync := low == number, mpkg := low, offs := 0, adj := 0, heard := s.clk.gt } }

/-- A message to a package outstanding with a tag; one that has not timed out goes before one that has. -/
def State.awayOf (s : State) (tag : Nat) : Option Away :=
  match s.lnk.away.find? fun a => a.tag == tag && a.pkg != hostPkg && !a.out with
  | some a => some a
  | none => s.lnk.away.find? fun a => a.tag == tag && a.pkg != hostPkg

/-- The flits a port holds unacknowledged, as messages of VL 0: their tags (R35). -/
def slotsOf (body : List Byte) : List (List Byte) := (List.range 15).map fun i => (body.drop (8 + 16 * i)).take 16

/-- NSLOT, VL and SEQ of a flit header. -/
def flitHead (body : List Byte) : DWord := BitVec.ofNat 64 (natOfBytes (body.take 8))
def flitNslot (h : DWord) : Nat := (h.extractLsb' 24 4).toNat
def flitVl (h : DWord) : Nat := (h.extractLsb' 36 2).toNat
def flitSeq (h : DWord) : Nat := (h.extractLsb' 52 12).toNat

/-- Splits used slots into messages; nothing when a message says more data than 8 slots (R24, R29), or than the flit's used slots
hold: such a flit is treated as failing its CRC too (DESIGN CHOICE, log entry 116). -/
def messagesIn : Nat → List (List Byte) → Option (List Packet)
  | 0, _ => some []
  | _, [] => some []
  | fuel + 1, h :: rest =>
    let hdr := BitVec.ofNat 128 (natOfBytes h)
    let n := hdrLen hdr
    if 8 < n ∨ rest.length < n then none
    else
      match messagesIn fuel (rest.drop n) with
      | some ps => some ({ hdr := hdr, data := (rest.take n).flatten } :: ps)
      | none => none

/-- The messages of a flit. -/
def flitMessages (body : List Byte) : Option (List Packet) :=
  messagesIn 16 ((slotsOf body).take (flitNslot (flitHead body)))

/-- R35: requests among a port's unacknowledged flits complete here with LINKDOWN. Their tags are free again at once, and a
completion that still comes for one counts in CPLR_LATE (DESIGN CHOICE, log entry 92). -/
def State.abandon (s : State) (k : Nat) : State :=
  let lost := (s.cplr k).replay.flatMap fun x => if flitVl (flitHead x.2) = 0 then (flitMessages x.2).getD [] else []
  let tags := lost.map fun p => hdrTag p.hdr
  let mine := s.lnk.away.filter fun a => tags.contains a.tag && a.pkg != hostPkg && a.plane == some k
  mine.foldl (fun (s : State) a => s.completion a (some (statLinkdown, 0)) []) s

/-- A port reaches DISABLED from a working state (R23, R35). -/
def State.disablePort (s : State) (k : Nat) : State :=
  let s := (s.abandon k).modCplr k fun p => { p with
    state := .disabled, replay := [], resend := none, waiting := false, width := 0, nakAt := none, naks := 0
    passed := 0, fresh := false }
  s.manage.outOfPod

/-- CPLR_PORT_ENABLE (R23). -/
def State.cplrEnable (s : State) (k : Nat) : State :=
  (s.setField .cplrPctl k 0 1 1).modCplr k fun p =>
    if p.state = .disabled then { p with state := .detect, since := s.clk.ref, tried := s.clk.ref + 1 } else p

/-- CPLR_PORT_ENABLE (R23). -/
def execCplrPortEnable (s : State) : Host.Outcome State Fault Refusal :=
  .next (s.guardedWrite s.inp.who .cplrPctl s.inp.n fun s => s.cplrEnable s.inp.n)

/-- CPLR_PORT_DISABLE (R23, R35). -/
def State.cplrDisable (s : State) (k : Nat) : State := (s.setField .cplrPctl k 0 1 0).disablePort k

/-- CPLR_PORT_DISABLE (R23). -/
def execCplrPortDisable (s : State) : Host.Outcome State Fault Refusal :=
  .next (s.guardedWrite s.inp.who .cplrPctl s.inp.n fun s => s.cplrDisable s.inp.n)

/-- LOOP of CPLR_PCTL (R73). -/
def State.cplrLoop (s : State) (k : Nat) (on : Bool) : State :=
  (s.setField .cplrPctl k 1 1 on.toNat).modCplr k fun p => { p with loop := on }

/-- CPLR_LOOPBACK (R73). -/
def execCplrLoopback (s : State) : Host.Outcome State Fault Refusal :=
  .next (s.guardedWrite s.inp.who .cplrPctl s.inp.n fun s => s.cplrLoop s.inp.n s.inp.on)

/-- A write of CPLR_VLTHR (R32). -/
def State.vlthrWrite (s : State) (k : Nat) (v : DWord) : State :=
  let ok := (List.range 4).all fun i => 2 ≤ v.toNat / 2 ^ (8 * i) % 256 && v.toNat / 2 ^ (8 * i) % 256 ≤ 80
  if (s.cplr k).state = .disabled ∧ ok then s.setReg .cplrVlthr k (v &&& 0xFFFFFFFF) else s.setField .cplrPstat k 2 1 1

/-- CPLR_VLTHR_WRITE (R32). -/
def execCplrVlthrWrite (s : State) : Host.Outcome State Fault Refusal :=
  .next (s.guardedWrite s.inp.who .cplrVlthr s.inp.n fun s => s.vlthrWrite s.inp.n s.inp.v)

/-! ### Training (R23, R36) -/

/-- A port moves on from a state. -/
def State.advance (s : State) (k : Nat) (from_ : CplrState) (f : CplrPort → CplrPort) : State :=
  if k < 18 ∧ (s.cplr k).state = from_ then s.modCplr k f else s

/-- CPLR_RECEIVER_DETECT (R23). -/
def execCplrReceiverDetect (s : State) : Host.Outcome State Fault Refusal :=
  let lanes : BitVec 8 := s.inp.v.extractLsb' 0 8
  if 4 ≤ ((List.range 8).filter fun i => lanes.getLsbD i).length then
    .next (s.advance s.inp.n .detect fun p => { p with state := .poll, lanes := lanes, since := s.clk.ref })
  else .next s

/-- CPLR_DETECT_TIMEOUT (R23). -/
def execCplrDetectTimeout (s : State) : Host.Outcome State Fault Refusal :=
  let p := s.cplr s.inp.n
  if s.inp.n < 18 ∧ p.state = .detect ∧ p.since + 100000 ≤ s.clk.ref then
    .next ((s.modCplr s.inp.n fun p => { p with state := .disabled }).setField .cplrPstat s.inp.n 0 1 1)
  else .next s

/-- CPLR_BIT_LOCK (R23). -/
def execCplrBitLock (s : State) : Host.Outcome State Fault Refusal :=
  .next (s.advance s.inp.n .poll fun p => { p with state := .align })

/-- CPLR_DESKEW (R23). -/
def execCplrDeskew (s : State) : Host.Outcome State Fault Refusal :=
  .next (s.advance s.inp.n .align fun p => { p with state := .equal })

/-- WIDTH for the lanes that converged: all eight, or one whole half. -/
def widthCode (lanes : BitVec 8) : Nat :=
  if lanes = 0xFF then 3 else if lanes.extractLsb' 0 4 = 0xF then 1 else if lanes.extractLsb' 4 4 = 0xF then 2 else 0

/-- A retrain has failed: its time has run out, or it is the fourth within 10⁷ REFTICKs (R23). -/
def retrainOver (p : CplrPort) (ref : Nat) : Bool :=
  p.state == .retrain && (p.since + 50000 ≤ ref || 4 ≤ (p.retrains.filter fun t => ref < t + 10000000).length)

/-- A port in RETRAIN has passed so much of EQUAL and CONFIG in time (R23). -/
def State.retraining (s : State) (k n : Nat) : Bool :=
  let p := s.cplr k
  (k < 18 : Bool) && p.state == .retrain && p.passed == n && !retrainOver p s.clk.ref

/-- CPLR_EQUALISED (R23): without a whole half the port does not pass. -/
def execCplrEqualised (s : State) : Host.Outcome State Fault Refusal :=
  let w := widthCode (s.inp.v.extractLsb' 0 8)
  if w = 0 then .next s
  else if s.retraining s.inp.n 0 then .next (s.modCplr s.inp.n fun p => { p with width := w, passed := 1 })
  else .next (s.advance s.inp.n .equal fun p => { p with state := .config, width := w })

/-- The plane check: the other active ports report the same number (R36). -/
def State.planeCheck (s : State) (k number : Nat) : Bool :=
  s.livePlanes.all fun j => j == k || (s.cplr j).num == some number

/-- A port enters ACTIVE, its next flit an idle one (R25): with the first, the package has its number and its management plane
(R36, R37, R73), and a place in the pod's time (R47). -/
def State.enterActive (s : State) (k number : Nat) (f : CplrPort → CplrPort) : State :=
  let first := s.livePlanes.isEmpty
  let s := s.modCplr k fun p => { f p with state := .active, passed := 0, fresh := true }
  (if first then s.joinPod number else s).manage

/-- A port becomes ACTIVE from CONFIG (R23): SEQ is 0, and its replay buffer is clear. -/
def State.becomeActive (s : State) (k number : Nat) : State :=
  s.enterActive k number fun p => { p with
    seq := 0, expect := 0, good := none, waiting := false, replay := [], resend := none
    nakAt := none, naks := 0, stopIn := 0, stopOut := 0, rx := [] }

/-- CPLR_IDENTITY_EXCHANGE (R36, R73): PKG is the number the plane reports, whether or not the check passes. A port that
retrains passes CONFIG again by the same check (R23). -/
def execCplrIdentityExchange (s : State) : Host.Outcome State Fault Refusal :=
  let k := s.inp.n
  let p := s.cplr k
  let again := s.retraining k 1
  if 18 ≤ k ∨ (p.state ≠ .config ∧ !again) ∨ p.loop ∨ 288 ≤ s.inp.m then .next s
  else
    let ok := s.planeCheck k s.inp.m
    let s := s.modCplr k fun p => { p with num := some s.inp.m }
    if !ok then .next ((s.disablePort k).setField .cplrPstat k 1 1 1)
    else if again then .next (s.modCplr k fun p => { p with passed := 2 })
    else .next (s.becomeActive k s.inp.m)

/-- A port leaves ACTIVE for RETRAIN; RTCNT counts it (R23), staying at 255 (DESIGN CHOICE, log entry 93). -/
def State.enterRetrain (s : State) (k : Nat) : State :=
  let n := s.field .cplrPstat k 8 8
  let s := (s.setField .cplrPstat k 8 8 (min 255 (n + 1))).modCplr k fun p => { p with
    state := .retrain, since := s.clk.ref, passed := 0
    retrains := (p.retrains.filter fun t => s.clk.ref < t + 10000000) ++ [s.clk.ref] }
  s.manage.outOfPod

/-- CPLR_LOSS_OF_LOCK (R23). -/
def execCplrLossOfLock (s : State) : Host.Outcome State Fault Refusal :=
  if s.inp.n < 18 ∧ (s.cplr s.inp.n).state = .active then .next (s.enterRetrain s.inp.n) else .next s

/-- CPLR_RETRAIN_DONE (R23): EQUAL and CONFIG are passed again, and every unacknowledged flit is replayed. -/
def execCplrRetrainDone (s : State) : Host.Outcome State Fault Refusal :=
  let k := s.inp.n
  if s.retraining k 2 then
    .next (s.enterActive k ((s.cplr k).num.getD 0) fun p => { p with
      resend := p.replay.head?.map fun x => x.1, nakAt := none, naks := 0 })
  else .next s

/-- CPLR_RETRAIN_TIMEOUT (R23, R35). -/
def execCplrRetrainTimeout (s : State) : Host.Outcome State Fault Refusal :=
  if s.inp.n < 18 && retrainOver (s.cplr s.inp.n) s.clk.ref then .next (s.disablePort s.inp.n) else .next s

/-! ### Flits (R24 to R28) -/

/-- A flit header (R25). -/
def flitHeader (seq ack : Nat) (ackv nak : Bool) (vl stop ftype nslot : Nat) : Nat :=
  seq % 4096 * 2 ^ 52 + ack % 4096 * 2 ^ 40 + ackv.toNat * 2 ^ 39 + nak.toNat * 2 ^ 38 + vl % 4 * 2 ^ 36 + stop % 16 * 2 ^ 32
    + ftype % 16 * 2 ^ 28 + nslot % 16 * 2 ^ 24

/-- A whole flit of a header and its slot bytes (R24). -/
def flitBytes (h : Nat) (slots : List Byte) : List Byte :=
  let body := bytesLE 8 h ++ (slots ++ List.replicate (244 - slots.length) 0)
  body ++ bytesLE 4 (crc32c body).toNat

/-- The header of a flit a port sends now, with what it acknowledges, asks for and stops (R26, R27, R30). -/
def headerNow (p : CplrPort) (seq vl ftype nslot : Nat) : Nat :=
  flitHeader seq (p.good.getD 0) p.good.isSome p.waiting vl p.stopOut.toNat ftype nslot

/-- The bytes of a message in slots. -/
def packetBytes (p : Packet) : List Byte := bytesLE 16 p.hdr.toNat ++ p.data

/-- Sends an idle flit (R26); as the first after a port enters ACTIVE its header is zero (R25). -/
def State.idleFlit (s : State) (k : Nat) : State :=
  let p := s.cplr k
  let h := if p.fresh then 0 else headerNow p 0 0 0 0
  State.modCplr { s with sent := s.sent ++ [.flit k (flitBytes h [])] } k fun p => { p with fresh := false }

/-- IDLE_FLIT_SEND (R26). -/
def execIdleFlitSend (s : State) : Host.Outcome State Fault Refusal :=
  if s.inp.n < 18 ∧ (s.cplr s.inp.n).state = .active then .next (s.idleFlit s.inp.n) else .next s

/-- A message may leave on plane k now (R37): VL 0 and VL 1 on the plane of its package and granule, VL 2 and VL 3 on the
management plane; a VL 0 message waits for earlier ones to its granule on other planes. -/
def State.maySend (s : State) (k : Nat) (vl pkg : Nat) (p : Packet) : Bool :=
  if 2 ≤ vl then s.lnk.mgmt == some k
  else
    let addr := hdrAddr p.hdr
    s.planeOf pkg addr == some k
      && (vl != 0 || s.lnk.away.all fun a => !(a.pkg == pkg && a.granule == granuleOf addr && a.plane.isSome && a.plane != some k))

/-- The messages of a virtual lane that the next flit of plane k takes, in order, and those that stay. -/
def State.pick (s : State) (k vl : Nat) : Nat → List (Nat × Nat × Packet) → List Packet × List (Nat × Nat × Packet)
  | _, [] => ([], [])
  | room, x :: xs =>
    if x.1 = vl && s.maySend k vl x.2.1 x.2.2 then
      let n := 1 + x.2.2.data.length / 16
      if n ≤ room then
        let r := s.pick k vl (room - n) xs
        (x.2.2 :: r.1, r.2)
      else ([], x :: xs)
    else
      let r := s.pick k vl room xs
      (r.1, x :: r.2)

/-- A port may send a new data flit of a lane (R27, R30): the lane is not stopped, and the replay buffer has room. -/
def laneOpen (p : CplrPort) (vl : Nat) : Bool := !p.stopIn.getLsbD vl && decide (p.replay.length < 512)

/-- Sends a new data flit where the lane is open and has a message for it, and else an idle one (R26). -/
def State.newFlit (s : State) (k vl : Nat) : State :=
  let p := s.cplr k
  if !laneOpen p vl then s.idleFlit k
  else
    let r := s.pick k vl 15 s.lnk.queue
    if r.1.isEmpty then s.idleFlit k
    else
      let slots := r.1.flatMap packetBytes
      let flit := flitBytes (headerNow p p.seq vl 1 (slots.length / 16)) slots
      let tags := if vl = 0 then r.1.map fun m => hdrTag m.hdr else []
      let told := r.1.filterMap fun m => m.relay.map fun x => Out.told (hdrDpkg m.hdr) x
      let s : State := { s with
        lnk := { s.lnk with
          queue := r.2
          away := s.lnk.away.map fun a =>
            if tags.contains a.tag && a.plane.isNone && a.pkg != hostPkg then { a with plane := some k } else a }
        sent := s.sent ++ (.flit k flit :: told) }
      s.modCplr k fun p => { p with seq := (p.seq + 1) % 4096, replay := p.replay ++ [(p.seq, flit)] }

/-- Sends the next flit of a replay, its acknowledgement fields as they stand now (R28). -/
def State.resendFlit (s : State) (k n : Nat) : State :=
  let p := s.cplr k
  let rest := p.replay.dropWhile fun x => x.1 != n
  match rest with
  | [] => s.modCplr k fun p => { p with resend := none }
  | x :: xs =>
    let h := flitHead x.2
    let flit := flitBytes (headerNow p n (flitVl h) 1 (flitNslot h)) ((x.2.drop 8).take (16 * flitNslot h))
    let s : State := { s with sent := s.sent ++ [.flit k flit] }
    (s.countDie 0x0012 65536).modCplr k fun p => { p with resend := xs.head?.map fun y => y.1 }

/-- DATA_FLIT_SEND (R27, R28): a replay goes before any new data flit, the idle flit of R25 before both. -/
def execDataFlitSend (s : State) : Host.Outcome State Fault Refusal :=
  let k := s.inp.n
  let p := s.cplr k
  if 18 ≤ k ∨ p.state ≠ .active then .next s
  else if p.fresh then .next (s.idleFlit k)
  else
    match p.resend with
    | some n => .next (s.resendFlit k n)
    | none => .next (s.newFlit k (s.inp.v.toNat % 4))

/-! ### Receiving (R25 to R31) -/

/-- A correct flit's acknowledgement frees stored flits (R27); a replay under way goes on with the first that stays (R28). -/
def freeAcked (ackv : Bool) (ack : Nat) (p : CplrPort) : CplrPort :=
  if ackv then
    let rest := p.replay.filter fun x => !((ack + 4096 - x.1) % 4096 < 2048)
    let next := p.resend.bind fun n => if rest.any fun x => x.1 == n then some n else rest.head?.map fun x => x.1
    { p with replay := rest, resend := next }
  else p

/-- A NAK begins a replay unless one from the same ACKSEQ is under way; the eighth in a row is the replay limit (R28). Before
the first good flit a NAK has no valid ACKSEQ: every stored flit is resent, and 4,096 stands for that place in the count of
replays in a row (DESIGN CHOICE, log entry 94). -/
def State.takeNak (s : State) (k : Nat) (ackv : Bool) (ack : Nat) : State :=
  let p := s.cplr k
  let at_ := if ackv then ack else 4096
  if p.replay.isEmpty ∨ (p.resend.isSome ∧ p.nakAt = some at_) then s
  else
    let n := if p.nakAt = some at_ then p.naks + 1 else 1
    let s := s.modCplr k fun p => { p with nakAt := some at_, naks := n, resend := p.replay.head?.map fun x => x.1 }
    if 8 ≤ n then s.enterRetrain k else s

/-- The stop threshold of a lane at a port (R30). -/
def State.thr (s : State) (k v : Nat) : Nat := s.field .cplrVlthr k (8 * v) 8

/-- The stop bit of a lane after its occupancy changed (R30). -/
def State.stopUpdate (s : State) (k v : Nat) : State :=
  s.modCplr k fun p =>
    let n := (FMap.get [] p.rx v).length
    let bit : BitVec 4 := 1#4 <<< v
    if s.thr k v ≤ n then { p with stopOut := p.stopOut ||| bit }
    else if n + 2 ≤ s.thr k v then { p with stopOut := p.stopOut &&& ~~~bit }
    else p

/-- A data flit that passed its checks: accepted in order, or discarded (R27, R31). -/
def State.takeData (s : State) (k : Nat) (flit : List Byte) : State :=
  let h := flitHead flit
  let p := s.cplr k
  let v := flitVl h
  if flitSeq h ≠ p.expect then s
  else if 128 ≤ (FMap.get [] p.rx v).length then
    (s.bump .cplrOvfl k).modCplr k fun p => { p with waiting := true }
  else
    (s.modCplr k fun p => { p with
      rx := FMap.set [] p.rx v (FMap.get [] p.rx v ++ [flit]), expect := (p.expect + 1) % 4096, good := some (flitSeq h)
      waiting := false }).stopUpdate k v

/-- The flit's CRC checks, and a data flit's slots and lengths are possible (R24, R25, R29). -/
def flitSound (flit : List Byte) : Bool :=
  let h := flitHead flit
  flit.length == 256 && (crc32c (flit.take 252)).toNat == natOfBytes (flit.drop 252)
    && ((h.extractLsb' 28 4).toNat != 1 || (flitNslot h != 0 && (flitMessages flit).isSome))

/-- FLIT_RECEIVE (R24 to R31). -/
def State.takeFlit (s : State) (k : Nat) (flit : List Byte) : State :=
  let h := flitHead flit
  let ftype := (h.extractLsb' 28 4).toNat
  if !flitSound flit then s.modCplr k fun p => { p with waiting := true }
  else if 2 ≤ ftype then s.bump .cplrBadft k
  else
    let ackv := h.getLsbD 39
    let ack := (h.extractLsb' 40 12).toNat
    let s := s.modCplr k fun p => { freeAcked ackv ack p with stopIn := h.extractLsb' 32 4 }
    let s := if h.getLsbD 38 then s.takeNak k ackv ack else s
    if ftype = 1 then s.takeData k flit else s

/-- FLIT_RECEIVE (R27). -/
def execFlitReceive (s : State) : Host.Outcome State Fault Refusal :=
  if s.inp.n < 18 ∧ (s.cplr s.inp.n).state = .active then .next (s.takeFlit s.inp.n s.inp.bytes) else .next s

/-- A watch that another package sets on a line homed here (R303). -/
def State.setRemote (s : State) (w : RemoteWatch) : State :=
  let rest := s.dbg.remote.filter fun x => !(x.pkg == w.pkg && x.n == w.n)
  { s with dbg := { s.dbg with remote := if w.mode = 0 then rest else rest ++ [w] } }

/-- A page of another package is no longer absent: entries handed on and the cores that hold entries for it replay (R115, R117).
What was deferred there and has no place in a full side log, or has messages outstanding still, is sent again without one. -/
def State.takePresent (s : State) (pkg home : Nat) (page : DWord) (size : Nat) : State :=
  let s := s.settleDefers home page size
  let here (r : Req) : Bool := !r.scr && homeOf r.line == home && inPage page size (s.resolve r.line)
  let again (r : Req) : Bool := here r && (r.phase == .deferred || (r.phase == .away && !r.held.isEmpty))
  let late := (s.fab.reqs.filter again).map fun r => r.id
  let resent (r : Req) : Req :=
    if again r then (if r.phase == .deferred then { r with phase := .flying } else { r with retry := true }) else r
  let s : State := { s with fab := { s.fab with reqs := s.fab.reqs.map resent } }
  let (s, handed) := s.replaySide fun e => e.handed && e.home == home && inPage page size e.page
  let cores := ((s.fab.side.filter fun e => e.home == home && inPage page size e.page).map fun e => e.core).eraseDups
  let handed := handed ++ late
  if cores.isEmpty && handed.isEmpty then s.mgmtTo pkg (.marker home page)
  else
    let w : Wake := { home := home, page := page, size := size, cores := cores, marks := if handed.isEmpty then [] else [(0, handed)] }
    { s with fab := { s.fab with wakes := s.fab.wakes ++ [w] } }

/-- A management message with data slots (log entry 18). -/
def State.takeMgmt (s : State) (p : Packet) : State :=
  let w (i : Nat) : Nat := natOfBytes ((p.data.drop (8 * i)).take 8)
  let pkg := hdrSpkg p.hdr
  let arg := w 0 / 256
  match w 0 % 256 with
  | 1 => s.setRemote {
      pkg := pkg, n := arg % 256, line := BitVec.ofNat 64 (w 1), wpm := BitVec.ofNat 64 (w 2), wpv := BitVec.ofNat 64 (w 3)
      wpvm := BitVec.ofNat 64 (w 4), mode := arg / 256 % 4, stop := arg / 1024 % 2 == 1 }
  | 2 =>
    match s.awayOf arg with
    | some a => s.deferred a
    | none => s
  | 3 => s.takePresent pkg (arg % 256) (BitVec.ofNat 64 (w 1)) (arg / 256)
  | 4 => s.post .replayDoneMarker { n := 256 * (pkg + 1), m := arg, k := w 1 }
  | 6 =>
    match s.awayOf (arg % 4096) with
    | some a => s.causeOf a (arg / 4096)
    | none => s
  | 5 => { s with que := { s.que with cmds := s.que.cmds.map fun c => if c.id == arg then { c with acc := c.acc - 1 } else c } }
  | _ => s

/-- One message that has arrived (R29, R33). What a relay or management message without data slots says befalls the
package as a step of its own (log entry 14). INTR and WAKE have no use on the Coupler and are dropped without a count (DESIGN
CHOICE, log entry 95). A completion of a request that has timed out here is discarded and counted, and the order of its granule
no longer waits for it (R33, R37). -/
def State.takeMessage (s : State) (k : Nat) (p : Packet) : State :=
  let opc := hdrOpc p.hdr
  if opc = 0 ∨ 10 < opc then s.bump .cplrBadop k
  else if opc ≤ 3 then
    match peerReq p with
    | some r => (s.send r).1
    | none => s
  else if opc ≤ 6 then
    match s.awayOf (hdrTag p.hdr) with
    | some a =>
      if a.out then State.bump { s with lnk := { s.lnk with away := s.lnk.away.filter fun b => b != a } } .cplrLate 0
      else if opc = opcErr then s.errOf a (hdrStat p.hdr)
      else s.completion a none p.data
    | none => s.bump .cplrLate 0
  else if opc = 8 then s.takeMgmt p
  else s

/-- The oldest flit of a lane leaves the receive buffer, its messages taken in order. -/
def State.drainRx (s : State) (k v : Nat) : State :=
  match FMap.get [] (s.cplr k).rx v with
  | [] => s
  | flit :: rest =>
    let s := (s.modCplr k fun p => { p with rx := FMap.set [] p.rx v rest }).stopUpdate k v
    ((flitMessages flit).getD []).foldl (fun (s : State) p => s.takeMessage k p) s

/-! ### GTICK alignment (R47, R48) -/

/-- GTICK_ALIGN_SEND (R47). -/
def execGtickAlignSend (s : State) : Host.Outcome State Fault Refusal :=
  if s.clk.master && !s.livePlanes.isEmpty then
    .next ((Config.podMembers.filter fun q => q != s.own).foldl (fun (s : State) q => s.relayTo q (.gtick s.clk.gt)) s)
  else .next s

/-- An offset as an 8-bit field holds it. -/
def clampOffs (x : Int) : Int := if x < -128 then -128 else if 127 < x then 127 else x

/-- GTICK_ALIGN_RECEIVE (R47, R48): the count of the master, the lowest package that sends one; half the measured round trip
is added to it (DESIGN CHOICE, log entry 96). -/
def execGtickAlignReceive (s : State) : Host.Outcome State Fault Refusal :=
  if s.own ≤ s.inp.n ∨ s.clk.mpkg < s.inp.n ∨ s.livePlanes.isEmpty then .next s
  else
    let x : Int := (s.clk.gt : Int) - ((s.inp.v.toNat + s.inp.m / 2 : Nat) : Int)
    .next { s with clk := { s.clk with
      master := false, mpkg := s.inp.n, heard := s.clk.gt, offs := clampOffs x, adj := -x, sync := x.natAbs ≤ 2 } }

/-- The next higher member of the pod leads its time, this package where none lies between (R48, log entry 91). -/
def State.masterLost (s : State) : State :=
  let next := (Config.podMembers.filter fun q => (s.clk.mpkg < q : Bool)).foldl min s.own
  let me := next == s.own
  { s with clk := { s.clk with
      mpkg := next, master := me, heard := s.clk.gt, adj := if me then 0 else s.clk.adj, sync := s.clk.sync || me } }

/-- The master's count has failed to come twice (log entry 91). -/
def State.masterDue (s : State) : Bool :=
  !s.clk.master && !s.livePlanes.isEmpty && (s.clk.heard + 2 ^ 21 < s.clk.gt : Bool)

end Sys2Proof.Machine
end

