-- ==== Sys2Proof/Machine/Debug.lean ====
section
/-! DEFINITION. The debug unit's registers and stops (R277, R299 to R310). -/

namespace Sys2Proof.Machine
open Sys2Proof

/-! ### Counters (R300 to R302) -/

/-- The widest unit kind number a source allows: 0 package, 1 die, 2 cluster, 3 core; nothing for an unlisted source. -/
def sourceUnit (src : Nat) : Option Nat :=
  if src = 0 ∨ 0x13 < src then none
  else if src = 0x01 ∨ src = 0x0E ∨ src = 0x0F ∨ src = 0x13 then some 2
  else if src = 0x09 ∨ src = 0x10 ∨ src = 0x11 then some 1
  else if src = 0x12 then some 0
  else some 3

/-- How many units a kind has. -/
def unitCount : Nat → Nat
  | 1 => 4
  | 2 => 64
  | _ => 256

/-- EVC_SEL takes a value (R302). -/
def selOk (v : DWord) : Bool :=
  let kind := (v.extractLsb' 28 3).toNat
  match sourceUnit (v.extractLsb' 0 16).toNat with
  | none => false
  | some w => kind ≤ w && (kind == 0 || (v.extractLsb' 16 12).toNat < unitCount kind)

/-- A write of EVC_SEL (R301, R302): the count is cleared with it. -/
def State.selWrite (s : State) (n : Nat) (v : DWord) : State :=
  if selOk v then
    State.setReg { s with dbg := { s.dbg with evc := FMap.set 0 s.dbg.evc n 0 } } .evcSel n (v &&& 0xFFFFFFFF)
  else s.setField .evcStat 0 0 1 1

/-- EVENT_COUNTER_SELECT (R301). -/
def execEventCounterSelect (s : State) : Host.Outcome State Fault Refusal :=
  .next (s.guardedWrite s.inp.who .evcSel s.inp.n fun s => s.selWrite s.inp.n s.inp.v)

/-- A write of a lane-cycle range register clears the range's four counts (R300). -/
def State.rangeWrite (s : State) (r : RegName) (core n : Nat) (v : DWord) : State :=
  let s := s.setReg r (32 * core + n) v
  { s with dbg := { s.dbg with lanes := (List.range 4).foldl (fun m k => FMap.set 0 m (128 * core + 4 * n + k) 0) s.dbg.lanes } }

/-- LANE_CYCLE_RANGE_WRITE (R300). -/
def execLaneCycleRangeWrite (s : State) : Host.Outcome State Fault Refusal :=
  let r : RegName := if s.inp.on then .dbgLchi else .dbgLclo
  if s.inp.n < 256 ∧ s.inp.m < 16 then
    .next (s.guardedWrite s.inp.who r (32 * s.inp.n + s.inp.m) fun s => s.rangeWrite r s.inp.n s.inp.m s.inp.v)
  else .next s

/-- A write of FID_INJ (R277). -/
def State.injWrite (s : State) (cl : Nat) (v : DWord) : State :=
  let s := s.setField .fidInj cl 0 8 v.toNat
  if v.getLsbD 31 then (s.setField .fidInj cl 30 1 1).modCluster cl fun c => { c with armed := true } else s

/-- FID_INJECT (R277). -/
def execFidInject (s : State) : Host.Outcome State Fault Refusal :=
  .next (s.guardedWrite s.inp.who .fidInj s.inp.n fun s => s.injWrite s.inp.n s.inp.v)

/-! ### Stops (R307, R309, R310) -/

/-- A write of DBG_STOPC (R309). -/
def State.stopWrite (s : State) (v : DWord) : State :=
  let s := (s.plainWrite .dbgStopc 0 v).setField .dbgStopc 0 0 2 (v.toNat % 4)
  (if v.getLsbD 0 && v.getLsbD 1 then s.mgmtAll (.stopAt (s.reg .dbgStopt 0) false) else s).stopNow

/-- STOP_ARM (R309). -/
def execStopArm (s : State) : Host.Outcome State Fault Refusal :=
  .next (s.guardedWrite s.inp.who .dbgStopc 0 fun s => s.stopWrite s.inp.v)

/-- STOP_TARGET_WRITE (R309). -/
def execStopTargetWrite (s : State) : Host.Outcome State Fault Refusal :=
  .next (s.guardedWrite s.inp.who .dbgStopt 0 fun s => s.setTarget s.inp.v)

/-- STOP_ARM_MSG (R309, R310): a pod stop arms the same target; a BRK's message lowers the target. -/
def execStopArmMsg (s : State) : Host.Outcome State Fault Refusal :=
  if s.inp.on then
    .next (if s.inp.v.toNat < (s.reg .dbgStopt 0).toNat then s.setTarget s.inp.v else s)
  else .next ((s.setTarget s.inp.v).setField .dbgStopc 0 0 1 1).stopNow

/-- STOP_FIRE (R309): every clock domain of the package is gated, and only a reset ends it. -/
def execStopFire (s : State) : Host.Outcome State Fault Refusal :=
  if (s.reg .dbgStopc 0).getLsbD 0 && BitVec.ofNat 64 s.clk.gt == s.reg .dbgStopt 0 then
    .next { s with clk := { s.clk with stopped := true }, agenda := [] }
  else .next s

/-! ### Watchpoints and trace (R303 to R308) -/

/-- A watchpoint on another package's line is made known there, or withdrawn: its mode, and in bit 2 its STOP (R303, R307). -/
def State.tellWatch (s : State) (n mode : Nat) : State :=
  let line := lineOf (s.resolve (s.reg .dbgWpa n))
  if s.isOwn line ∨ s.livePlanes.isEmpty then s
  else s.mgmtTo (vaPkg line) (.watchSet n line (s.reg .dbgWpm n) (s.reg .dbgWpv n) (s.reg .dbgWpvm n)
    (mode + 4 * s.field .dbgWctl n 3 1))

/-- The register belongs to a watchpoint's settings. -/
def isWatchReg : RegName → Bool
  | .dbgWpa | .dbgWpm | .dbgWctl | .dbgWpv | .dbgWpvm => true
  | _ => false

/-- A write of a watchpoint's settings (R303). -/
def State.watchWrite (s : State) (r : RegName) (n : Nat) (v : DWord) : State :=
  let mode (s : State) : Nat := s.field .dbgWctl n 0 2
  let s := if mode s = 0 then s else s.tellWatch n 0
  let s := s.plainWrite r n v
  if mode s = 0 then s else s.tellWatch n (mode s)

/-- The copy channel of this package that a reported hit names: it delivers no more than its skid before the stop (R306, R307). -/
def State.haltReported (s : State) (n : Nat) (h : WatchHit) : State :=
  let src := h.hid.toNat % 65536
  if (s.reg .dbgWctl n).getLsbD 3 && h.hid.toNat / 65536 % 512 == s.own && 64 ≤ src % 256 && src % 256 < 72 then
    { s with dbg := { s.dbg with halted := (src / 16384 * 64 + src / 256 % 64, src % 8) :: s.dbg.halted } }
  else s

/-- WATCH_HIT_REPORT (R303, R305). -/
def execWatchHitReport (s : State) : Host.Outcome State Fault Refusal :=
  match s.inp.msg with
  | .hit h => if s.inp.m < 8 then .next ((s.recordHit s.inp.m h).haltReported s.inp.m h) else .next s
  | _ => .next s

/-- The REFTICKs a trace record may wait: 256 cycles of a clock of 2 GHz (R308, log entry 87). -/
def traceWait : Nat := 13

/-- TRACE_RECORD_DROP (R308): the oldest record that has waited too long. -/
def execTraceRecordDrop (s : State) : Host.Outcome State Fault Refusal :=
  match s.dbg.trace with
  | [] => .next s
  | r :: rest =>
    if s.clk.ref < r.1 + traceWait then .next s
    else .next (State.setReg { s with dbg := { s.dbg with trace := rest } } .dbgTrlost 0
      (BitVec.ofNat 64 (min (2 ^ 32 - 1) ((s.reg .dbgTrlost 0).toNat + 1))))

end Sys2Proof.Machine
end

