-- ==== Sys2Proof/Machine/Queues.lean ====
section
/-! DEFINITION. Launch ports and the queue engine (R18, R75 to R81): bindings, states, quanta, ring reads, the start of
commands and completion records. -/

namespace Sys2Proof.Machine
open Sys2Proof

/-! ### Launch ports (R75, R77) -/

def State.lport (s : State) (n : Nat) : LPort := FMap.get {} s.que.ports n

def State.modLport (s : State) (n : Nat) (f : LPort → LPort) : State :=
  { s with que := { s.que with ports := FMap.set {} s.que.ports n (f (s.lport n)) } }

def State.modCmd (s : State) (id : Nat) (f : Cmd → Cmd) : State :=
  { s with que := { s.que with cmds := s.que.cmds.map fun c => if c.id == id then f c else c } }

/-- The commands of a port. -/
def State.cmdsOf (s : State) (n : Nat) : List Cmd := s.que.cmds.filter fun c => c.port == n

/-- A control port's number as PORT holds it. -/
def portNum (p : LPort) : Nat := p.port.toNat

/-- T of a port (R77). -/
def tailOf (p : LPort) : Word := if p.port then p.wakeB else p.wakeA

/-- Bits of QUE_ISTAT. -/
def istIdle : Nat := 0
def istFault : Nat := 1
def istQuant : Nat := 2
def istCmpl : Nat := 3
def istCfg : Nat := 4
def istTail : Nat := 5
def istRing : Nat := 6

/-- Sets a bit of QUE_ISTAT, which sends INTR (R77). -/
def State.setIstat (s : State) (n bit : Nat) : State :=
  let p := s.lport n
  (s.setField .queIstat n bit 1 1).sendIntr (portNum p) p.vec

/-- A port enters RUNNING with its quantum counter loaded. -/
def State.portRun (s : State) (n : Nat) : State :=
  let q := (s.reg .queQuant n).toNat % 2 ^ 32
  s.modLport n fun p => { p with state := .running, qcnt := if q = 0 then 0 else q + 1 }

/-- A port leaves RUNNING, or another state, and the REFTICK is noted. -/
def State.portTo (s : State) (n : Nat) (st : PortState) : State :=
  s.modLport n fun p => { p with state := st, edge := if p.state = .running then s.clk.ref + 1 else p.edge }

/-- The queue engine examines a port again. -/
def State.wantRead (s : State) (n : Nat) : State := s.post .queueRead { n := n }

/-! ### Bindings (R75, R76, R78) -/

/-- R78's conditions on a port. -/
def State.bindable (s : State) (n : Nat) : Bool :=
  (s.lport n).state != .running && (s.cmdsOf n).all fun c => !c.started

/-- The fields a write of QUE_CTL sets. -/
def ctlFields (v : DWord) (p : LPort) : LPort :=
  { p with
    port := v.getLsbD 28, part := v.extractLsb' 24 3, primax := v.extractLsb' 22 2, sz := v.extractLsb' 16 4
    vec := v.extractLsb' 0 16 }

/-- A legal SZ. -/
def szOk (sz : Nat) : Bool := sz == 0 || (4 ≤ sz && sz ≤ 12)

/-- Unread and unstarted commands of a port are gone. -/
def State.dropUnstarted (s : State) (n : Nat) : State :=
  { s with que := { s.que with cmds := s.que.cmds.filter fun c => c.port != n || c.started } }

/-- Nobody waits for a unit's request any more. -/
def State.orphan (s : State) (req : Option Nat) : State :=
  match req with
  | some q => (s.modReq q fun r => { r with who := .unit 0 0 }).dropGot q
  | none => s

/-- A read of a ring entry is given up: the entry is read anew from the ring the port then names (R78). -/
def State.dropFetch (s : State) (n : Nat) : State :=
  (s.orphan (s.lport n).fetch).modLport n fun p => { p with fetch := none }

/-- A write of QUE_CTL (R77, R78). -/
def State.queCtlWrite (s : State) (n : Nat) (v : DWord) : State :=
  let sz := (v.extractLsb' 16 4).toNat
  if !s.bindable n || !szOk sz then s.setIstat n istCfg
  else if sz = 0 then (((s.dropFetch n).modLport n (ctlFields v)).dropUnstarted n).portTo n .unbound
  else if (s.lport n).state = .unbound then
    s.modLport n fun p => { ctlFields v p with state := .idle, head := 0, wakeA := 0, wakeB := 0, cc := 0 }
  else ((s.dropFetch n).modLport n (ctlFields v)).wantRead n

/-- QUE_CTL_WRITE (R78). -/
def execQueCtlWrite (s : State) : Host.Outcome State Fault Refusal :=
  .next (s.guardedWrite s.inp.who .queCtl s.inp.n fun s => s.queCtlWrite s.inp.n s.inp.v)

/-- A ring base R75 allows. -/
def ringBaseOk (v : DWord) : Bool := vaLegal v && vaRgn v ≤ 4

/-- A write of QUE_BASE or QUE_CBASE (R76, R78). -/
def State.queBaseWrite (s : State) (n : Nat) (completion : Bool) (v : DWord) : State :=
  let base := v &&& 0xFFFFFFFFFFFFF000
  if !s.bindable n || !ringBaseOk base then s.setIstat n istCfg
  else (s.dropFetch n).modLport n fun p => if completion then { p with cbase := base } else { p with base := base }

/-- QUE_BASE_WRITE (R76). -/
def execQueBaseWrite (s : State) : Host.Outcome State Fault Refusal :=
  .next (s.guardedWrite s.inp.who (if s.inp.on then .queCbase else .queBase) s.inp.n fun s =>
    s.queBaseWrite s.inp.n s.inp.on s.inp.v)

/-- A write of QUE_GO (R77). -/
def State.queGo (s : State) (n : Nat) (v : DWord) : State :=
  let st := (s.lport n).state
  if v.toNat % 2 ^ 32 = 1 ∧ (st = .paused ∨ st = .faulted) then (s.portRun n).wantRead n else s

/-- QUEUE_GO (R77). -/
def execQueueGo (s : State) : Host.Outcome State Fault Refusal :=
  .next (s.guardedWrite s.inp.who .queGo s.inp.n fun s => s.queGo s.inp.n s.inp.v)

/-- The quantum counter of a port reaches 0 (R77); a faulting completion of the same REFTICK keeps it FAULTED. -/
def State.quantumEnd (s : State) (n : Nat) : State :=
  let p := s.lport n
  if p.qcnt ≠ 1 then s
  else
    let s := s.modLport n fun p => { p with qcnt := 0 }
    if p.state = .running then (s.portTo n .paused).setIstat n istQuant
    else if p.state = .faulted ∧ p.edge = s.clk.ref + 1 then s.setIstat n istQuant
    else s

/-- QUANTUM_EXPIRY (R77). -/
def execQuantumExpiry (s : State) : Host.Outcome State Fault Refusal := .next (s.quantumEnd s.inp.n)

/-! ### Completion records (R77, R80, R81) -/

/-- Class F of a status. -/
def classF (st : Nat) : Bool := 0x10 ≤ st

/-- A field of a command packet. -/
def cmdNum (c : Cmd) (lo n : Nat) : Nat := natOfBytes ((c.bytes.drop lo).take n)

/-- The completion record of a command (R81). -/
def recordBytes (c : Cmd) : List Byte :=
  bytesLE 2 (cmdNum c 2 2) ++ bytesLE 1 (c.status.getD 0).toNat ++ bytesLE 1 (cmdNum c 0 1) ++ bytesLE 4 c.count.toNat
    ++ bytesLE 8 c.value.toNat

/-- A record that could not be written (R77, R494). -/
def State.ringFail (s : State) (n : Nat) : State :=
  let st := (s.lport n).state
  let s := if st = .running ∨ st = .paused then s.portTo n .faulted else s
  s.setIstat n istRing

/-- A command has completed: it is gone, CMPL and FAULT are set, and a class F status stops a RUNNING port (R77, R79,
R81). A quantum expiry of the same REFTICK does not keep the port PAUSED. -/
def State.cmdGone (s : State) (c : Cmd) : State :=
  let s : State := { s with que := { s.que with cmds := s.que.cmds.filter fun d => d.id != c.id } }
  let s := if (c.bytes.getD 1 0).getLsbD 1 then s.setIstat c.port istCmpl else s
  if classF (c.status.getD 0).toNat then
    let p := s.lport c.port
    let s := if p.state = .running ∨ (p.state = .paused ∧ p.edge = s.clk.ref + 1) then s.portTo c.port .faulted else s
    s.setIstat c.port istFault
  else s

/-- The next completion record of a port is sent: one at a time, in completion order (R80). -/
def State.sendRecord (s : State) (n : Nat) : State :=
  let done := (s.cmdsOf n).filter fun c => c.status.isSome
  match done with
  | [] => s
  | c :: _ =>
    if c.req.isSome then s
    else
      let p := s.lport n
      let va := p.cbase + BitVec.ofNat 64 (p.cc % 2 ^ p.sz.toNat * 16)
      let (s, q) := s.unitSend 6 c.id queueSrc .store va (recordBytes c) [] none
      s.modCmd c.id fun c => { c with req := some q }

/-- Takes the answer to a record's write. -/
def State.takeRecords (s : State) (n : Nat) : State :=
  match (s.cmdsOf n).find? fun c => c.status.isSome && c.req.isSome with
  | none => s.sendRecord n
  | some c =>
    match s.unitAns (c.req.getD 0) with
    | .wait => s
    | .ok _ => ((((s.dropGot (c.req.getD 0)).modLport n fun p => { p with cc := p.cc + 1 }).cmdGone c)).sendRecord n
    | .fail _ _ => (((s.dropGot (c.req.getD 0)).cmdGone c).ringFail n).sendRecord n

/-- A command ends with a status: it leaves what it holds, and its record is written (R80, R81). -/
def State.finishCmd (s : State) (id st : Nat) (value : DWord) : State :=
  match s.cmd? id with
  | none => s
  | some c =>
    if c.status.isSome then s
    else
      let c' : Cmd := { c with started := true, status := some (BitVec.ofNat 8 st), value := value, req := none, data := [], frames := [] }
      let s : State := { s with que := { s.que with
        cmds := (s.que.cmds.filter fun d => d.id != id) ++ [c']
        cancels := s.que.cancels.filter fun x => x.1 != id } }
      s.sendRecord c.port

/-! ### Ring reads (R18, R77 to R79) -/

/-- The address of the entry of count HEAD (R75, R77). -/
def entryVa (p : LPort) : DWord := p.base + BitVec.ofNat 64 (p.head.toNat % 2 ^ p.sz.toNat * 64)

/-- Takes the answer to a ring read: in RUNNING the entry is consumed; elsewhere it is read again after the port resumes
(R77). -/
def State.takeEntry (s : State) (n : Nat) : State :=
  let p := s.lport n
  match p.fetch with
  | none => s
  | some q =>
    match s.unitAns q with
    | .wait => s
    | .fail _ _ =>
      let s := (s.dropGot q).modLport n fun p => { p with fetch := none }
      if p.state = .unbound ∨ p.state = .idle then s else s.ringFail n
    | .ok bs =>
      let s := (s.dropGot q).modLport n fun p => { p with fetch := none }
      if p.state = .running then
        let c : Cmd := { id := s.que.nextId, port := n, count := p.head, bytes := bs }
        let s : State := { s with que := { s.que with cmds := s.que.cmds ++ [c], nextId := s.que.nextId + 1 } }
        (s.modLport n fun p => { p with head := p.head + 1 }).post .commandStart { n := n }
      else s

/-- The engine examines T and HEAD and reads the next entry once every earlier command has started (R77, R80). -/
def State.readNext (s : State) (n : Nat) : State :=
  let p := s.lport n
  let d := (tailOf p - p.head).toNat
  if p.state ≠ .idle ∧ p.state ≠ .running then s
  else if 2 ^ p.sz.toNat < d then (s.portTo n .faulted).setIstat n istTail
  else
    let s := if p.state = .idle ∧ d ≠ 0 then s.portRun n else s
    if (s.lport n).state ≠ .running then s
    else if d = 0 then
      if (s.cmdsOf n).isEmpty then (s.portTo n .idle).setIstat n istIdle else s
    else if p.fetch.isSome || (s.cmdsOf n).any fun c => !c.started then s
    else
      let (s, q) := s.unitRead 5 n queueSrc (entryVa p) 64
      s.modLport n fun p => { p with fetch := some q }

/-- QUEUE_READ (R18, R77): finished records and entries are taken, then T is examined. -/
def execQueueRead (s : State) : Host.Outcome State Fault Refusal :=
  if 32 ≤ s.inp.n then .next s
  else .next (((s.takeRecords s.inp.n).takeEntry s.inp.n).readNext s.inp.n)

/-! ### The start of commands (R79 to R82) -/

/-- Bytes of the payload that a command uses, as (offset, length); nothing for an OPC that is none. -/
def cmdUsed : Nat → Option (List (Nat × Nat))
  | 1 => some [(8, 8)]
  | 2 => some [(8, 16)]
  | 3 => some [(8, 20)]
  | 4 => some [(8, 1), (16, 8)]
  | 5 => some [(8, 28)]
  | 6 => some [(8, 12)]
  | 7 => some [(8, 12)]
  | 8 => some [(8, 13)]
  | 9 => some [(8, 1), (12, 20)]
  | 10 => some [(8, 2)]
  | 11 => some [(8, 2), (16, 12)]
  | 12 => some [(8, 12)]
  | 13 => some [(8, 12), (24, 12)]
  | _ => none

/-- A field holds a value outside its range (R82). -/
def cmdRange (c : Cmd) : Bool :=
  let pages (lo : Nat) : Bool := cmdNum c lo 4 == 0 || 65536 < cmdNum c lo 4
  match cmdNum c 0 1 with
  | 1 => cmdNum c 8 8 % 128 != 0
  | 2 => cmdNum c 8 8 % 8 != 0 || cmdNum c 16 4 == 0 || 4096 < cmdNum c 16 4
  | 3 => cmdNum c 8 8 % 8 != 0
  | 4 => 3 < cmdNum c 8 1
  | 5 => pages 32
  | 6 | 7 => pages 16
  | 8 => pages 16 || 1 < cmdNum c 20 1
  | 9 => 15 < cmdNum c 8 1 || cmdNum c 12 4 % 65536 != 0 || 2 ^ 30 < cmdNum c 12 4 || cmdNum c 24 8 % 65536 != 0
      || 2 ^ 30 < cmdNum c 12 4 + cmdNum c 24 8
  | 10 => 15 < cmdNum c 8 1 || 1 < cmdNum c 9 1
  | 11 => 7 < cmdNum c 8 1 || 15 < cmdNum c 9 1
  | 12 => cmdNum c 18 2 == 0 || 256 < cmdNum c 16 2 + cmdNum c 18 2
  | 13 => 4096 < cmdNum c 16 4
  | _ => false

/-- The packet breaks R79 or R82. -/
def cmdBad (c : Cmd) : Bool :=
  match cmdUsed (cmdNum c 0 1) with
  | none => true
  | some us =>
    4 ≤ cmdNum c 1 1 || cmdNum c 7 1 != 0 || cmdRange c
      || (List.range 56).any fun i =>
        c.bytes.getD (8 + i) 0 != 0 && us.all fun u => 8 + i < u.1 || u.1 + u.2 ≤ 8 + i

/-- A partition as configured; nothing for one that no PARTITION has named yet. -/
def State.partOf (s : State) (n : Nat) : Option (Nat × Nat × BitVec 4 × List Nat) := s.lau.parts.find? fun p => p.1 == n

/-- The job of a removed partition: none (R85). -/
def noJob : Nat := 2 ^ 24

/-- The dies of the partition a port serves. -/
def State.portDies (s : State) (n : Nat) : BitVec 4 :=
  match s.partOf (s.lport n).part.toNat with | some p => p.2.2.1 | none => 0

/-- The job of the partition a port serves; 0 before any PARTITION has named it (log entry 5). -/
def State.portJob (s : State) (n : Nat) : Nat :=
  match s.partOf (s.lport n).part.toNat with | some p => p.2.1 | none => 0

/-- The dies a command names lie outside the partition of its queue (R81). -/
def State.diesOut (s : State) (c : Cmd) : Bool :=
  let mask := BitVec.ofNat 4 (cmdNum c 8 1)
  (cmdNum c 0 1 == 9 || cmdNum c 0 1 == 10) && mask &&& ~~~(s.portDies c.port) != 0

/-- The semaphore a command needs (R82). -/
def cmdSem (opc : Nat) : Option Nat := if opc = 9 then some 3 else if opc = 11 then some 1 else none

/-- The checks of R81 at the start, in the order the model fixes; nothing when the command may run. -/
def State.cmdCheck (s : State) (c : Cmd) : Option Nat :=
  let opc := cmdNum c 0 1
  let party := portParty (portNum (s.lport c.port))
  if s.bootPhase ≠ 3 ∧ opc ≠ 13 then some 0x11
  else if cmdBad c then some 0x10
  else if s.portJob c.port = noJob ∨ (opc ≠ 11 ∧ cmdNum c 4 3 ≠ s.portJob c.port) ∨ s.diesOut c then some 0x12
  else
    match cmdSem opc with
    | some n => if s.owns party n then none else some 0x13
    | none => none

/-- COMMAND_START (R80): the oldest unstarted command of a RUNNING port; FENCE waits for every earlier one. -/
def State.startCmd (s : State) (n : Nat) : State :=
  match (s.cmdsOf n).find? fun c => !c.started with
  | none => s
  | some c =>
    if (s.lport n).state ≠ .running ∨ ((c.bytes.getD 1 0).getLsbD 0 ∧ 1 < (s.cmdsOf n).length) then s
    else
      let s := match s.cmdCheck c with
        | some st => s.finishCmd c.id st 0
        | none => (s.modCmd c.id fun c => { c with started := true, since := s.clk.ref }).wakeCmd c.id
      s.wantRead n

/-- COMMAND_START (R80). -/
def execCommandStart (s : State) : Host.Outcome State Fault Refusal := .next (s.startCmd s.inp.n)

/-! ### Memory operands of commands (R494) -/

/-- Reads on from `va`, at most to the end of its line. -/
def State.cmdLoad (s : State) (c : Cmd) (va : DWord) (left : Nat) : State × UnitAns :=
  match c.req with
  | none =>
    if !vaLegal va then (s, .fail 0 0)
    else
      let (s, q) := s.unitRead 7 c.id queueSrc va (min left (64 - va.toNat % 64))
      (s.modCmd c.id fun c => { c with req := some q }, .wait)
  | some q =>
    match s.unitAns q with
    | .wait => (s, .wait)
    | x => ((s.dropGot q).modCmd c.id fun c => { c with req := none }, x)

/-- Writes on at `va`, at most to the end of its line; the answer holds the bytes written. -/
def State.cmdStore (s : State) (c : Cmd) (va : DWord) (bs : List Byte) : State × UnitAns :=
  let part := bs.take (64 - va.toNat % 64)
  match c.req with
  | none =>
    if !vaLegal va then (s, .fail 0 0)
    else
      let (s, q) := s.unitSend 7 c.id queueSrc .store va part [] none
      (s.modCmd c.id fun c => { c with req := some q }, .wait)
  | some q =>
    match s.unitAns q with
    | .wait => (s, .wait)
    | .ok _ => ((s.dropGot q).modCmd c.id fun c => { c with req := none }, .ok part)
    | x => ((s.dropGot q).modCmd c.id fun c => { c with req := none }, x)

/-- A started command that has not ended. -/
def State.running? (s : State) (id opc : Nat) : Option Cmd :=
  match s.cmd? id with
  | some c => if c.started && c.status.isNone && cmdNum c 0 1 == opc then some c else none
  | none => none

end Sys2Proof.Machine
end

