-- ==== Sys2Proof/Machine/Commands.lean ====
section
/-! DEFINITION. The Yeleno commands on launches, weights, dies, partitions and counters (R82 to R85, R148, R150). -/

namespace Sys2Proof.Machine
open Sys2Proof

/-! ### LAUNCH and GRAPH (R82, R141) -/

/-- Hands a record to the package relay as a launch of a command's queue (R80, R144). -/
def State.issueLaunch (s : State) (c : Cmd) (va : DWord) (graph : Option Nat) : State :=
  let id := s.lau.nextReq
  let r : LaunchReq := {
    id := id, issuer := .cmd c.port c.id, va := va, job := cmdNum c 4 3, primax := (s.lport c.port).primax.toNat
    dies := s.portDies c.port, graph := graph, came := s.clk.ref }
  ((s.modLau fun l => { l with reqs := l.reqs ++ [r], nextReq := id + 1 }).modCmd c.id fun c => { c with
    runs := c.runs ++ [id] }).post .launchRequest { n := id }

/-- The Yeleno status of a launch that has ended (R141, R152). -/
def launchCode (r : LaunchReq) : Nat :=
  match r.status, r.result with
  | some .committed, some (_, faults, canc) =>
    if r.noplace then 0x15 else if faults ≠ 0 then 0x14 else if canc then 0x02 else 0x00
  | some .nogang, _ => 0x01
  | some .badrec, _ => 0x10
  | some .perm, _ => 0x12
  | some .noplace, _ => 0x15
  | some .cancelled, _ => 0x02
  | _, _ => 0x00

/-- Tiles never started and faults of a launch. -/
def launchNever (r : LaunchReq) : Nat := match r.result with | some x => x.1 | none => 0
def launchFaults (r : LaunchReq) : Nat := match r.result with | some x => x.2.1 | none => 0

/-- The launches a command issued, in order. -/
def State.issuedBy (s : State) (c : Cmd) : List LaunchReq := c.runs.filterMap s.launchReq?

/-- The launches a command answers for: those it issued, in order, and with a GRAPH's identifier the others that joined its entry
(R81, R148, log entry 115). -/
def State.runsOf (s : State) (c : Cmd) : List LaunchReq :=
  let g := cmdNum c 20 4
  let others : List Nat := if cmdNum c 0 1 = 2 ∧ g ≠ 0 then
      match s.lau.idents.find? fun e => e.kind == 1 && e.ident == g with | some e => e.runs | none => []
    else []
  s.issuedBy c ++ (others.filter fun x => !c.runs.contains x).filterMap s.launchReq?

/-- The value of a sum. -/
def sumBy {α : Type} (f : α → Nat) (xs : List α) : Nat := xs.foldl (fun n x => n + f x) 0

/-- YELENO_LAUNCH (R82): the launch is issued, and the command ends with it. -/
def State.launchCmd (s : State) (c : Cmd) : State :=
  if c.runs.isEmpty then s.issueLaunch c (BitVec.ofNat 64 (cmdNum c 8 8)) none
  else
    match s.runsOf c with
    | r :: _ =>
      if r.result.isNone then s
      else
        let code := launchCode r
        s.finishCmd c.id code (BitVec.ofNat 64 (if code = 0x14 then launchFaults r else launchNever r))
    | [] => s

/-- YELENO_LAUNCH (R82). -/
def execYelenoLaunch (s : State) : Host.Outcome State Fault Refusal :=
  match s.running? s.inp.n 1 with
  | some c => .next (s.launchCmd c)
  | none => .next s

/-- A GRAPH command joins its identifier's entry while it issues and waits (R148): `acc` says that it did. -/
def State.graphJoin (s : State) (c : Cmd) : State :=
  let g := cmdNum c 20 4
  let es := s.lau.idents
  if g = 0 then s
  else if es.any fun e => e.kind == 1 && e.ident == g then
    (s.modLau fun l => { l with idents := l.idents.map fun e =>
      if e.kind == 1 && e.ident == g then { e with users := e.users + 1 } else e }).modCmd c.id fun c => { c with acc := 1 }
  else if es.length < 1024 then
    (s.modLau fun l => { l with idents := l.idents ++ [{ kind := 1, ident := g, opens := 0, faults := 0, users := 1 }] }).modCmd
      c.id fun c => { c with acc := 1 }
  else s

/-- It has taken the outcome: the entry may be free. -/
def State.graphLeave (s : State) (c : Cmd) : State :=
  let g := cmdNum c 20 4
  if c.acc = 1 then
    s.modLau fun l => { l with idents := freeIdents (l.idents.map fun e =>
      if e.kind == 1 && e.ident == g then { e with users := e.users - 1 } else e) }
  else s

/-- A graph identifier is done (R148). -/
def State.graphDone (s : State) (g : Nat) : Bool :=
  (s.lau.idents.all fun e => !(e.kind == 1 && e.ident == g) || e.opens == 0)
    && s.que.cmds.all fun c => !(graphIssuing c && cmdNum c 20 4 == g)

/-- The status of a GRAPH whose launches have ended (R82). -/
def State.graphCode (s : State) (c : Cmd) : Nat :=
  let rs := s.runsOf c
  if c.step = 3 then 0x10
  else if rs.any fun r => launchFaults r != 0 then 0x14
  else match (s.issuedBy c).find? fun r => launchCode r != 0 with | some r => launchCode r | none => 0

/-- GRAPH (R82): step 0 begins, 1 reads the array's entries and issues their records, 2 waits for the launches, 3 does so
after an entry that could not be read. -/
def State.graphCmd (s : State) (c : Cmd) : State :=
  let g := cmdNum c 20 4
  match c.step with
  | 0 => ((s.graphJoin c).modCmd c.id fun c => { c with step := 1 }).wakeCmd c.id
  | 1 =>
    if cmdNum c 16 4 ≤ c.idx then (s.modCmd c.id fun c => { c with step := 2 }).wakeCmd c.id
    else
      let (s, a) := s.cmdLoad c (BitVec.ofNat 64 (cmdNum c 8 8 + 8 * c.idx)) 8
      match a with
      | .wait => s
      | .fail _ _ => (s.modCmd c.id fun c => { c with step := 3 }).wakeCmd c.id
      | .ok bs =>
        let s := s.issueLaunch c (BitVec.ofNat 64 (natOfBytes bs)) (if g = 0 then none else some g)
        (s.modCmd c.id fun c => { c with idx := c.idx + 1 }).wakeCmd c.id
  | _ =>
    let rs := s.runsOf c
    if (rs.any fun r => r.result.isNone) || (c.step == 2 && g != 0 && !s.graphDone g) then s
    else
      let code := s.graphCode c
      let value := if code = 0x14 then sumBy launchFaults rs else sumBy launchNever rs
      (s.graphLeave c).finishCmd c.id code (BitVec.ofNat 64 value)

/-- GRAPH (R82). -/
def execGraph (s : State) : Host.Outcome State Fault Refusal :=
  match s.running? s.inp.n 2 with
  | some c => .next (s.graphCmd c)
  | none => .next s

/-! ### WAIT (R82) -/

/-- WAIT reads its counter again and again: `data` holds the value last seen, and a read begins in each REFTICK. -/
def State.waitStep (s : State) (c : Cmd) : State :=
  if c.req.isNone && c.acc == s.clk.ref + 1 then s
  else
    let s := if c.req.isNone then s.modCmd c.id fun c => { c with acc := s.clk.ref + 1 } else s
    let (s, a) := s.cmdLoad c (BitVec.ofNat 64 (cmdNum c 8 8)) 8
    match a with
    | .wait => s
    | .fail _ _ => s.finishCmd c.id 0x10 (BitVec.ofNat 64 (natOfBytes c.data))
    | .ok bs =>
      if cmdNum c 16 8 ≤ natOfBytes bs then s.finishCmd c.id 0x00 (BitVec.ofNat 64 (natOfBytes bs))
      else s.modCmd c.id fun c => { c with data := bs }

/-- WAIT (R82). -/
def execWaitCmd (s : State) : Host.Outcome State Fault Refusal :=
  match s.running? s.inp.n 3 with
  | some c => .next (s.waitStep c)
  | none => .next s

/-- WAIT_LIMIT_EXPIRY (R82). -/
def execWaitLimitExpiry (s : State) : Host.Outcome State Fault Refusal :=
  match s.running? s.inp.n 3 with
  | some c =>
    if cmdNum c 24 4 ≠ 0 ∧ c.since + cmdNum c 24 4 ≤ s.clk.ref then
      .next ((s.orphan c.req).finishCmd c.id 0x03 (BitVec.ofNat 64 (natOfBytes c.data)))
    else .next s
  | none => .next s

/-! ### CANCEL (R82, R150, R151) -/

/-- What a CANCEL names. A record address has its PKG resolved (R150). -/
def State.cancelIdent (s : State) (c : Cmd) : Nat :=
  if cmdNum c 8 1 = 0 then (s.resolve (BitVec.ofNat 64 (cmdNum c 16 8))).toNat else cmdNum c 16 8

/-- CANCEL: step 0 cancels; then it waits for every launch named (R150, R151). -/
def State.cancelStep (s : State) (c : Cmd) : State :=
  let kind := cmdNum c 8 1
  let ident := s.cancelIdent c
  let job := if kind = 0 then some (cmdNum c 4 3) else none
  if c.step = 0 then
    let runs := s.cancelRuns kind ident job
    let s : State := { s with que := { s.que with cancels := s.que.cancels ++ [(c.id, kind, ident)] } }
    let (s, asked) := (s.cancelBy kind ident job).askCancel kind ident job
    (s.modCmd c.id fun c => { c with step := 1, runs := runs ++ asked }).wakeCmd c.id
  else
    let rs := c.runs.map (s.cancelResult kind ident job)
    if rs.any Option.isNone then s
    else (s.finishCmd c.id 0x00 (BitVec.ofNat 64 (sumBy (fun x => x.getD 0) rs))).overCancel c.runs

/-- CANCEL (R150). -/
def execCancel (s : State) : Host.Outcome State Fault Refusal :=
  match s.running? s.inp.n 4 with
  | some c => .next (s.cancelStep c)
  | none => .next s

/-! ### WLOAD (R83, R494) -/

/-- A launch with the banks a WLOAD writes is being reserved, or is committed and not done, or reached the firmware in the same
REFTICK on a lower launch port, which is known once that REFTICK is over (R83). -/
def State.wloadHeld (s : State) (c : Cmd) (mask : BitVec 4) (off len : Nat) : Bool :=
  let t : State := { s with que := { s.que with wloads := [(0, mask, off, len)] } }
  (s.lau.pkgs.any fun p => t.wloadConflict p.lrec.wsmask)
    || (s.lau.pods.any fun p => podOpen p && p.state != .waiting && t.wloadConflict p.lrec.wsmask)
    || (s.lau.clears.any fun x => x.2.2 && t.wloadConflict x.2.1)
    || c.since == s.clk.ref || s.lau.reqs.any fun r => r.result.isNone && r.came == c.since
      && (match r.issuer with | .cmd port _ => port < c.port | _ => false)
      && (r.bytes.length != 128 || t.wloadConflict (recOfReq r).wsmask)

/-- Writes bytes into the weight stores of a mask's dies. -/
def State.wsPut (s : State) (mask : BitVec 4) (off : Nat) (bs : List Byte) : State :=
  { s with fab := { s.fab with mem :=
    ((List.range 4).filter fun d => mask.getLsbD d).foldl (fun (m : Memory) d => m.setBytes (spaceKey (wsSpace d) off) bs) s.fab.mem } }

/-- Launches that waited for a WLOAD or a held die go on: their reserves here and on other packages, and the answers withheld
(R83, R84). -/
def State.reserveAgain (s : State) : State :=
  let s := (s.lau.clears.filter fun c => !c.2.2).foldl (fun (s : State) c => s.answerBanks c.1 c.2.1) s
  let s := (s.lau.pods.filter fun p => p.state == .waiting).foldl (fun (s : State) p => s.post .reserveStart { n := p.seq }) s
  s.lau.pkgs.foldl (fun (s : State) p =>
    (p.dies.filter fun d => d.answer.isNone).foldl (fun (s : State) d => s.post .dieReserve { n := d.die, key := p.key }) s) s

/-- A WLOAD has ended. -/
def State.wloadEnd (s : State) (c : Cmd) (st : Nat) : State :=
  let s : State := { s with que := { s.que with wloads := s.que.wloads.filter fun w => w.1 != c.id } }
  (s.finishCmd c.id st 0).reserveAgain

/-- Free bytes over the range of a WLOAD that failed (R494). -/
def State.wsSpoil (s : State) (mask : BitVec 4) (off len : Nat) : State :=
  let bs := (List.range len).map fun i => Config.freeByte (s.free + i)
  State.wsPut { s with free := s.free + len } mask off bs

/-- WLOAD: step 0 waits for the launches on its banks; then the data is copied line by line. -/
def State.wloadStep (s : State) (c : Cmd) : State :=
  let mask := BitVec.ofNat 4 (cmdNum c 8 1)
  let off := cmdNum c 12 4
  let len := cmdNum c 24 8
  if c.step = 0 then
    if s.wloadHeld c mask off len then s
    else
      let s : State := { s with que := { s.que with wloads := s.que.wloads ++ [(c.id, mask, off, len)] } }
      (s.modCmd c.id fun c => { c with step := 1 }).wakeCmd c.id
  else if len ≤ c.idx then s.wloadEnd c 0x00
  else
    let (s, a) := s.cmdLoad c (BitVec.ofNat 64 (cmdNum c 16 8 + c.idx)) (len - c.idx)
    match a with
    | .wait => s
    | .fail _ _ => (s.wsSpoil mask off len).wloadEnd c 0x10
    | .ok bs => ((s.wsPut mask (off + c.idx) bs).modCmd c.id fun c => { c with idx := c.idx + bs.length }).wakeCmd c.id

/-- WLOAD (R83). -/
def execWload (s : State) : Host.Outcome State Fault Refusal :=
  match s.running? s.inp.n 9 with
  | some c => .next (s.wloadStep c)
  | none => .next s

/-! ### QUIESCE (R84) -/

/-- The dies of a mask. -/
def maskDies (m : BitVec 4) : List Nat := (List.range 4).filter fun d => m.getLsbD d

/-- QUIESCE hold: no block is placed on the dies, their blocks are asked to leave with no bound (R177), and it ends when none is
resident there. -/
def State.quiesceHold (s : State) (c : Cmd) : State :=
  let dies := maskDies (BitVec.ofNat 4 (cmdNum c 8 1))
  if c.step = 0 then
    let s := s.modLau fun l => { l with holds := (l.holds ++ dies).eraseDups }
    let s := (s.cores.blocks.filter fun b => dies.contains (b.core / 64) && !leaving b).foldl (fun (s : State) b => s.preempt b none) s
    (s.modCmd c.id fun c => { c with step := 1 }).wakeCmd c.id
  else if s.cores.blocks.any fun b => dies.contains (b.core / 64) then s
  else s.finishCmd c.id 0x00 0

/-- QUIESCE_HOLD (R84). -/
def execQuiesceHold (s : State) : Host.Outcome State Fault Refusal :=
  match s.running? s.inp.n 10 with
  | some c => if cmdNum c 9 1 = 1 then .next (s.quiesceHold c) else .next s
  | none => .next s

/-- The cores of a die attempt placement. -/
def State.placeDie (s : State) (die : Nat) : State :=
  ((List.range 64).filter fun i => !(s.ctxsOf (64 * die + i)).isEmpty).foldl (fun (s : State) i => s.wantPlace (64 * die + i)) s

/-- QUIESCE release: the holds end at once (R84). -/
def State.quiesceRelease (s : State) (c : Cmd) : State :=
  let dies := maskDies (BitVec.ofNat 4 (cmdNum c 8 1))
  let s := s.modLau fun l => { l with holds := l.holds.filter fun d => !dies.contains d }
  dies.foldl State.placeDie ((s.finishCmd c.id 0x00 0).reserveAgain)

/-- QUIESCE_RELEASE (R84). -/
def execQuiesceRelease (s : State) : Host.Outcome State Fault Refusal :=
  match s.running? s.inp.n 10 with
  | some c => if cmdNum c 9 1 = 0 then .next (s.quiesceRelease c) else .next s
  | none => .next s

/-! ### PARTITION (R85) -/

/-- The shares a PARTITION names, by stack. -/
def partShares (c : Cmd) : List Nat := (List.range 12).map fun i => cmdNum c (16 + i) 1

/-- A PARTITION breaks R85. -/
def State.partBad (s : State) (c : Cmd) : Bool :=
  let n := cmdNum c 8 1
  let mask := BitVec.ofNat 4 (cmdNum c 9 1)
  let shares := partShares c
  let others := s.lau.parts.filter fun p => p.1 != n
  (others.any fun p => p.2.2.1 &&& mask != 0)
    || (List.range 12).any fun i =>
      (!mask.getLsbD (i / 3) && shares.getD i 0 != 0)
        || 240 < shares.getD i 0 + sumBy (fun (p : Nat × Nat × BitVec 4 × List Nat) => p.2.2.2.getD i 0) others

/-- PARTITION: step 0 sets the partition; it ends when no block of the old job is left on the dies taken from it. -/
def State.partitionStep (s : State) (c : Cmd) : State :=
  let n := cmdNum c 8 1
  let mask := BitVec.ofNat 4 (cmdNum c 9 1)
  if c.step = 0 then
    if s.partBad c then s.finishCmd c.id 0x10 0
    else
      let old := s.partOf n
      let job := if mask = 0 then noJob else cmdNum c 4 3
      let s := s.modLau fun l => { l with parts := (l.parts.filter fun p => p.1 != n) ++ [(n, job, mask, partShares c)] }
      let was := match old with | some p => p.2.2.1 | none => 0
      let oldJob := match old with | some p => p.2.1 | none => noJob
      let gone := was &&& ~~~(s.jobDies oldJob)
      let s := s.modCmd c.id fun c => { c with step := 1, acc := oldJob, idx := gone.toNat }
      ((maskDies mask).foldl State.placeDie s.dropUnplaceable).wakeCmd c.id
  else
    let gone := BitVec.ofNat 4 c.idx
    if s.cores.blocks.any fun b => recJob b.lrec == c.acc && gone.getLsbD (b.core / 64) then s
    else s.finishCmd c.id 0x00 0

/-- PARTITION (R85). -/
def execPartitionCmd (s : State) : Host.Outcome State Fault Refusal :=
  match s.running? s.inp.n 11 with
  | some c => .next (s.partitionStep c)
  | none => .next s

/-! ### READ-COUNTERS (R82, R301) -/

/-- READ-COUNTERS: step 0 takes the snapshot; then it is written line by line. -/
def State.countersStep (s : State) (c : Cmd) : State :=
  if c.step = 0 then
    let first := cmdNum c 16 2
    let bs := (List.range (cmdNum c 18 2)).flatMap fun i => bytesLE 8 (FMap.get 0 s.dbg.evc (first + i)).toNat
    (s.modCmd c.id fun c => { c with step := 1, data := bs }).wakeCmd c.id
  else if c.data.length ≤ c.idx then s.finishCmd c.id 0x00 0
  else
    let (s, a) := s.cmdStore c (BitVec.ofNat 64 (cmdNum c 8 8 + c.idx)) (c.data.drop c.idx)
    match a with
    | .wait => s
    | .fail _ _ => s.finishCmd c.id 0x10 0
    | .ok bs => (s.modCmd c.id fun c => { c with idx := c.idx + bs.length }).wakeCmd c.id

/-- READ_COUNTERS (R82). -/
def execReadCounters (s : State) : Host.Outcome State Fault Refusal :=
  match s.running? s.inp.n 12 with
  | some c => .next (s.countersStep c)
  | none => .next s

/-! ### The logical map (R89) -/

/-- Another valid entry names the same physical core. -/
def State.lmapTwice (s : State) (k : Nat) (v : DWord) : Bool :=
  (List.range 256).any fun j =>
    j != k && (s.reg .dspLmap j).getLsbD 31 && (s.reg .dspLmap j).extractLsb' 0 10 == v.extractLsb' 0 10

/-- A write of entry k (64 × die + i) of the map by the firmware (R89). -/
def State.lmapWrite (s : State) (k : Nat) (v : DWord) : State :=
  let v := v &&& 0x8000033F
  let bad := v.getLsbD 31
    && (Config.coreAbsent (v.extractLsb' 8 2).toNat (v.extractLsb' 0 6).toNat || s.lmapTwice k v)
  if s.portsQuiet && s.cores.blocks.isEmpty && !bad then s.setReg .dspLmap k v else s

/-- DSP_LMAP_WRITE (R89). -/
def execDspLmapWrite (s : State) : Host.Outcome State Fault Refusal :=
  if s.inp.n < 4 ∧ s.inp.m < 64 then
    .next (s.guardedWrite s.inp.who .dspLmap (64 * s.inp.n + s.inp.m) fun s => s.lmapWrite (64 * s.inp.n + s.inp.m) s.inp.v)
  else .next s

end Sys2Proof.Machine
end

