-- ==== Sys2Proof/Machine/Pages.lean ====
section
/-! DEFINITION. The Yeleno commands on page tables: MAP, UNMAP, HARVEST and SHOOTDOWN (R82, R96 to R108, R121, R122). -/

namespace Sys2Proof.Machine
open Sys2Proof

/-! ### Leaves -/

/-- The homes whose trees map an address (R96, R100). -/
def homesOf (va : DWord) : List Nat :=
  let r := vaRgn va
  if r ≤ 3 then [r] else if r = 4 then [0, 1, 2, 3] else [4]

/-- A leaf as it stands in a tree: its home, the die and address that hold it, its page size, and the entry. -/
structure LeafAt where
  home : Nat
  die  : Nat
  addr : Nat
  size : Nat
  e    : DWord
  deriving DecidableEq, Repr

/-- The entry of a table. -/
def entryAt (m : Memory) (die a : Nat) : DWord := BitVec.ofNat 64 (m.num (spaceKey die a) 8)

/-- A valid pointer that is not malformed. -/
def isPointer (e : DWord) : Bool := e.getLsbD 63 && e.getLsbD 55 && !pointerBad e

/-- The valid leaf entry that an offset uses, malformed ones too: address, page size and entry. -/
def leafFrom (m : Memory) (offs die : Nat) : List (Nat × Nat × Bool × Bool × Nat) → Nat → Option (Nat × Nat × DWord)
  | [], _ => none
  | (lo, w, ptrOk, leafOk, size) :: rest, addr =>
    let a := addr + 8 * (offs / 2 ^ lo % 2 ^ w)
    let e := entryAt m die a
    if !e.getLsbD 63 then none
    else if ptrOk && isPointer e then leafFrom m offs die rest (leafFrame e)
    else if leafOk then some (a, size, e)
    else none

/-- The leaf of an address at one of its homes; there is none here of another package's address, so that HARVEST finds none dirty
there (DESIGN CHOICE, log entry 72). -/
def State.leafAt (s : State) (home : Nat) (va : DWord) : Option LeafAt :=
  let r := s.root home (vaRgn va)
  let die := (r.extractLsb' 48 2).toNat
  if !r.getLsbD 63 || !s.isOwn va then none
  else
    (leafFrom s.fab.mem (vaOffs va) die walkLevels ((r.extractLsb' 12 36).toNat * 4096)).map fun x =>
      { home := home, die := die, addr := x.1, size := x.2.1, e := x.2.2 }

/-- The leaves that 64 KiB steps from an aligned address use, each once. -/
def State.leavesIn (s : State) (va : DWord) (steps : Nat) : List LeafAt :=
  (List.range steps).flatMap fun i =>
    let p := va + BitVec.ofNat 64 (65536 * i)
    (homesOf p).filterMap fun h =>
      match s.leafAt h p with
      | some l => if i = 0 ∨ p.toNat % l.size = 0 then some l else none
      | none => none

/-- Sets a leaf invalid (R121). -/
def clearLeaf (m : Memory) (l : LeafAt) : Memory := m.setNum (spaceKey l.die l.addr) 8 (l.e &&& 0x7FFFFFFFFFFFFFFF).toNat

/-- The space, address and length of the frame an entry of a home names (R100); a spread frame is one range of space 6. -/
def frameOf (home : Nat) (e : DWord) (size : Nat) : Nat × Nat × Nat :=
  match leafPlace e with
  | 0 => (home, leafFrame e, size)
  | 1 => (6, leafFrame e, size / 4)
  | 2 => (4, leafFrame e, size)
  | _ => (5, leafFrame e, size)

/-- The frames that well-formed leaves free. -/
def framesOf (ls : List LeafAt) : List (Nat × Nat × Nat) :=
  ((ls.filter fun l => !leafBad l.e l.size && !l.e.getLsbD 55).map fun l => frameOf l.home l.e l.size).eraseDups

/-! ### The range of a command -/

/-- Accesses to a range that a home has translated and that are still under way (R108, R120). -/
def State.flightIn (s : State) (lo bytes : Nat) : List Nat :=
  (s.fab.reqs.filter fun r =>
    (match r.phase with | .cxl _ _ _ | .hosted _ => true | _ => false)
      && lo < (s.resolve r.line).toNat + 64 && (s.resolve r.line).toNat < lo + bytes).map fun r => r.id

/-- The first 64 KiB page of a command's range and the number of its steps. -/
def State.rangeOf (s : State) (va : DWord) (count : Nat) : DWord × Nat :=
  let va := s.resolve va
  (pageOf va, (va.toNat % 65536 + 65536 * count + 65535) / 65536)

/-- The size of the page an address lies in: its leaf's, or a step's 64 KiB; of another package's, whose leaves are not known here, the
larger size. -/
def State.leafSize (s : State) (va : DWord) : Nat :=
  if !s.isOwn va then 2 ^ 21
  else (homesOf va).foldl (fun n h => match s.leafAt h va with | some l => max n l.size | none => n) 65536

/-- The addresses of the leaves that some steps use, each leaf as a whole: the first and their number (R82). -/
def State.spanOf (s : State) (va : DWord) (steps : Nat) : DWord × Nat :=
  let n := s.leafSize va
  let last := va.toNat + 65536 * (steps - 1)
  let m := s.leafSize (BitVec.ofNat 64 last)
  let lo := va.toNat / n * n
  (BitVec.ofNat 64 lo, (last / m + 1) * m - lo)

/-! ### The siding (R121, R122) -/

/-- A frame overlaps a range of the siding. -/
def State.sided (s : State) (f : Nat × Nat × Nat) : Bool :=
  s.fab.siding.any fun x =>
    (x.1 == f.1 || (x.1 == 6 && f.1 < 4) || (f.1 == 6 && x.1 < 4)) && x.2.1 < f.2.1 + f.2.2 && f.2.1 < x.2.1 + x.2.2.1

/-- Frames enter the siding under a stamp. -/
def State.side (s : State) (fs : List (Nat × Nat × Nat)) (stamp : Nat) : State :=
  { s with fab := { s.fab with siding := s.fab.siding ++ fs.map fun f => (f.1, f.2.1, f.2.2, stamp) } }

/-! ### UNMAP (R121) -/

/-- UNMAP of a range: step 0 sets the leaves invalid and shoots them down; 1 waits for accesses translated before and
takes the stamp; 2 puts the frames into the siding, waiting while it is full. -/
def State.unmapStep (s : State) (c : Cmd) (va : DWord) (steps : Nat) : State :=
  match c.step with
  | 0 =>
    let ls := s.leavesIn va steps
    let r := s.spanOf va steps
    let waits := s.flightIn r.1.toNat r.2
    let s := s.shoot r.1 r.2
    let s : State := { s with fab := { s.fab with mem := ls.foldl clearLeaf s.fab.mem } }
    (s.modCmd c.id fun c => { c with step := 1, frames := framesOf ls, waits := waits }).wakeCmd c.id
  | 1 =>
    if c.waits.any fun id => !s.performed id then s
    else (s.modCmd c.id fun c => { c with step := 2, acc := s.fab.epoch }).wakeCmd c.id
  | _ =>
    let n := 4096 - s.fab.siding.length
    let s := s.side (c.frames.take n) c.acc
    if c.frames.length ≤ n then s.finishCmd c.id 0x00 0
    else s.modCmd c.id fun c => { c with frames := c.frames.drop n }

/-- A range of pages lies in this package; its trees are here (R96). -/
def State.ownRange (s : State) (va : DWord) (steps : Nat) : Bool :=
  s.isOwn va && s.isOwn (va + BitVec.ofNat 64 (65536 * (steps - 1)))

/-- UNMAP as a command meets it; pages of another package are out of range, as for MAP (DESIGN CHOICE, log entry 72). -/
def State.unmapFrom (s : State) (c : Cmd) (va : DWord) (steps : Nat) : State :=
  if c.step = 0 ∧ !s.ownRange va steps then s.finishCmd c.id 0x10 0 else s.unmapStep c va steps

/-- UNMAP (R121). -/
def execUnmapCmd (s : State) : Host.Outcome State Fault Refusal :=
  match s.running? s.inp.n 6 with
  | some c =>
    let va := BitVec.ofNat 64 (cmdNum c 8 8)
    let r := s.rangeOf va (cmdNum c 16 4)
    if vaLegal va then .next (s.unmapFrom c r.1 r.2) else .next (s.finishCmd c.id 0x10 0)
  | none => .next s

/-! ### MAP (R82, R104, R117, R122) -/

/-- Writes an entry and its companion word into a tree, from a table of a level down; a missing table is a cleared pair
of frames that the firmware chooses (log entry 19). -/
def State.putLeaf (s : State) (offs die : Nat) (big : Bool) (e w : DWord) :
    List (Nat × Nat × Bool × Bool × Nat) → Nat → State
  | [], _ => s
  | (lo, width, _, _, size) :: rest, addr =>
    let a := addr + 8 * (offs / 2 ^ lo % 2 ^ width)
    let put (m : Memory) (k : Nat) (x : DWord) : Memory := m.setNum (spaceKey die k) 8 x.toNat
    if size == 2 ^ 16 || (big && size == 2 ^ 21) then
      { s with fab := { s.fab with mem := put (put s.fab.mem a e) (a + 4096) w } }
    else
      let x := entryAt s.fab.mem die a
      if isPointer x then s.putLeaf offs die big e w rest (leafFrame x)
      else
        let t := Config.tableFrame s.free % (hbmBytes / 8192) * 8192
        let ptr : DWord := BitVec.ofNat 64 (2 ^ 63 + 2 ^ 55 + t)
        let m := put (s.fab.mem.setBytes (spaceKey die t) (List.replicate 8192 0)) a ptr
        State.putLeaf { s.draw with fab := { s.fab with mem := m } } offs die big e w rest t

/-- The page size an entry names (R82, R97). -/
def entrySize (e : DWord) : Nat := if e.getLsbD 60 then 2 ^ 21 else 2 ^ 16

/-- The entry of page i of a MAP (R82, R100). -/
def entryOf (e : DWord) (i : Nat) : DWord :=
  let frame := (leafFrame e + i * frameBytes e (entrySize e)) / 4096
  (e &&& 0xFFFF000000000FFF) ||| ((BitVec.ofNat 36 frame).setWidth 64 <<< 12)

/-- The root of every home of an address stands (R96). -/
def State.rooted (s : State) (va : DWord) : Bool := (homesOf va).all fun h => (s.root h (vaRgn va)).getLsbD 63

/-- One page is written at every home, and accesses that wait for it go on. -/
def State.mapPage (s : State) (va : DWord) (e w : DWord) : State :=
  let size := entrySize e
  let s := (homesOf va).foldl (fun (s : State) h =>
    let r := s.root h (vaRgn va)
    s.putLeaf (vaOffs va) (r.extractLsb' 48 2).toNat (e.getLsbD 60) e w walkLevels ((r.extractLsb' 12 36).toNat * 4096)) s
  if leafMig e then s else (homesOf va).foldl (fun (s : State) h => s.pagePresent h va size) s

/-- The pages of a MAP in turn: a page waits for its new frame to leave the siding (R122), and, where it replaces a
valid leaf, until no access translated under that is under way, and for room in the siding (R82, R104, R108, R121). -/
def State.mapLoop : Nat → State → Nat → State
  | 0, s, _ => s
  | fuel + 1, s, id =>
    match s.running? id 5 with
    | none => s
    | some c =>
      if cmdNum c 32 4 ≤ c.idx then (s.modCmd id fun c => { c with step := 3 }).wakeCmd id
      else
        let e := entryOf (BitVec.ofNat 64 (cmdNum c 16 8)) c.idx
        let size := entrySize e
        let va0 := s.resolve (BitVec.ofNat 64 (cmdNum c 8 8))
        let va := BitVec.ofNat 64 (va0.toNat / size * size + c.idx * size)
        let old := s.leavesIn va (size / 65536)
        let r := s.spanOf va (size / 65536)
        let flight := s.flightIn r.1.toNat r.2
        let frames := framesOf old
        if (homesOf va).any fun h => s.sided (frameOf h e size) then s
        else if !old.isEmpty ∧ !flight.isEmpty then
          (s.shoot r.1 r.2).modCmd id fun c => { c with step := 2, waits := flight }
        else if 4096 < s.fab.siding.length + frames.length then s
        else
          let s := s.shoot r.1 r.2
          let s : State := { s with fab := { s.fab with mem := old.foldl clearLeaf s.fab.mem } }
          let s := (s.side frames s.fab.epoch).mapPage va e (BitVec.ofNat 64 (cmdNum c 24 8))
          State.mapLoop fuel (s.modCmd id fun c => { c with step := 1, idx := c.idx + 1 }) id

/-- A park or a side log still waits for a page of a range to be released (R117). -/
def State.wakesIn (s : State) (lo bytes : Nat) : Bool :=
  s.fab.wakes.any fun w => s.isOwn w.page && w.page.toNat < lo + bytes && lo < w.page.toNat + w.size

/-- MAP: with V = 0 an UNMAP of the same pages; else step 0 checks, 1 and 2 write the pages, 3 waits for the releases. -/
def State.mapStep (s : State) (c : Cmd) : State :=
  let va := s.resolve (BitVec.ofNat 64 (cmdNum c 8 8))
  let e := BitVec.ofNat 64 (cmdNum c 16 8)
  let size := entrySize e
  let base := BitVec.ofNat 64 (va.toNat / size * size)
  let bytes := cmdNum c 32 4 * size
  let last := base + BitVec.ofNat 64 (bytes - size)
  if !vaLegal va || !s.isOwn va || !vaLegal last || !s.isOwn last then s.finishCmd c.id 0x10 0
  else if !e.getLsbD 63 then s.unmapFrom c base (bytes / 65536)
  else
    match c.step with
    | 0 =>
      if s.rooted base && s.rooted last then (s.modCmd c.id fun c => { c with step := 1 }).wakeCmd c.id
      else s.finishCmd c.id 0x10 0
    | 3 => if s.wakesIn base.toNat bytes then s else s.finishCmd c.id 0x00 0
    | _ => s.mapLoop (cmdNum c 32 4 + 1) c.id

/-- MAP (R82). -/
def execMapCmd (s : State) : Host.Outcome State Fault Refusal :=
  match s.running? s.inp.n 5 with
  | some c => .next (s.mapStep c)
  | none => .next s

/-! ### HARVEST (R107) -/

/-- Some copy of a page's leaf is dirty (R102). -/
def State.dirtyAt (s : State) (va : DWord) : Bool :=
  (homesOf va).any fun h =>
    match s.leafAt h va with
    | some l => (entryAt s.fab.mem l.die (l.addr + 4096)).getLsbD 56
    | none => false

/-- The step is the first of its leaf in the range. -/
def State.leafFirst (s : State) (va : DWord) (i : Nat) : Bool :=
  i == 0 || (homesOf va).any fun h => match s.leafAt h va with | some l => va.toNat % l.size == 0 | none => false

/-- HARVEST: the gathered bits are written back, then the dirty leaves are counted. -/
def State.harvest (s : State) (c : Cmd) (va : DWord) (steps : Nat) : State :=
  let s := s.flushTlb false (tlbIn va.toNat (65536 * steps))
  let n := ((List.range steps).filter fun i =>
    let p := va + BitVec.ofNat 64 (65536 * i)
    s.leafFirst p i && s.dirtyAt p).length
  s.finishCmd c.id 0x00 (BitVec.ofNat 64 n)

/-- HARVEST (R107). -/
def execHarvest (s : State) : Host.Outcome State Fault Refusal :=
  match s.running? s.inp.n 7 with
  | some c =>
    let va := BitVec.ofNat 64 (cmdNum c 8 8)
    let r := s.rangeOf va (cmdNum c 16 4)
    if vaLegal va then .next (s.harvest c r.1 r.2) else .next (s.finishCmd c.id 0x10 0)
  | none => .next s

/-! ### SHOOTDOWN (R108) -/

/-- SHOOTDOWN: step 0 invalidates, across the pod where asked; then every acknowledgement (`acc` counts those
outstanding) and every access translated before is waited for. -/
def State.shootStep (s : State) (c : Cmd) (va : DWord) (steps : Nat) : State :=
  if c.step = 0 then
    let r := s.spanOf va steps
    let waits := s.flightIn r.1.toNat r.2
    let others := if cmdNum c 20 1 = 1 then s.otherPkgs else []
    let s := others.foldl (fun (s : State) q => s.mgmtTo q (.inval c.id r.1 (r.2 / 65536))) (s.shoot r.1 r.2)
    (s.modCmd c.id fun c => { c with step := 1, waits := waits, acc := others.length }).wakeCmd c.id
  else if c.acc ≠ 0 ∨ c.waits.any fun id => !s.performed id then s
  else s.finishCmd c.id 0x00 0

/-- SHOOTDOWN (R108). -/
def execShootdown (s : State) : Host.Outcome State Fault Refusal :=
  match s.running? s.inp.n 8 with
  | some c =>
    let va := BitVec.ofNat 64 (cmdNum c 8 8)
    let r := s.rangeOf va (cmdNum c 16 4)
    if vaLegal va then .next (s.shootStep c r.1 r.2) else .next (s.finishCmd c.id 0x10 0)
  | none => .next s

end Sys2Proof.Machine
end

