-- ==== Sys2Proof/Machine/Attest.lean ====
section
/-! DEFINITION. The SPDM responder and the ATTEST command (R65, R82). The messages' layouts are DMTF's (DSP0274 1.2), which
the spec names and does not give (log entry 30); what a message holds beyond R65 is a free value. -/

namespace Sys2Proof.Machine
open Sys2Proof

/-- n free bytes of a response, from an index up. -/
def State.spdmFree (s : State) (lo n : Nat) : List Byte := (List.range n).map fun i => Config.spdmByte s.free (lo + i)

/-- A response to q signed with the alias key (R65): the signature covers bytes that DMTF makes of the messages exchanged, this
request and the response's own bytes among them. -/
def State.spdmSigned (s : State) (q resp : List Byte) : List Byte :=
  resp ++ edSign s.fw.aliasKey (Config.spdmSigned (s.fw.spdm ++ q ++ resp))

/-- The certificate chain of slot 0 (R65): the identity certificate from boot flash, and the alias certificate. -/
def State.certChain (s : State) : List Byte :=
  s.fab.mem.bytes (spaceKey flashSpace Config.identityAt) Config.identityLen ++ s.fw.aliasCert

/-- An ERROR response (R65). -/
def spdmError (code : Byte) : List Byte := [0x12, 0x7F, code, 0]

/-- Error codes: InvalidRequest, UnsupportedRequest, VersionMismatch. -/
def spdmInvalid : Byte := 0x01
def spdmUnsupported : Byte := 0x07
def spdmVersion : Byte := 0x41

/-- CERT_CAP, CHAL_CAP and MEAS_CAP with signature. -/
def spdmCaps : Nat := 0x16
/-- Ed25519 and SHA-512 as the algorithm fields name them. -/
def spdmEd25519 : Nat := 0x400
def spdmSha512 : Nat := 0x4

/-- The block of measurement index i: a raw digest of 64 bytes (R65). -/
def State.spdmBlock (s : State) (i : Nat) : List Byte :=
  [BitVec.ofNat 8 i, 1] ++ bytesLE 2 67 ++ s.spdmFree 0 1 ++ bytesLE 2 64 ++ measBytes (FMap.get 0 s.fw.meas (i - 1))

/-- MEASUREMENTS with some blocks, in answer to q. -/
def State.spdmMeasurements (s : State) (q : List Byte) (signed : Bool) (count : Nat) (ids : List Nat) : List Byte :=
  let rec_ := ids.flatMap s.spdmBlock
  let resp := [0x12, 0x60, BitVec.ofNat 8 count, 0, BitVec.ofNat 8 ids.length] ++ bytesLE 3 rec_.length ++ rec_
    ++ s.spdmFree 100 32 ++ bytesLE 2 0
  if signed then s.spdmSigned q resp else resp

/-- CERTIFICATE: a piece of the chain of slot 0. -/
def State.spdmCertificate (s : State) (off len : Nat) : List Byte :=
  if s.certChain.length ≤ off then spdmError spdmInvalid
  else
    let part := (s.certChain.drop off).take len
    [0x12, 0x02, 0, 0] ++ bytesLE 2 part.length ++ bytesLE 2 (s.certChain.length - off - part.length) ++ part

/-- The response to a request (R65). -/
def State.spdmAnswer (s : State) (q : List Byte) : List Byte :=
  let b (i : Nat) : Nat := (q.getD i 0).toNat
  let num (lo n : Nat) : Nat := natOfBytes ((q.drop lo).take n)
  match b 1 with
  | 0x84 => [0x10, 0x04, 0, 0, 0, 1, 0x00, 0x12]
  | code =>
    if code ≠ 0xE1 ∧ code ≠ 0xE3 ∧ code ≠ 0x81 ∧ code ≠ 0x82 ∧ code ≠ 0x83 ∧ code ≠ 0xE0 then spdmError spdmUnsupported
    else if b 0 ≠ 0x12 then spdmError spdmVersion
    else
      match code with
      | 0xE1 => [0x12, 0x61, 0, 0] ++ s.spdmFree 0 4 ++ bytesLE 4 spdmCaps ++ s.spdmFree 4 8
      | 0xE3 =>
        if num 8 4 &&& spdmEd25519 = 0 ∨ num 12 4 &&& spdmSha512 = 0 then spdmError spdmInvalid
        else [0x12, 0x63, 0, 0] ++ bytesLE 2 36 ++ [1, 0] ++ bytesLE 4 8 ++ bytesLE 4 spdmEd25519 ++ bytesLE 4 spdmSha512
          ++ List.replicate 16 0
      | 0x81 => [0x12, 0x01, 0, 1] ++ sha512 s.certChain
      | 0x82 => if b 2 = 0 then s.spdmCertificate (num 4 2) (num 6 2) else spdmError spdmInvalid
      | 0x83 =>
        if b 2 = 0 then s.spdmSigned q
          ([0x12, 0x03, 0, 1] ++ sha512 s.certChain ++ s.spdmFree 0 (32 + (if b 3 = 0 then 0 else 64)) ++ bytesLE 2 0)
        else spdmError spdmInvalid
      | _ =>
        let signed := b 2 % 2 == 1
        if b 3 = 0 then s.spdmMeasurements q signed 8 []
        else if b 3 = 0xFF then s.spdmMeasurements q signed 0 ((List.range 8).map (· + 1))
        else if b 3 ≤ 8 then s.spdmMeasurements q signed 0 [b 3]
        else spdmError spdmInvalid

/-- A request and its response join the messages exchanged; GET_VERSION begins them anew. -/
def State.spdmLog (s : State) (q resp : List Byte) : State :=
  { s with fw := { s.fw with spdm := (if q.getD 1 0 = 0x84 then [] else s.fw.spdm) ++ q ++ resp } }

/-- ATTEST: step 0 reads the request, 1 has the control core answer it, 2 writes the response. While the firmware does not
run, nothing answers. -/
def State.attestStep (s : State) (c : Cmd) : State :=
  match c.step with
  | 0 =>
    if cmdNum c 16 4 ≤ c.data.length then (s.modCmd c.id fun c => { c with step := 1 }).wakeCmd c.id
    else
      let (s, a) := s.cmdLoad c (BitVec.ofNat 64 (cmdNum c 8 8 + c.data.length)) (cmdNum c 16 4 - c.data.length)
      match a with
      | .wait => s
      | .fail _ _ => s.finishCmd c.id 0x10 0
      | .ok bs => (s.modCmd c.id fun c => { c with data := c.data ++ bs }).wakeCmd c.id
  | 1 =>
    if s.fw.boot != .firmware || s.fw.down then s
    else
      let bs := s.spdmAnswer c.data
      let s := s.spdmLog c.data bs
      if cmdNum c 32 4 < bs.length then s.finishCmd c.id 0x10 0
      else (s.draw.modCmd c.id fun c => { c with step := 2, data := bs }).wakeCmd c.id
  | _ =>
    if c.data.length ≤ c.idx then
      s.finishCmd c.id (if c.data.getD 1 0 = 0x7F then 0x16 else 0x00) (BitVec.ofNat 64 c.data.length)
    else
      let (s, a) := s.cmdStore c (BitVec.ofNat 64 (cmdNum c 24 8 + c.idx)) (c.data.drop c.idx)
      match a with
      | .wait => s
      | .fail _ _ => s.finishCmd c.id 0x10 0
      | .ok bs => (s.modCmd c.id fun c => { c with idx := c.idx + bs.length }).wakeCmd c.id

/-- ATTEST (R65). -/
def execAttest (s : State) : Host.Outcome State Fault Refusal :=
  match s.running? s.inp.n 13 with
  | some c => .next (s.attestStep c)
  | none => .next s

end Sys2Proof.Machine
end

