-- ==== Sys2Proof/Machine/HostPort.lean ====
section
/-! DEFINITION. Register reads and writes as any party makes them (R7, R8, R66 to R69), and the host's messages (R17, R18,
R295). -/

namespace Sys2Proof.Machine
open Sys2Proof

/-! ### Reads (R7) -/

/-- A field at its place. -/
def fieldAt (lo x : Nat) : DWord := BitVec.ofNat 64 (x * 2 ^ lo)

/-- QUE_CTL as it reads (R75). -/
def State.queCtlRead (s : State) (n : Nat) : DWord :=
  let p := s.lport n
  let st : Nat := match p.state with | .unbound => 0 | .idle => 1 | .running => 2 | .paused => 3 | .faulted => 4
  fieldAt 29 st ||| fieldAt 28 (portNum p) ||| fieldAt 24 p.part.toNat ||| fieldAt 22 p.primax.toNat ||| fieldAt 16 p.sz.toNat
    ||| fieldAt 0 p.vec.toNat

/-- UCI_PSTAT as it reads (R71). -/
def State.uciPstat (s : State) (i : Nat) : DWord :=
  match s.lnk.ucie[i]? with
  | some p =>
    fieldAt 31 p.down.toNat ||| fieldAt 28 (match p.ltsm with | 0 => 0 | 1 => p.stage | _ => 5)
      ||| fieldAt 26 p.mods.toNat
  | none => 0

/-- The number of a Coupler port's state (R73). -/
def cplrCode : CplrState → Nat
  | .disabled => 0
  | .detect => 1
  | .poll => 2
  | .align => 3
  | .equal => 4
  | .config => 5
  | .active => 6
  | .retrain => 7

/-- The bits of CPLR_PSTAT that follow the port (R73). -/
def State.cplrPstat (s : State) (k : Nat) : DWord :=
  let p := s.cplr k
  fieldAt 28 (cplrCode p.state) ||| fieldAt 26 p.width ||| fieldAt 16 (p.num.getD 0)

/-- CLK_GTSTAT (R47). -/
def State.gtstat (s : State) : DWord :=
  fieldAt 31 s.clk.sync.toNat ||| fieldAt 30 s.clk.master.toNat ||| fieldAt 16 s.clk.mpkg
    ||| (BitVec.ofInt 8 s.clk.offs).setWidth 64

/-- What a watchdog counts down from now (R60). -/
def State.wdogRead (s : State) (n : Nat) : DWord := BitVec.ofNat 64 (FMap.get 0 s.fw.wdog n - s.clk.ref)

/-- Replaces the bits of a mask. -/
def overlay (old mask new_ : DWord) : DWord := (old &&& ~~~mask) ||| (new_ &&& mask)

/-- The value of a register: what is stored, with every field the machine computes; a WO register reads zero. FWC_MEXT, which R64
gives no access code, reads back what was written (DESIGN CHOICE, log entry 117). -/
def State.regRead (s : State) (r : RegName) (i : Nat) : DWord :=
  let x := s.reg r i
  if regCount r ≤ i then 0
  else
    match r with
    | .pwrCstat => overlay x 2 (fieldAt 1 (s.clusterIdle i).toNat)
    | .cxaCad => overlay x 0x1F0000 (fieldAt 16 (s.effCadence i))
    | .pwrRstat => overlay x 1 (fieldAt 0 (s.vsrGood i).toNat)
    | .clkGtctl => fieldAt 0 s.clk.run.toNat
    | .clkGtstat => s.gtstat
    | .clkVfmin => (Config.vfMin (i / 64) (i % 64)).setWidth 64
    | .pwrTable => s.rowRead i
    | .uciPstat => s.uciPstat i
    | .cplrPstat => x ||| s.cplrPstat i
    | .fwcWdog => s.wdogRead i
    | .fwcMeas => BitVec.ofNat 64 ((FMap.get 0 s.fw.meas (i / 8)).toNat / 2 ^ (64 * (i % 8)))
    | .fwcMext => BitVec.ofNat 64 (s.fw.mext.toNat / 2 ^ (64 * i))
    | .fwcBgo | .fwcMextgo | .fwcSemrel | .queGo => 0
    | .queCtl => s.queCtlRead i
    | .queHead => (s.lport i).head.setWidth 64
    | .queBase => (s.lport i).base
    | .queCbase => (s.lport i).cbase
    | .xltSlstat => x ||| fieldAt 0 (s.sideOf i).length
    | .xltStat => x ||| fieldAt 0 (min 4096 (s.parkedAt i).length)
    | .xltEpoch => BitVec.ofNat 64 s.fab.epoch
    | .xltQcnt => match s.qcnt with | some q => BitVec.ofNat 64 q | none => Config.freeDWord s.free
    | .dspSpsize => x ||| fieldAt 20 (s.cores.saved.length % 4096)
    | .evcCnt => FMap.get 0 s.dbg.evc i
    | .dbgLca | .dbgLcd | .dbgLcp | .dbgLcx | .dbgLcidle => match laneKey r i with | some k => FMap.get 0 s.dbg.lanes k | none => 0
    | _ => x

/-! ### Writes (R7, R8) -/

/-- A write of a semaphore register: BROKEN is cleared by 1, ACQ asks for it (R66). -/
def State.semWrite (s : State) (p : Party) (n : Nat) (v : DWord) : State :=
  let s := s.plainWrite .fwcSem n (v &&& 8)
  if v.getLsbD 2 then s.acquire n [p] else s

/-- A write of the save pool's registers (R179, R96). -/
def State.poolWrite (s : State) (r : RegName) (v : DWord) : State :=
  if !s.portsQuiet then s
  else if r == .dspSpbase then s.setReg r 0 (v &&& 0xFFFFFFFFFFFF0000)
  else s.setReg r 0 (v &&& 0xFFFFF)

/-- A write of UCI_PCTL (R72). -/
def State.uciWrite (s : State) (port : Nat) (v : DWord) : State := if v.getLsbD 0 then s.ucieTrain port else s.ucieDisable port

/-- A write of CPLR_PCTL (R23, R73). -/
def State.cplrWrite (s : State) (k : Nat) (v : DWord) : State :=
  let s := s.cplrLoop k (v.getLsbD 1)
  if v.getLsbD 0 then s.cplrEnable k else s.cplrDisable k

/-- The effect of a write that its guards let through. -/
def State.regEffect (s : State) (p : Party) (r : RegName) (i : Nat) (v : DWord) : State :=
  match r with
  | .pwrVcl => s.vclWrite i v
  | .pwrVtail => s.vtailWrite i v
  | .clkClf => s.clfWrite i v
  | .pwrCstat => s.cstatWrite i v
  | .cxaCad => s.cadWrite i v
  | .pwrPlim => s.plimWrite i v
  | .pwrTable => s.rowWrite i v
  | .clkGtctl => s.gtctlWrite v
  | .hbmTctl => s.hbmWrite i v
  | .uciPctl => s.uciWrite i v
  | .cplrPctl => s.cplrWrite i v
  | .cplrVlthr => s.vlthrWrite i v
  | .fwcBgo => s.bgoWrite v
  | .fwcWdog => s.wdogWrite i v
  | .fwcMext => s.mextWrite i v
  | .fwcMextgo => s.extend v.toNat (measBytes s.fw.mext)
  | .fwcSem => s.semWrite p i v
  | .fwcSemrel => s.release p v
  | .queCtl => s.queCtlWrite i v
  | .queBase => s.queBaseWrite i false v
  | .queCbase => s.queBaseWrite i true v
  | .queGo => s.queGo i v
  | .dspLmap => s.lmapWrite i v
  | .xltRootl | .xltRoots | .xltRoot5 | .xltRoot6 => s.rootWrite r i v
  | .xltHring => s.hringWrite v
  | .xltHhead => s.hheadWrite v
  | .fwcElog => s.elogWrite v
  | .dspSpbase | .dspSpsize => s.poolWrite r v
  | .evcSel => s.selWrite i v
  | .dbgLclo | .dbgLchi => s.rangeWrite r (i / 32) (i % 32) v
  | .fidInj => s.injWrite i v
  | .dbgWpa | .dbgWpm | .dbgWctl | .dbgWpv | .dbgWpvm => s.watchWrite r i v
  | .dbgStopc => s.stopWrite v
  | .dbgStopt => s.setTarget v
  | _ => s.plainWrite r i v

/-- Lane-cycle ranges are numbered 0 to 15; the other numbers of the register store are no register. -/
def regThere (r : RegName) (i : Nat) : Bool := !((r == .dbgLclo || r == .dbgLchi) && 16 ≤ i % 32)

/-- A write by a party: a register it may not write keeps its value (R68). -/
def State.regWrite (s : State) (p : Party) (r : RegName) (i : Nat) (v : DWord) : State :=
  if regThere r i then s.guardedWrite p r i fun s => s.regEffect p r i v else s

/-- REGISTER_WRITE (R7). -/
def execRegisterWrite (s : State) : Host.Outcome State Fault Refusal := .next (s.regWrite s.inp.who s.inp.reg s.inp.n s.inp.v)

/-! ### Messages of the host (R17, R18, R295) -/

/-- A WR of memory of this port is under way. -/
def State.hostBusy (s : State) (port : Nat) : Bool :=
  s.fab.reqs.any fun r => match r.who with | .unit 4 arg => arg / 4096 == port | _ => false

/-- A WR or WAKE stands behind the memory writes of its port (R295). -/
def State.hostBehind (s : State) (port : Nat) (i : Instr) : State :=
  s.modUcie port fun p => { p with later := p.later ++ [(i, s.inp)] }

/-- Sends an access of a host message, line by line, each with the message's ADDR; `purpose` 3 reads and 4 writes. -/
def State.hostAccess (s : State) (port tag purpose : Nat) (va : DWord) (bs : List Byte) : State :=
  let kind : AccKind := if purpose = 3 then .load else .store
  (lineChunks va bs bs.length).foldl (fun (s : State) c =>
    let (s, id) := s.unitSend purpose (port * 4096 + tag) (hostSrc port) kind c.1 c.2 [] none
    s.modReq id fun r => { r with addr := va }) s

/-- The address of a register, as its completion echoes it (R37). -/
def regAddr (r : RegName) (i : Nat) : DWord := (Config.regOffset (regCode r) i).setWidth 64

/-- HOST_RD (R17): k slots of 16 bytes. A register answers at once, its RC fields cleared by the same read (R7). -/
def execHostRd (s : State) : Host.Outcome State Fault Refusal :=
  let port := s.inp.n
  let tag := s.inp.m % 4096
  if !s.portUp port then .next s
  else
    match s.inp.msg with
    | .target (.reg r i) =>
      let v := s.regRead r i
      .next ((if i < regCount r then s.clearRead r i else s).toHost port opcRsp tag 0 (regAddr r i) (bytesLE 16 v.toNat))
    | .target (.mem va) =>
      if !vaLegal va then .next (s.toHost port opcErr tag statXlt va [])
      else if s.inp.k = 0 then .next (s.toHost port opcRsp tag 0 va [])
      else .next (s.hostAccess port tag 3 va (List.replicate (16 * s.inp.k) 0))
    | _ => .next s

/-- The host writes an image into control SRAM while the ROM waits for it: the low 22 bits of the address (R61, log
entry 29). -/
def State.sramWrite (s : State) (va : DWord) (bs : List Byte) : State :=
  { s with fab := { s.fab with mem := s.fab.mem.setBytes (spaceKey ctlSpace (va.toNat % 2 ^ 22)) bs } }

/-- HOST_WR (R17). -/
def execHostWr (s : State) : Host.Outcome State Fault Refusal :=
  let port := s.inp.n
  let tag := s.inp.m % 4096
  if !s.portUp port then .next s
  else if s.hostBusy port then .next (s.hostBehind port .hostWr)
  else
    match s.inp.msg with
    | .target (.reg r i) =>
      let v := BitVec.ofNat 64 (natOfBytes (s.inp.bytes.take 8))
      .next ((s.regWrite (portParty port) r i v).toHost port opcAck tag 0 (regAddr r i) [])
    | .target (.mem va) =>
      if s.fw.boot = .hostWait then .next ((s.sramWrite va s.inp.bytes).toHost port opcAck tag 0 va [])
      else if !vaLegal va then .next (s.toHost port opcErr tag statXlt va [])
      else if s.inp.bytes = [] then .next (s.toHost port opcAck tag 0 va [])
      else .next (s.hostAccess port tag 4 va s.inp.bytes)
    | _ => .next s

/-- HOST_WAKE (R18, R77). -/
def execHostWake (s : State) : Host.Outcome State Fault Refusal :=
  let port := s.inp.n
  let q := s.inp.m
  if !s.portUp port ∨ 32 ≤ q then .next s
  else if s.hostBusy port then .next (s.hostBehind port .hostWake)
  else
    let tail := s.inp.v.setWidth 32
    let s := s.modLport q fun p => if port = 0 then { p with wakeA := tail } else { p with wakeB := tail }
    .next (if portNum (s.lport q) = port then s.wantRead q else s)

end Sys2Proof.Machine
end

