-- ==== Sys2Proof/Machine/Launch.lean ====
section
/-! DEFINITION. Launches from a group: LAUNCH, LWAIT and LCANCEL (R474 to R477). -/

namespace Sys2Proof.Machine
open Sys2Proof

/-- The VA in an even `s` pair. -/
def vaOf (c : Cur) (r : BitVec 8) : DWord := pairVal c r 0

/-- MISALIGN of a VA, with ADDR that VA. -/
def vaAlign (c : Cur) (o : Op) (n : Nat) : List FaultInfo :=
  if (vaOf c o.a).toNat % n ≠ 0 then [{ code := codeMisalign, lanes := guardedIn c o, addr := vaOf c o.a }] else []

/-- LAUNCH (R474): a release, then the request to the package relay, and the group parks. -/
def execLaunch (o : Op) (s : State) : Host.Outcome State Fault Refusal :=
  issueWhole 0x280 o s (fun c => vaAlign c o 128) fun c s =>
    afterRelease c (fun s =>
      let id := s.lau.nextReq
      let job := recJob c.blk.lrec
      let r : LaunchReq := {
        id := id, issuer := .group c.run.blk c.run.gid, va := vaOf c o.a, job := job, primax := recPrio c.blk.lrec
        dies := s.jobDies job }
      let s := s.modLau fun l => { l with reqs := l.reqs ++ [r], nextReq := id + 1 }
      (parkAt c o (.launch id) s).post .launchRequest { n := id }) s

/-- LWAIT reads once (R476). -/
def lwaitPolls (o : Op) : Bool := o.mod.getLsbD 0

/-- LWAIT's read of a counter word at its home (R476). -/
def lwaitReq (s : State) (c : Cur) (o : Op) : Req :=
  let va := s.resolve (vaOf c o.a)
  { id := 0, kind := .load, core := c.blk.core, who := .watch c.run.blk c.run.gid, line := lineOf va
    parts := [{ lane := 0, va := va, size := 8 }], deps := s.acqDeps c.run.blk c.run.gid
    srcid := groupSrc c.blk c.grp, pc := c.path.pc }

/-- LWAIT (R476): the group parks in it while its word is read. -/
def execLwait (o : Op) (s : State) : Host.Outcome State Fault Refusal :=
  issueWhole 0x281 o s (fun c => vaAlign c o 64) fun c s =>
    if !vaLegal (vaOf c o.a) then (parkAt c o (.lwait 0 s.clk.ref) s).waitFault c codeAddress 0 0 (vaOf c o.a)
    else
      let (s, id) := (s.beforeLine c (lineOf (s.resolve (vaOf c o.a)))).send (lwaitReq s c o)
      parkAt c o (.lwait id s.clk.ref) s

/-- A parked LWAIT is examined again: an answer is taken, or a fresh read leaves (R441, R476). -/
def State.recheckLwait (s : State) (c : Cur) (k : Park) (req : Nat) : State :=
  let o := k.op
  let uid := c.run.blk
  let gid := c.run.gid
  if req = 0 then
    let (s, id) := s.send (lwaitReq s c o)
    s.setCond uid gid (.lwait id s.clk.ref)
  else
    match s.got? req with
    | none => s
    | some r =>
      let s := s.dropGot req
      match r.phase with
      | .failed stat cause =>
        s.waitFault c (codeOfStat stat) (s.statOf r stat cause) (if stat = statXlt then cause else 0) (vaOf c o.a)
      | _ =>
        let x := (r.vals.getD 0 0).toNat
        let done := 2 ^ 63 ≤ x
        if done ∨ lwaitPolls o then
          (s.modGroup uid gid fun g => setUniN g true (o.d.toNat - 0xA0) x).endWait uid gid (if done then 5 else 0)
        else s.setCond uid gid (.lwait 0 s.clk.ref)

/-- MEMORY_WAIT_RECHECK (R441). -/
def execMemoryWaitRecheck (s : State) : Host.Outcome State Fault Refusal :=
  match s.group? s.inp.n s.inp.m with
  | some g =>
    match g.park with
    | some k =>
      match s.curOf s.inp.n s.inp.m k.slotB with
      | some c =>
        match k.cond with
        | .word req _ => .next (s.recheckWord c k req)
        | .lwait req _ => .next (s.recheckLwait c k req)
        | _ => .next s
      | none => .next s
    | none => .next s
  | none => .next s

/-- What LCANCEL names: kind 0 the record's address, with PKG resolved; else an identifier (R477). -/
def lcancelIdent (s : State) (c : Cur) (o : Op) : Nat :=
  if o.mod = 0 then (s.resolve (vaOf c o.a)).toNat else (laneVal c o.a 0).toNat

/-- A cancel of LCANCEL: it runs on until every launch it names has ended (R150). -/
def State.lcancel (s : State) (kind ident job : Nat) : State :=
  let runs := s.cancelRuns kind ident (some job)
  let (s, asked) := (s.cancelBy kind ident (some job)).askCancel kind ident (some job)
  s.modLau fun l => { l with lcancels := l.lcancels ++ [(kind, ident, job, runs ++ asked)] }

/-- LCANCEL (R477): within the issuing job, and the group continues at once. -/
def execLcancel (o : Op) (s : State) : Host.Outcome State Fault Refusal :=
  issueWhole 0x282 o s (fun _ => []) fun c s => finish c o (s.lcancel o.mod.toNat (lcancelIdent s c o) (recJob c.blk.lrec))

end Sys2Proof.Machine
end

