-- ==== Sys2Proof/Machine/Auto.lean ====
section
/-! DEFINITION. The choice of the next turns when none is waiting (log entry 2): a tenth of a REFTICK passes, and every
part of the machine that has something to do gets one turn. The spec fixes no order among them. -/

namespace Sys2Proof.Machine
open Sys2Proof

/-- A turn when a condition holds. -/
def turnIf (b : Bool) (i : Instr) (x : Input) : List Turn := if b then [.event i x] else []

/-! ### Cores (R160 to R171) -/

/-- The cycles of a cluster's clock in the present REFTICK: FMUL × 50 MHz against 100 MHz (R43). -/
def State.cycles (s : State) (cl : Nat) : Nat :=
  let f := s.field .clkClf cl 0 6
  (s.clk.ref + 1) * f / 2 - s.clk.ref * f / 2

/-- A run's next instruction is a MILE, an acquire, and an acquire or release of its group is still under way: it waits at issue
(R281, R283, R297; log entry 110). -/
def State.mileWaits (s : State) (r : Run) : Bool :=
  !s.memClear r.blk r.gid && match s.curOf r.blk r.gid r.slotB with
    | none => false
    | some c =>
      match c.path.loop with
      | some lb => match loopInstr lb with | some (.mile _) => true | _ => false
      | none =>
        match s.fetchInstr c c.path.pc with
        | .words ws => match decodeWords ws with | .ok (.mile _, _) => true | _ => false
        | _ => false

/-- Partitions with a run execute an instruction while their clock has a cycle for it in this REFTICK; one that waits at
issue tries again in each REFTICK. -/
def State.issueTurns (s : State) : List Turn :=
  (s.cores.runs.filter fun r => !s.isGated (clusterOf r.core) && (r.stall.isNone || r.tried < s.clk.ref) && !s.mileWaits r
    && FMap.get 0 s.dbg.slots (4 * r.core + r.part) < s.cycles (clusterOf r.core)).map fun r => .issue r.core r.part

/-- Free issue slots with a ready group. -/
def State.grantTurns (s : State) : List Turn :=
  ((s.cores.blocks.map fun b => b.core).eraseDups).flatMap fun core =>
    (List.range 4).flatMap fun p =>
      turnIf (!(s.cores.runs.any fun r => r.core == core && r.part == p) && !(s.bidders core p).isEmpty) .runGrant { n := core, m := p }

/-- What a group waits for, its returned results, its due mark and its page-fault time-out. -/
def State.groupTurns (s : State) (b : Block) (g : Group) : List Turn :=
  (g.ops.filter fun o => o.left == 0 && o.dest != .none).map (fun o => Turn.event .longResultReturn { n := b.uid, m := g.gid, k := o.id })
    ++ turnIf (!g.due && g.lastRef + 1024 ≤ s.clk.ref && (s.readyGroup b g).isSome) .groupDue { n := b.uid, m := g.gid }
    ++ (match g.park with
      | some k =>
        match k.cond with
        | .word _ _ | .lwait _ _ => turnIf (s.clk.sub == 0) .memoryWaitRecheck { n := b.uid, m := g.gid }
        | .sleep t => turnIf (t ≤ s.clk.ref) .sleepExpiry { n := b.uid, m := g.gid }
        | .launch _ => [.event .launchStatusReturn { n := b.uid, m := g.gid }]
        | _ => []
      | none => [])

/-- A run whose instruction has waited for a full side log for as long as a park may last (R116). -/
def State.fullTurns (s : State) : List Turn :=
  s.cores.runs.flatMap fun r =>
    match r.stall with
    | some t => turnIf (r.full.isSome && s.pftoOver r.core t) .sideLogFullTimeout { n := r.blk, m := r.gid }
    | none => []

/-- A block that ends or leaves. -/
def blockTurns (b : Block) : List Turn :=
  turnIf (b.groups.all fun g => g.exited) .blockRetire { n := b.uid }
    ++ (match b.stop with
      | some .fault => [.event .faultBlockEnd { n := b.uid }]
      | some .cancel => [.event .cancelledBlockRemove { n := b.uid }]
      | some .save | some .flush => [.event .preemptionStopComplete { n := b.uid }]
      | _ => [])

/-- All turns of cores. -/
def State.coreTurns (s : State) : List Turn :=
  s.issueTurns ++ s.grantTurns ++ s.fullTurns
    ++ s.cores.blocks.flatMap (fun b => blockTurns b ++ b.groups.flatMap (s.groupTurns b))
    ++ s.th.moves.map (fun m => Turn.event .migrationTransfer { n := m.1 })
    ++ if s.clk.sub = 0 then s.cores.saved.filterMap fun v => v.waits.map fun w => Turn.event .placementAttempt { n := w.1 } else []

/-! ### The fabric -/

/-- What befalls a request next. -/
def State.reqTurns (s : State) (r : Req) : List Turn :=
  match r.phase with
  | .depot => turnIf (128 ≤ (s.clk.ref - r.sent) * s.field .clkClf (clusterOf r.core) 0 6) .depotSend { n := r.core, m := r.line.toNat }
  | .flying =>
    turnIf (s.mayCome r || s.mayLeave r) .homeAccess { n := r.id } ++ turnIf (match r.came with | some c => s.pftoOver r.core c.1 | none => false) .parkTimeout { n := r.id }
  | .parked t => turnIf (s.pftoOver r.core t) .parkTimeout { n := r.id }
  | .deferred => [.event .deferReceive { n := r.id }]
  | .cxl due _ _ =>
    if due ≠ 0 ∧ due ≤ s.clk.ref ∧ !s.standsStill r.core then [.event .cxlRequestTimeout { n := r.id }] else []
  | .away | .hosted _ => []
  | .answered => [.event (if returnsData r then .accessRsp else .accessAck) { n := r.id }]
  | .failed _ _ => [.event .accessErr { n := r.id }]

/-- Replays, markers, promotes, time-outs of side logs and of other packages, the siding. -/
def State.fabricTurns (s : State) : List Turn :=
  s.fab.reqs.flatMap s.reqTurns
    ++ s.fab.wakes.flatMap (fun w =>
      w.cores.map (fun c => Turn.event .sideLogReplay { n := c, m := w.home, k := w.page.toNat })
        ++ (w.marks.filter fun m => m.1 < 256).map fun m => Turn.event .replayDoneMarker { n := m.1, m := w.home, k := w.page.toNat })
    ++ s.fab.proms.map (fun p =>
      match p.waits with
      | none => Turn.event .promoteReceive { n := p.core, m := p.id }
      | some _ => Turn.event .promoteAck { n := p.id })
    ++ (s.fab.side.filter fun e => s.pftoOver e.core e.since).map (fun e => Turn.event .sideLogTimeout { n := e.core, m := e.slot })
    ++ (s.lnk.away.filter fun a => awayDue s.clk.ref a && !(s.fab.reqs.any fun r => r.id == a.id && s.standsStill r.core)).map (fun a => Turn.event .e2eTimeout { n := a.id })
    ++ (s.fab.siding.filter fun x => s.stampDone x.2.2.2).map fun x => Turn.event .sidingRelease { n := spaceKey x.1 x.2.1 }

/-! ### Engines -/

/-- The first queued operation of each group. -/
def firstOfGroups {α : Type} (key : α → Nat × Nat) (xs : List α) : List (Nat × Nat) := (xs.map key).eraseDups

/-- Turns of copy channels, arrays, quarter units, nests and merge-path units. -/
def State.engineTurns (s : State) : List Turn :=
  s.cores.chans.map (fun x =>
    let x' : Input := { n := x.1.1, m := x.1.2 }
    match x.2 with
    | d :: _ => if d.failed.isEmpty && d.done != d.len then Turn.event .copyBeatDeliver x' else Turn.event .copyDescriptorComplete x'
    | [] => Turn.event .copyBeatDeliver x')
    ++ s.cores.clus.flatMap (fun e =>
      turnIf (e.2.load.isSome && !s.loadWaits e.1) .arrayOpComplete { n := e.1, port := .load } ++ turnIf e.2.stream.isSome .arrayOpComplete { n := e.1, port := .stream }
        ++ turnIf (!e.2.book.isEmpty && e.2.load.isNone) .bookingGrant { n := e.1, port := .load }
        ++ turnIf (!e.2.book.isEmpty && e.2.stream.isNone) .bookingGrant { n := e.1, port := .stream })
    ++ (firstOfGroups (fun (q : QmuOp) => (q.blk, q.gid)) s.cores.qmus).map (fun k => Turn.event .qmuOpComplete { n := k.1, m := k.2 })
    ++ (firstOfGroups (fun (q : NestOp) => (q.blk, q.gid)) s.cores.nests).map (fun k => Turn.event .nestComplete { n := k.1, m := k.2 })
    ++ (s.cores.mpaths.map fun m => m.1).eraseDups.map fun d => Turn.event .mpathComplete { n := d }

/-! ### Launches -/

/-- A context's own times: its start, a stall, and a new question. -/
def State.ctxTurns (s : State) (c : Ctx) : List Turn :=
  let start := s.startOf c.key
  turnIf (c.state == .armed && (match start with | some t => t ≤ s.clk.gt | none => false)) .walkerStart { n := c.core, key := c.key }
    ++ turnIf (c.state == .hungry && !c.asked && c.ask ≤ s.clk.ref) .workReaskTimer { n := c.core, key := c.key }
    ++ turnIf (c.state == .active && (match c.stall with
        | some t => t + (s.reg .dspStallto 0).toNat % 2 ^ 32 ≤ s.clk.ref
        | none => false)) .stallTimeout { n := c.core, key := c.key }

/-- Deadlines of reserve at the packages and dies asked (R135, R138), and the counts to be reported (R147). -/
def State.pkgTurns (s : State) (p : PkgLaunch) : List Turn :=
  (p.dies.filter fun d => d.answer.isNone && d.asked + p.rsvto / 4 ≤ s.clk.ref).map
      (fun d => Turn.event .reserveTimeout { n := d.die, key := p.key, msg := .level .die })
    ++ turnIf (match p.answer with | some (m, t) => p.s.isNone && m.no.isNone && t + p.rsvto ≤ s.clk.ref | none => false)
      .relayHoldTimeout { key := p.key }
    ++ ((List.range 4).filter fun d => s.countsDue p d || (d == 0 && s.listDue p)).map fun d => Turn.event .tileCountReport { n := d, key := p.key }

/-- What a pod relay's launch does next. -/
def State.podTurns (s : State) (p : PodLaunch) : List Turn :=
  match p.state with
  | .waiting | .zeroing => [.event .reserveStart { n := p.seq }]
  | .reserving =>
    if p.start + p.rsvto ≤ s.clk.ref then [.event .reserveTimeout { n := s.own, key := s.keyOf p.seq, msg := .level .pod }]
    else if p.start + p.rsvto / 2 ≤ s.clk.ref then
      ((podPkgs p).filter fun k => !(p.answers.any fun a => a.pkg == k)).map fun k =>
        Turn.event .reserveTimeout { n := k, key := s.keyOf p.seq, msg := .level .package }
    else []
  | .committed | .cancelling => turnIf (podFull p) .launchDoneWrite { n := p.seq }
  | .done => turnIf (!p.doneTold) .launchDoneWrite { n := p.seq }
  | .ended => []

/-- Turns of the launch machinery. -/
def State.launchTurns (s : State) : List Turn :=
  (s.lau.reqs.filter fun r => r.status.isNone && r.pod.isNone).map (fun r => Turn.event .launchRequest { n := r.id })
    ++ s.lau.pods.flatMap s.podTurns ++ s.lau.pkgs.flatMap s.pkgTurns ++ s.lau.ctxs.flatMap s.ctxTurns

/-! ### Queues, links and times -/

/-- Turns of a launch port. -/
def State.portTurns (s : State) (n : Nat) : List Turn :=
  let p := s.lport n
  turnIf (p.qcnt == 1) .quantumExpiry { n := n }
    ++ turnIf ((p.state == .idle && tailOf p != p.head) || p.state == .running || (s.cmdsOf n).any fun c => c.status.isSome)
      .queueRead { n := n }
    ++ turnIf (p.state == .running && (s.cmdsOf n).any fun c => !c.started) .commandStart { n := n }

/-- Turns of a command. -/
def State.cmdTurns (s : State) (c : Cmd) : List Turn :=
  if c.started && c.status.isNone then
    (match cmdEvent c with | some i => [Turn.event i { n := c.id }] | none => [])
      ++ turnIf (cmdNum c 0 1 == 3 && cmdNum c 24 4 != 0 && c.since + cmdNum c 24 4 ≤ s.clk.ref) .waitLimitExpiry { n := c.id }
  else []

/-- Turns of a Coupler port: a flit, and the ends of detection and retraining. -/
def State.cplrTurns (s : State) (k : Nat) : List Turn :=
  let p := s.cplr k
  match p.state with
  | .active =>
    if p.resend.isSome then [.event .dataFlitSend { n := k }]
    else
      match (List.range 4).filter fun v => laneOpen p v && s.lnk.queue.any fun x => x.1 == v && s.maySend k v x.2.1 x.2.2 with
      | [] => [.event .idleFlitSend { n := k }]
      | vs => vs.map fun v => Turn.event .dataFlitSend { n := k, v := BitVec.ofNat 64 v }
  | .detect => turnIf (p.since + 100000 ≤ s.clk.ref) .cplrDetectTimeout { n := k }
  | .retrain => turnIf (retrainOver p s.clk.ref) .cplrRetrainTimeout { n := k } ++ turnIf (s.retraining k 2) .cplrRetrainDone { n := k }
  | _ => []

/-- A bank's window ends in this REFTICK (R212). -/
def State.windowTurns (s : State) (die : Nat) : List Turn :=
  (List.range 16).flatMap fun b => turnIf ((s.clk.ref + wsPeriod - 40 * b) % wsPeriod == s.wsLen die) .wsWindowEnd { n := die, m := b }

/-- The sensors of a package (R53). -/
def sensors : List Sensor :=
  ((List.range 256).filter fun c => !Config.coreAbsent (c / 64) (c % 64)).map Sensor.core ++ (List.range 64).map Sensor.array
    ++ (List.range 12).map Sensor.stack ++ (List.range 64).map fun k => Sensor.bank (k / 16) (k % 16)

/-- A sensor's reading at a REFTICK. -/
def reading (t : Nat) (k : Sensor) : Reading := { sensor := k, celsius := Config.celsius (sensorKey k) t }

/-- What the package measures at fixed times: every sensor each 100 REFTICKs (R53), the power of each die each 10 (R51), and the
bandwidth of the stacks each 10,000 (R86). -/
def State.measureTurns (s : State) : List Turn :=
  let t := s.clk.ref
  (if t % 100 = 0 then
    [Turn.event .sensorSample { msg := .readings (sensors.map (reading t)) }]
   else [])
    ++ (if t % 10 = 0 then (List.range 4).map fun d => Turn.event .powerLimiterTick { n := d, m := Config.diePower d t } else [])
    ++ (if t % 10000 = 0 then
      let avail := (List.range 12).map fun k => Config.stackAvail k t
      let demand := (List.range 8).map fun j => (List.range 12).map fun k => Config.partDemand j k t
      [Turn.event .bandwidthInterval { msg := .bandwidth avail demand }]
     else [])

/-- Turns that fall due with a REFTICK. -/
def State.timeTurns (s : State) : List Turn :=
  ((List.range 7).filter s.wdogDue).map (fun n => if n = 0 then Turn.event .controlWatchdogExpiry {} else Turn.event .serviceWatchdogExpiry { n := n })
    ++ turnIf (s.fab.epoch < s.clk.ref / 1024) .epochAdvance {}
    ++ (List.range 5).flatMap (fun h =>
      turnIf (s.fab.tlb.any fun t => t.home == h && t.bits != 0 && t.since + 99000 ≤ s.clk.ref) .tlbWritebackTimer { n := h })
    ++ s.th.power.flatMap (fun e =>
      turnIf (e.2.slewing && e.2.rails == s.railTargets e.1) .regulatorSlewDone { n := e.1 }
        ++ turnIf (e.2.relock && e.2.lockAt ≤ s.clk.ref) .pllLock { n := e.1 })
    ++ s.hbmOverdue.map (fun st => Turn.event .bringUpFailure { n := st / 3, v := BitVec.ofNat 64 (0x20 + st) })
    ++ s.measureTurns
    ++ (s.th.wants.filter fun w => w.2 ≤ s.clk.ref).map (fun w => Turn.event .migrationRetry { n := w.1 })
    ++ (List.range 4).flatMap s.windowTurns
    ++ (s.dbg.trace.filter fun r => r.1 + traceWait ≤ s.clk.ref).map (fun _ => Turn.event .traceRecordDrop {})
    ++ (List.range 18).flatMap s.cplrTurns
    ++ s.que.ports.flatMap (fun e => s.portTurns e.1) ++ s.que.cmds.flatMap s.cmdTurns

/-! ### Time (R47, R49, R77, R212) -/

/-- GTICKs in this tenth of a REFTICK: one, or none or two while a correction is slewed, one in 10,000 (R47). -/
def State.gtickStep (s : State) : Nat :=
  if !s.clk.run then 0
  else if s.clk.sub = 0 ∧ s.clk.ref % 1000 = 0 then (if s.clk.adj < 0 then 0 else if 0 < s.clk.adj then 2 else 1)
  else 1

/-- GTICK moves on, in step with the master once its correction has converged (R48); a debug stop holds it at its target (R309), and
the master sends its count every 2^20 (R47); where the hold of R143 ends, placement is attempted. -/
def State.gtickOn (s : State) : State :=
  let n := s.gtickStep
  let gt := s.clk.gt + n
  let target := (s.reg .dbgStopt 0).toNat
  let stop := (s.reg .dbgStopc 0).getLsbD 0 && s.clk.gt < target && target ≤ gt
  let adj : Int := if n = 0 ∧ s.clk.run then s.clk.adj + 1 else if n = 2 then s.clk.adj - 1 else s.clk.adj
  let near := adj ≠ s.clk.adj && adj.natAbs ≤ 2 && !s.livePlanes.isEmpty
  let gt' := if stop then target else gt
  let due := s.lau.ctxs.filter fun c => ctxIssues c && match s.startOf c.key with
    | some t => s.clk.gt < t + 3 && t + 3 ≤ gt'
    | none => false
  let s' : State := { s with clk := { s.clk with gt := gt', adj := adj, sync := s.clk.sync || near } }
  let s' := due.foldl (fun (s : State) c => s.wantPlace c.core) s'
  if stop then { s' with agenda := .event .stopFire {} :: s'.agenda }
  else if n ≠ 0 ∧ gt / 2 ^ 20 ≠ s.clk.gt / 2 ^ 20 ∧ s.clk.master then { s' with agenda := s'.agenda ++ [.event .gtickAlignSend {}] }
  else s'

/-- WLEN of a die as phase 0 latches it (R212). -/
def State.latchWlen (s : State) : State :=
  if s.clk.ref % wsPeriod ≠ 0 then s
  else
    let long (die : Nat) : Bool := s.th.warm.any fun k => 1024 + 16 * die ≤ k && k < 1024 + 16 * (die + 1)
    { s with th := { s.th with wlen := (List.range 4).foldl (fun m d => FMap.set 40 m d (if long d then 80 else 40)) s.th.wlen } }

/-- The quantum counters of RUNNING ports (R77). -/
def State.quanta (s : State) : State :=
  s.que.ports.foldl (fun (s : State) e =>
    if e.2.state = .running ∧ 1 < e.2.qcnt then s.modLport e.1 fun p => { p with qcnt := p.qcnt - 1 } else s) s

/-- What may come from outside the package, or from the firmware's programs: register accesses, messages of the host, of expanders
and of other packages, what links and supplies do, and a reset. Every other event is the package's own (log entry 2). -/
def fromOutside (i : Instr) (x : Input) : Bool :=
  match i with
  | .powerOnReset | .registerReadClear | .supplyDroop | .hbmTrainingStepDone | .ucieTrainingDone | .ucieLinkDown
  | .ucieSidebandMessage | .ucieUnknownMessage | .hostRd | .hostWr | .hostWake | .cxlResponse | .cplrReceiverDetect | .cplrBitLock
  | .cplrDeskew | .cplrEqualised | .cplrIdentityExchange | .cplrLossOfLock | .flitReceive | .gtickAlignReceive | .shootdownInvalidate
  | .replayDoneMarker | .launchRequest | .packageReserve | .packageAnswer | .commitMsg | .rollbackMsg | .launchlostReport | .split
  | .rangeReceive | .tileCountUpdate | .cancelMsg | .faultSummary | .launchDoneWrite | .launchStatusReturn | .watchHitReport
  | .stopArmMsg | .fuseProgramming | .bringUpFailure | .firmwareReady | .vsrSupplyChange | .referenceClockChange
  | .cxlExpanderTraining => true
  | .accessRsp | .accessAck | .accessErr => x.who == .portA
  | .tlbWritebackTimer | .reserveStart => x.on
  | _ => writesRegs i

/-- A turn that may come from outside. -/
def isOutside (t : Turn) : Bool := match t with | .event i x => fromOutside i x | .upset _ | .firm _ => true | .issue _ _ => false

/-- The cluster is clocked: its PLL is locked and its gate open (R43, R55). -/
def State.isClocked (s : State) (cl : Nat) : Bool := s.field .clkClf cl 31 1 == 1 && !s.isGated cl

/-- The cycles of the REFTICK that ends are counted: source 0x0001 of every clocked cluster, and for each partition its
cycles without an instruction, 32 lane counts each, in IDLE (R299, R302, log entry 39). -/
def State.cycleTick (s : State) : State :=
  let s := ((List.range 64).filter s.isClocked).foldl (fun (s : State) cl =>
    let n := s.cycles cl
    let s := s.countCluster 0x0001 n cl
    let idle (core : Nat) : Nat := ((List.range 4).map fun p => n - FMap.get 0 s.dbg.slots (4 * core + p)).sum
    { s with dbg := { s.dbg with lanes := ((List.range 4).map (4 * cl + ·)).foldl (fun m core =>
        FMap.set 0 m (128 * core + 68) (satAdd (FMap.get 0 m (128 * core + 68)) (32 * idle core))) s.dbg.lanes } }) s
  let left := s.dbg.slots.map fun e => (e.1, e.2 - s.cycles (e.1 / 16))
  { s with dbg := { s.dbg with slots := left.filter fun e => e.2 != 0 } }

/-- A REFTICK begins: counters, latches, rails, ring writes, what the outside world does now, and waiting trace records (R308). -/
def State.reftick (s : State) : State :=
  let s := s.cycleTick
  let s : State := { s with clk := { s.clk with ref := s.clk.ref + 1 } }
  let s := s.latchWlen.quanta
  let s := (s.th.power.foldl (fun (s : State) e => s.railTick e.1) s).ucieTick
  let s := if s.masterDue then s.masterLost else s
  let s := (s.traceOut s.dbg.trace).pageFaultOut.errorLogOut
  let now := s.outside.filter fun x => x.1 ≤ s.clk.ref && isOutside x.2
  { s with agenda := s.agenda ++ now.filterMap (fun x => s.withoutDown x.2), outside := s.outside.filter fun x => !(x.1 ≤ s.clk.ref) }

/-- Flits that wait in receive buffers are taken (R30). -/
def State.drainAll (s : State) : State :=
  s.lnk.cplr.foldl (fun (s : State) e => (List.range 4).foldl (fun (s : State) v => s.drainRx e.1 v) s) s

/-- Every resumed path that stands in a loop decodes its body again (R468). -/
def State.reloads (s : State) : State :=
  (s.cores.blocks.filter fun b => b.stop.isNone && !s.isGated (clusterOf b.core)).foldl (fun (s : State) b =>
    (b.groups.filter fun g => !g.dead && !g.exited && !g.stopped).foldl (fun (s : State) g =>
      (s.reload b.uid g.gid false).reload b.uid g.gid true) s) s

/-- A power-on reset. -/
def isReset (x : Nat × Turn) : Bool := match x.2 with | .event .powerOnReset _ => true | _ => false

/-- A package whose rails are gone (R53), or that a debug stop holds (R309), stands still until a reset. -/
def State.heldUp (s : State) : State :=
  match s.outside.find? isReset with
  | some x => { s with agenda := [x.2], outside := s.outside.filter fun y => y != x }
  | none => s

/-- The choice of the next turns. -/
def State.auto (s : State) : State :=
  if s.clk.tripped || s.clk.stopped then s.heldUp
  else
    let s : State := { s with clk := { s.clk with sub := (s.clk.sub + 1) % 10 } }
    let s := if s.clk.sub = 0 then s.reftick.drainAll else s
    let s := s.shootAcks.cancelAcks.reloads
    let s := s.gtickOn
    let own := s.coreTurns ++ s.fabricTurns ++ s.engineTurns ++ s.launchTurns ++ (if s.clk.sub = 0 then s.timeTurns else [])
    { s with agenda := s.agenda ++ own.filter fun t => !s.mustWait t }

end Sys2Proof.Machine
end

