-- ==== Sys2Proof/Machine/Atomic.lean ====
section
/-! DEFINITION. Atomics (R429 to R433). -/

namespace Sys2Proof.Machine
open Sys2Proof

/-- The form returns the old value (R429). -/
def returns (o : Op) : Bool := !o.kMem.getLsbD 0

/-- The registers a returning atomic holds. -/
def atomDests (o : Op) : List Nat := if returns o then destRegs o.ty.is64 o.d else []

/-- Lane l's operand and comparand: pairs for a 64-bit type. -/
def atomSrc (c : Cur) (o : Op) (r : BitVec 8) (l : Nat) : DWord :=
  if o.ty.is64 then pairVal c r l else (laneVal c r l).setWidth 64

/-- The pieces of an atomic, in ascending lane order (R431). -/
def atomParts (s : State) (c : Cur) (o : Op) (ps : List (Nat × DWord)) : List Part :=
  ps.map fun p =>
    { lane := p.1, va := s.resolve p.2, size := o.ty.bytes, data := atomSrc c o o.b p.1, cmp := atomSrc c o o.c p.1 }

/-- The effect of an atomic (R208, R429, R432): it drops a present line and goes to its home. -/
def atomSend (c : Cur) (o : Op) (op : AtomOp) (ls : Word) (ps : List (Nat × DWord)) (s : State) : State :=
  let parts := atomParts s c o ps
  let deps := s.acqDeps c.run.blk c.run.gid
  let (s, id) := s.fresh
  let s := s.addOp c {
    id := id, site := siteOf s c ls, kind := .atom, ty := o.ty
    dest := if returns o then .vec o.d.toNat o.d.toNat else .none, left := (linesOf parts).length } (atomDests o)
  let s := s.noteCode c parts
  let s := (linesOf parts).foldl (fun (s : State) line => s.l1Drop c.blk.core line) s
  s.sendLines c id .atom parts fun r => { r with aop := op, ty := o.ty, deps := deps, acq := acqOf o, rel := relOf o }

/-- The places of an atomic's lanes: global, without a displacement (R429). -/
def atomPlaces (s : State) (c : Cur) (o : Op) : List (Nat × DWord) :=
  (lanesOf (activeLanes s c o)).map fun l => (l, pairVal c o.a l)

/-- Issues an atomic. -/
def execAtom (opc : BitVec 10) (op : AtomOp) (o : Op) (s : State) : Host.Outcome State Fault Refusal :=
  issue opc o s
    (fun c => placeFaults c false o.ty.bytes o.ty.bytes (atomPlaces s c o) ++ joinFault s c (fallThrough c o))
    fun c s =>
      let ls := activeLanes s c o
      let ps := atomPlaces s c o
      if ls = 0 then finish c o s
      else
        match badPlaces ps with
        | [] => unlessFull c ls (firstPlace ps) (ifRelease c o fun s => finish c o (atomSend c o op ls ps s)) s
        | bad => finish c o (badAddress c bad (atomDests o) s)

/-- AADD (R430). -/
def execAadd (o : Op) (s : State) : Host.Outcome State Fault Refusal := execAtom 0x190 .add o s
/-- AMIN (R430). -/
def execAmin (o : Op) (s : State) : Host.Outcome State Fault Refusal := execAtom 0x191 .min o s
/-- AMAX (R430). -/
def execAmax (o : Op) (s : State) : Host.Outcome State Fault Refusal := execAtom 0x192 .max o s
/-- AAND (R430). -/
def execAand (o : Op) (s : State) : Host.Outcome State Fault Refusal := execAtom 0x193 .and o s
/-- AOR (R430). -/
def execAor (o : Op) (s : State) : Host.Outcome State Fault Refusal := execAtom 0x194 .or o s
/-- AXOR (R430). -/
def execAxor (o : Op) (s : State) : Host.Outcome State Fault Refusal := execAtom 0x195 .xor o s
/-- AXCH (R430). -/
def execAxch (o : Op) (s : State) : Host.Outcome State Fault Refusal := execAtom 0x196 .xch o s
/-- ACAS (R430). -/
def execAcas (o : Op) (s : State) : Host.Outcome State Fault Refusal := execAtom 0x197 .cas o s
/-- AMAXR (R433). -/
def execAmaxr (o : Op) (s : State) : Host.Outcome State Fault Refusal := execAtom 0x198 .maxr o s

end Sys2Proof.Machine
end

