-- ==== Sys2Proof/Machine/Control.lean ====
section
/-! DEFINITION. Control flow and melding (R365 to R391). -/

namespace Sys2Proof.Machine
open Sys2Proof

/-! ### Targets and faces -/

/-- PC + 8 × a signed 16-bit word offset (R370). -/
def wordTarget (pc : DWord) (imm : BitVec 16) : DWord := pc + (imm.signExtend 64 <<< 3)

/-- The lanes of M in face X, and in face Y. -/
def faceX (s : State) (c : Cur) : Word := c.path.mask &&& faceMask s c.blk c.run.gid c.path
def faceY (s : State) (c : Cur) : Word := c.path.mask &&& ~~~faceMask s c.blk c.run.gid c.path

/-- The lanes of M whose face's predicate is 1; a disabled face reads zeros (R381, R384, R385). -/
def chosenLanes (s : State) (c : Cur) (o : Op) : Word :=
  let qx := if o.xen then predOf c.grp (o.a.toNat - 0xE0) else 0
  let qy := if o.twoFaced then (if o.yen then predOf c.grp ((setY o).a.toNat - 0xE0) else 0) else qx
  (faceX s c &&& qx) ||| (faceY s c &&& qy)

/-- The lowest lane guarded in. -/
def guardedLane (c : Cur) (o : Op) : Nat := (lowest (guardedIn c o)).getD 0

/-- MELDSTATE with the region depth. -/
def meldFault (c : Cur) : FaultInfo := { code := codeMeldstate, lanes := c.path.mask, aux := BitVec.ofNat 32 c.path.rg }

/-- MELDSTATE names the region depth before the instruction, which has no effect (R185, R369). -/
def atDepth (c : Cur) (fs : List FaultInfo) : List FaultInfo := fs.map fun f => { f with aux := BitVec.ofNat 32 c.path.rg }

/-- The join checks of a transfer (R369): none while the guard is partial, since UNIFORM stands then. -/
def transferFaults (s : State) (c : Cur) (o : Op) (next : DWord) : List FaultInfo :=
  if pathGuard c o = .some then [] else joinFault s c next

/-! ### NOP, branches and joins (R364, R372 to R376) -/

/-- A NOP's fields as it decodes them: no guard among them (R364). -/
def nopOp (o : Op) : Op := { o with gp := 7, gi := false }

/-- NOP (R364). -/
def execNop (o : Op) (s : State) : Host.Outcome State Fault Refusal :=
  issuePlain 0x000 (nopOp o) s (fun _ => []) fun _ s => s

/-- PAD (R376). -/
def execPad (o : Op) (s : State) : Host.Outcome State Fault Refusal := issuePlain 0x008 o s (fun _ => []) fun _ s => s

/-- BRA's next PC (R372). -/
def braNext (c : Cur) (o : Op) : DWord :=
  if pathGuard c o = .all then wordTarget c.path.pc o.imm16 else c.path.pc + 8

/-- BRA (R372). -/
def execBra (o : Op) (s : State) : Host.Outcome State Fault Refusal :=
  issue 0x001 o s
    (fun c => partialGuard c o (wordTarget c.path.pc o.imm16) ++ transferFaults s c o (braNext c o))
    fun c s => finishAt c o (braNext c o) s

/-- The join PC of BRA.D: bits 25 to 10 of the extension word (R370). -/
def bradJoin (c : Cur) (o : Op) : DWord := wordTarget c.path.pc (o.param.extractLsb' 10 16)

/-- BRA.D's next PC when its lanes agree. -/
def bradNext (c : Cur) (o : Op) : DWord :=
  if guardedIn c o = 0 then c.path.pc + 16 else wordTarget c.path.pc o.imm16

/-- The lanes of BRA.D disagree (R373). -/
def bradSplits (c : Cur) (o : Op) : Bool := guardedIn c o != 0 && guardedIn c o != c.path.mask

/-- Checks of BRA.D (R373). -/
def bradFaults (s : State) (c : Cur) (o : Op) : List FaultInfo :=
  (if c.path.rg ≠ 0 then [meldFault c] else [])
    ++ (if bradSplits c o then pushFaults c 1 else joinFault s c (bradNext c o))

/-- A path that has just been placed in a slot reaches J when its PC is J of the top frame (R369, R378). -/
def State.settlePlaced (s : State) (c : Cur) (slotB : Bool) (d : Nat) (j : DWord) : State :=
  match s.group? c.run.blk c.run.gid with
  | none => s
  | some g =>
    match groupSlot g slotB with
    | some p => if p.depth = d ∧ p.pc = j then s.leaveFork c.run.blk c.run.gid slotB p d true joinFuel else s
    | none => s

/-- BRA.D whose lanes disagree pushes a frame of kind 0 (R373). -/
def bradSplit (c : Cur) (o : Op) (s : State) : State :=
  let taken := guardedIn c o
  let d := c.path.depth + 1
  let j := bradJoin c o
  let s := s.pushFrame c 0 [(0, 8, j.toNat), (24, 1, 2)]
  let s := s.countOne c o
  let other : Path := {
    pc := wordTarget c.path.pc o.imm16, mask := taken, depth := d, rc := c.path.rc, rets := c.path.rets
    lastRun := s.cores.runSeq }
  let s := s.modCur c fun g => groupSetSlot g (!c.run.slotB) (some other)
  let s := s.modPath c fun p => { p with mask := p.mask &&& ~~~taken, pc := c.path.pc + 16 }
  let here := j == c.path.pc + 16
  let s := s.settlePlaced c c.run.slotB d j
  (s.settlePlaced c (!c.run.slotB) d j).seam c o.seam here

/-- BRA.D (R373). -/
def execBraD (o : Op) (s : State) : Host.Outcome State Fault Refusal :=
  issue 0x002 o s (fun c => bradFaults s c o) fun c s =>
    if bradSplits c o then (if pushBlocked c.grp c.run.slotB c.path then waitPush c s else bradSplit c o s)
    else finishAt c o (bradNext c o) s

/-- The path's top frame is of kind k. -/
def topKind (s : State) (c : Cur) (k : Nat) : Bool :=
  c.path.depth != 0 && frameKind s c.blk c.run.gid c.path.depth == k

/-- A field of the top frame. -/
def topNum (s : State) (c : Cur) (off n : Nat) : Nat := frameNum s c.blk c.run.gid c.path.depth off n

/-- The issuing path reaches J of its top frame (R167, R369). -/
def arrive (c : Cur) (o : Op) (s : State) : State :=
  finishLeave c o (fun s => s.leaveFork c.run.blk c.run.gid c.run.slotB c.path c.path.depth true joinFuel) s

/-- JOIN (R374). -/
def execJoin (o : Op) (s : State) : Host.Outcome State Fault Refusal :=
  issue 0x004 o s (fun c => if topKind s c 0 && c.path.rg != 0 then [meldFault c] else []) fun c s =>
    if topKind s c 0 then arrive c o s else finish c o s

/-! ### PAD checks (R375) -/

/-- What the PAD check of a target answers. -/
inductive PadCheck where
  | ok
  | bad (aux : Nat)
  | fail (code stat aux : Nat)
  | wait (line : DWord)
  deriving DecidableEq, Repr

/-- R375, check 3. -/
def padCheck (s : State) (c : Cur) (t : DWord) (tag : BitVec 8) : PadCheck :=
  if t.toNat % 8 ≠ 0 then .bad (tag.toNat + 65536)
  else
    match s.fetchWord c.run.blk c.run.gid c.blk.core c.run.slotB t with
    | .wait l => .wait l
    | .fail code stat aux => .fail code stat aux
    | .word w =>
      if w.extractLsb' 62 2 ≠ 0 ∨ opcodeOf w ≠ 0x008 then .bad (tag.toNat + 65536)
      else if w.extractLsb' 0 8 ≠ tag then .bad (tag.toNat + 256 * (w.extractLsb' 0 8).toNat)
      else .ok

/-- The line a PAD check still waits for. -/
def PadCheck.line? : PadCheck → Option DWord
  | .wait line => some line
  | _ => none

/-- The fault of a bad PAD at target t for some lanes. -/
def PadCheck.fault? (t : DWord) (ls : Word) : PadCheck → Option FaultInfo
  | .bad aux => some { code := codePadmismatch, lanes := ls, aux := BitVec.ofNat 32 aux, addr := t }
  | _ => none

/-- The fetch of a PAD has failed. -/
def PadCheck.failed? : PadCheck → Option (Nat × Nat × Nat)
  | .fail code stat aux => some (code, stat, aux)
  | _ => none

/-- Makes the PAD checks of targets, each with the lanes it is for, then goes on (R375, R378): words still missing are
waited for, a bad PAD is PADMISMATCH over the lanes of every face that has one (R186), and a failing fetch a precise
fault at T with the jump counted as executed. -/
def withPads (c : Cur) (o : Op) (s : State) (go : State → State) (ts : List (DWord × Word)) : State :=
  let checks := ts.map fun t => (t, padCheck s c t.1 o.tag)
  match checks.findSome? fun k => k.2.line? with
  | some line => s.padSend c line
  | none =>
    match firstFault (checks.filterMap fun k => k.2.fault? k.1.1 k.1.2) with
    | some f => raise c f s
    | none =>
      let failed := checks.filterMap fun k => k.2.failed?.map fun f => (k.1, f)
      match failed with
      | ((t, _), code, stat, aux) :: _ =>
        let lanes := (failed.filter fun k => k.2.1 == code).foldl (fun m k => m ||| k.1.2) 0
        fetchFaultFor c lanes t code stat aux (s.countOne c o)
      | [] => go (ts.foldl (fun s t => s.fetchFill c.run.blk c.run.gid c.blk.core c.run.slotB t.1) s)

/-- The pair of a register is equal over some lanes. -/
def pairEqual (c : Cur) (r : BitVec 8) (ls : Word) : Bool :=
  match lanesOf ls with
  | [] => true
  | l :: rest => rest.all fun k => pairVal c r k == pairVal c r l

/-- The pair's value in the lowest of some lanes. -/
def pairLow (c : Cur) (r : BitVec 8) (ls : Word) : DWord := pairVal c r ((lowest ls).getD 0)

/-- JMPI's checks before its PAD check (R375). -/
def jmpiFaults (s : State) (c : Cur) (o : Op) : List FaultInfo :=
  let t := pairLow c o.a (guardedIn c o)
  partialGuard c o t
    ++ (if pathGuard c o = .all ∧ !pairEqual c o.a c.path.mask then
          [{ code := codeUniform, lanes := c.path.mask, addr := t }] else [])
    ++ transferFaults s c o (if pathGuard c o = .all then t else c.path.pc + 8)

/-- JMPI (R375). -/
def execJmpi (o : Op) (s : State) : Host.Outcome State Fault Refusal :=
  issue 0x003 o s (fun c => jmpiFaults s c o) fun c s =>
    if pathGuard c o = .all then
      let t := pairLow c o.a c.path.mask
      withPads c o s (finishAt c o t) [(t, c.path.mask)]
    else finish c o s

/-! ### Calls and returns (R377 to R380) -/

/-- The return point (R377). -/
def returnPoint (c : Cur) (o : Op) : DWord := c.path.pc + BitVec.ofNat 64 o.len

/-- Face X's and face Y's targets; a face written `-` takes the return point (R378). -/
def callTargets (s : State) (c : Cur) (o : Op) (indirect : Bool) : DWord × DWord :=
  let tx := if !o.xen then returnPoint c o
    else if indirect then pairLow c o.a (faceX s c) else wordTarget c.path.pc o.imm16
  let ty := if !o.twoFaced then (if indirect then pairLow c o.a (faceY s c) else tx)
    else if !o.yen then returnPoint c o
    else if indirect then pairLow c (setY o).a (faceY s c) else wordTarget c.path.pc (setY o).imm
  (tx, ty)

/-- The call is melded (R378). -/
def callMelds (s : State) (c : Cur) (o : Op) (indirect : Bool) : Bool :=
  let t := callTargets s c o indirect
  faceX s c == 0 || faceY s c == 0 || t.1 == t.2

/-- The target of a melded call: that of the non-empty face. -/
def callNext (s : State) (c : Cur) (o : Op) (indirect : Bool) : DWord :=
  let t := callTargets s c o indirect
  if faceX s c != 0 then t.1 else t.2

/-- Disagreement within one face of CALLI (R378). -/
def calliFaults (s : State) (c : Cur) (o : Op) : List FaultInfo :=
  let f (on : Bool) (r : BitVec 8) (ls : Word) : List FaultInfo :=
    if on && !pairEqual c r ls then [{ code := codeUniform, lanes := ls, addr := pairLow c r ls }] else []
  f o.xen o.a (faceX s c) ++ f (!o.twoFaced || o.yen) (if o.twoFaced then (setY o).a else o.a) (faceY s c)

/-- The target of lane l in a call: of its own register, or of its face's offset; the return point in a face written `-`
(R378). -/
def laneTarget (s : State) (c : Cur) (o : Op) (indirect : Bool) (l : Nat) : DWord :=
  let inX := (faceMask s c.blk c.run.gid c.path).getLsbD l
  let x := if o.twoFaced && !inX then setY o else setX o
  if !(if o.twoFaced && !inX then o.yen else o.xen) then returnPoint c o
  else if indirect then pairVal c x.a l else wordTarget c.path.pc x.imm

/-- Checks of CALL and CALLI, the PAD check apart. -/
def callFaults (s : State) (c : Cur) (o : Op) (indirect : Bool) : List FaultInfo :=
  match pathGuard c o with
  | .some => partialGuard c o (laneTarget s c o indirect (guardedLane c o))
  | .none => joinFault s c (returnPoint c o)
  | .all =>
    (if indirect then calliFaults s c o else [])
      ++ (if callMelds s c o indirect then
            (if c.path.rc < 3 then joinFault s c (callNext s c o indirect) else pushFaults c 1)
          else pushFaults c 2)

/-- A melded call (R377, R378). -/
def meldedCall (c : Cur) (o : Op) (t : DWord) (s : State) : State :=
  let ret := returnPoint c o
  if c.path.rc < 3 then
    finishAt c o t (s.modPath c fun p => { p with rc := p.rc + 1, rets := p.rets ++ [ret] })
  else if pushBlocked c.grp c.run.slotB c.path then waitPush c s
  else finishAt c o t ((s.pushFrame c 5 [(0, 8, ret.toNat)]).modPath c fun p => { p with rc := p.rc + 1 })

/-- An unmelding call (R378): frames of kind 4 and 2, and one path per face. -/
def unmeldCall (c : Cur) (o : Op) (t : DWord × DWord) (s : State) : State :=
  if pushBlocked c.grp c.run.slotB c.path then waitPush c s
  else
    let ret := returnPoint c o
    let d := c.path.depth
    let fx := (List.range c.path.fx.length).map fun i => (4 * i, 4, (c.path.fx.getD i 0).toNat)
    let s := s.pushFrame c 4 (fx ++ [(16, 1, c.path.fx.length), (18, 2, c.path.rg)])
    let s := s.newFrame c.blk c.run.gid (d + 2) 2 [(0, 8, ret.toNat), (24, 1, 2), (28, 2, c.path.rc)]
    let s := s.countOne c o
    let mk (m : Word) (pc : DWord) : Path := {
      pc := pc, mask := m, depth := d + 2, rc := c.path.rc, rets := c.path.rets, lastRun := s.cores.runSeq }
    let x := faceX s c
    let y := faceY s c
    let s := s.modCur c fun g => { g with pa := some (mk x t.1), pb := some (mk y t.2) }
    let s := s.settlePlaced c false (d + 2) ret
    (s.settlePlaced c true (d + 2) ret).seam c o.seam true

/-- The call once its checks have passed. -/
def callGo (c : Cur) (o : Op) (indirect : Bool) (s : State) : State :=
  if callMelds s c o indirect then meldedCall c o (callNext s c o indirect) s
  else unmeldCall c o (callTargets s c o indirect) s

/-- CALL (R378). -/
def execCall (o : Op) (s : State) : Host.Outcome State Fault Refusal :=
  issue 0x005 o s (fun c => callFaults s c o false) fun c s =>
    if pathGuard c o = .all then callGo c o false s else finish c o s

/-- The PAD checks of CALLI: one for each enabled face with lanes (R378). -/
def calliPads (s : State) (c : Cur) (o : Op) : List (DWord × Word) :=
  let t := callTargets s c o true
  (if o.xen && faceX s c != 0 then [(t.1, faceX s c)] else [])
    ++ (if (!o.twoFaced || o.yen) && faceY s c != 0 then [(t.2, faceY s c)] else [])

/-- DIVOVF comes after the PAD check in the order of R186. -/
def calliEarly (fs : List FaultInfo) : List FaultInfo := fs.filter fun f => f.code != codeDivovf

/-- CALLI (R378). -/
def execCalli (o : Op) (s : State) : Host.Outcome State Fault Refusal :=
  issue 0x006 o s (fun c => calliEarly (callFaults s c o true)) fun c s =>
    if pathGuard c o = .all then
      withPads c o s (fun s =>
        match (callFaults s c o true).find? fun f => f.code == codeDivovf with
        | some f => raise c f s
        | none => callGo c o true s) (calliPads s c o)
    else finish c o s

/-- The return of an unmelded path: the top frame is of kind 2 and its return count is the path's (R379). -/
def retUnmelds (s : State) (c : Cur) : Bool := topKind s c 2 && topNum s c 28 2 == c.path.rc

/-- RET names a register pair. -/
def retByReg (o : Op) : Bool := o.a != 0xF8

/-- The PC RET continues at: the pair's, the innermost entry's, or J of a kind-2 frame. -/
def retTarget (s : State) (c : Cur) (o : Op) : DWord :=
  if retByReg o then pairLow c o.a (guardedIn c o)
  else if retUnmelds s c then BitVec.ofNat 64 (topNum s c 0 8)
  else if 3 < c.path.rc then BitVec.ofNat 64 (topNum s c 0 8)
  else c.path.rets.getLastD 0

/-- The frame below the one being popped is the fork whose J is the next PC, with a region open (R369). -/
def popJoinFault (s : State) (c : Cur) (next : DWord) : List FaultInfo :=
  joinFault s { c with path := { c.path with depth := c.path.depth - 1 } } next

/-- Checks of RET in the order of R379 and R186. -/
def retFaults (s : State) (c : Cur) (o : Op) : List FaultInfo :=
  match pathGuard c o with
  | .some => partialGuard c o (retTarget s c o)
  | .none => joinFault s c (c.path.pc + 8)
  | .all =>
    if retUnmelds s c then (if retByReg o || c.path.rg != 0 then [meldFault c] else [])
    else if c.path.rc = 0 then [{ code := codeRetempty, lanes := c.path.mask }]
    else if 3 < c.path.rc ∧ !topKind s c 5 then [meldFault c]
    else
      let t := retTarget s c o
      (if retByReg o && !pairEqual c o.a c.path.mask then
          [{ code := codeRetdiverge, lanes := c.path.mask, addr := t }] else [])
        ++ (if retByReg o && t.toNat % 8 != 0 then [{ code := codeMisalign, lanes := c.path.mask, addr := t }] else [])
        ++ (if 3 < c.path.rc then popJoinFault s c t else joinFault s c t)

/-- RET (R379). -/
def execRet (o : Op) (s : State) : Host.Outcome State Fault Refusal :=
  issue 0x007 o s (fun c => retFaults s c o) fun c s =>
    if pathGuard c o ≠ .all then finish c o s
    else if retUnmelds s c then arrive c o s
    else
      let t := retTarget s c o
      finishAfter c o t (fun s =>
        (if 3 < c.path.rc then s.popFrame c else s.modPath c fun p => { p with rets := p.rets.dropLast }).modPath c fun p =>
          { p with rc := p.rc - 1 }) s

/-! ### Meld regions and loops (R381 to R386) -/

/-- MELD (R381). -/
def execMeld (o : Op) (s : State) : Host.Outcome State Fault Refusal :=
  issue 0x010 o s
    (fun c => if c.path.rg < 4 then atDepth c (joinFault s { c with path := { c.path with rg := c.path.rg + 1 } } (fallThrough c o))
      else pushFaults c 1)
    fun c s =>
      let new_ := chosenLanes s c o
      if c.path.rg < 4 then finish c o (s.modPath c fun p => { p with rg := p.rg + 1, fx := p.fx ++ [new_] })
      else if pushBlocked c.grp c.run.slotB c.path then waitPush c s
      else finish c o ((s.pushFrame c 1 [(12, 2, c.path.rg + 1), (16, 4, new_.toNat)]).modPath c fun p =>
        { p with rg := p.rg + 1 })

/-- Checks of ENDM (R382). -/
def endmFaults (s : State) (c : Cur) : List FaultInfo :=
  if c.path.rg = 0 ∨ ((topKind s c 3 || topKind s c 6) && topNum s c 12 2 == c.path.rg)
      ∨ (4 < c.path.rg ∧ !topKind s c 1) then [meldFault c] else []

/-- ENDM (R382). -/
def execEndm (o : Op) (s : State) : Host.Outcome State Fault Refusal :=
  issue 0x011 o s
    (fun c => endmFaults s c ++
      let left : Path := { c.path with rg := c.path.rg - 1 }
      atDepth c (if 4 < c.path.rg then popJoinFault s { c with path := left } (fallThrough c o)
        else joinFault s { c with path := left } (fallThrough c o)))
    fun c s =>
      finishAfter c o (fallThrough c o) (fun s =>
        (if 4 < c.path.rg then s.popFrame c else s.modPath c fun p => { p with fx := p.fx.dropLast }).modPath c fun p =>
          { p with rg := p.rg - 1 }) s

/-- MLOOP (R384). -/
def execMloop (o : Op) (s : State) : Host.Outcome State Fault Refusal :=
  issue 0x012 o s (fun c => pushFaults c 1) fun c s =>
    if pushBlocked c.grp c.run.slotB c.path then waitPush c s
    else
      let new_ := chosenLanes s c o
      let j := returnPoint c o
      let s := s.pushFrame c 3 [(0, 8, j.toNat), (12, 2, c.path.rg), (16, 4, c.path.mask.toNat)]
      finish c o (s.modPath c fun p => { p with mask := new_ })

/-- The top frame is a loop of kind k opened at this region depth. -/
def loopTop (s : State) (c : Cur) (k : Nat) : Bool := topKind s c k && topNum s c 12 2 == c.path.rg

/-- MNEXT (R385). -/
def execMnext (o : Op) (s : State) : Host.Outcome State Fault Refusal :=
  issue 0x013 o s
    (fun c => if !loopTop s c 3 then [meldFault c]
      else if chosenLanes s c o = 0 then popJoinFault s c (fallThrough c o) else [])
    fun c s =>
      let m := chosenLanes s c o
      if m = 0 then
        let acc := BitVec.ofNat 32 (topNum s c 16 4)
        finishAfter c o (fallThrough c o) (fun s => (s.popFrame c).modPath c fun p => { p with mask := acc }) s
      else
        finishAt c o (BitVec.ofNat 64 (topNum s c 0 8)) (s.modPath c fun p => { p with mask := m })

/-- LOOP's count: the N32 value of sA (R386). -/
def loopCount (c : Cur) (o : Op) : Nat := (laneVal c o.a 0).toNat

/-- LOOP skips its body (R386). -/
def loopSkips (c : Cur) (o : Op) : Bool := pathGuard c o == .none || (pathGuard c o == .all && loopCount c o == 0)

/-- LOOP (R386). -/
def execLoop (o : Op) (s : State) : Host.Outcome State Fault Refusal :=
  issue 0x00A o s
    (fun c => partialGuard c o (wordTarget c.path.pc o.imm16)
      ++ (if loopSkips c o then joinFault s c (wordTarget c.path.pc o.imm16)
          else if pathGuard c o = .all then pushFaults c 1 else []))
    fun c s =>
      if loopSkips c o then finishAt c o (wordTarget c.path.pc o.imm16) s
      else if pushBlocked c.grp c.run.slotB c.path then waitPush c s
      else finish c o (s.pushFrame c 6 [(0, 8, (c.path.pc + 8).toNat), (8, 4, loopCount c o), (12, 2, c.path.rg)])

/-- LEND (R386). -/
def execLend (o : Op) (s : State) : Host.Outcome State Fault Refusal :=
  issue 0x00B o s
    (fun c => if !loopTop s c 6 then [meldFault c]
      else if topNum s c 8 4 = 1 then popJoinFault s c (fallThrough c o) else [])
    fun c s =>
      let rem_ := (topNum s c 8 4 + 2 ^ 32 - 1) % 2 ^ 32
      if rem_ = 0 then finishAfter c o (fallThrough c o) (fun s => s.popFrame c) s
      else finishAt c o (BitVec.ofNat 64 (topNum s c 0 8)) (s.setFrame c.blk c.run.gid c.path.depth 8 4 rem_)

/-! ### Ending, trapping and waiting (R389, R390, R310) -/

/-- Takes lanes out of the ACC of every kind-3 frame of the path's stack (R299, R389). -/
def State.clearLoopLanes (s : State) (c : Cur) (gone : Word) : State :=
  (List.range c.path.depth).foldl (fun s i =>
    let f := i + 1
    if frameKind s c.blk c.run.gid f = 3 then
      s.setFrame c.blk c.run.gid f 16 4 (BitVec.ofNat 32 (frameNum s c.blk c.run.gid f 16 4) &&& ~~~gone).toNat
    else s) s

/-- What EXIT does: the lanes it guards in leave, and their path and group end with the last of them. -/
def exitLanes (c : Cur) (o : Op) (s : State) : State :=
  let gone := guardedIn c o
  let s := finish c o ((s.clearLoopLanes c gone).modPath c fun p => { p with mask := p.mask &&& ~~~gone })
  if gone = 0 then s else (s.settle c.run.blk c.run.gid).groupEnded c.run.blk c.run.gid

/-- A group has ended. -/
def State.hasExited (s : State) (uid gid : Nat) : Bool :=
  match s.group? uid gid with | some g => g.exited | none => true

/-- EXIT (R389). The exit of a group waits for the acknowledgement of every earlier access of it, and takes their errors
(R115, R184). -/
def execExit (o : Op) (s : State) : Host.Outcome State Fault Refusal :=
  issue 0x009 o s
    (fun c => if guardedIn c o = c.path.mask ∧ c.path.mask ≠ 0 then [] else joinFault s c (fallThrough c o))
    fun c s =>
      if (exitLanes c o s).hasExited c.run.blk c.run.gid then afterRelease c (exitLanes c o) s else exitLanes c o s

/-- TRAP (R390): any lane guarded in raises it. -/
def execTrap (o : Op) (s : State) : Host.Outcome State Fault Refusal :=
  issuePlain 0x028 o s
    (fun c => if guardedIn c o ≠ 0 then
      [{ code := codeTrap, lanes := guardedIn c o, aux := o.imm16.setWidth 32 }] else [])
    fun _ s => s

/-- A turn that YIELD or SLEEP 0 ends: the group's last run counts as begun now (R390). -/
def yieldTurn (c : Cur) (o : Op) (s : State) : State :=
  let n := s.cores.runSeq + 1
  let s : State := { s with cores := { s.cores with runSeq := n + 1 } }
  let s := s.modCur c fun g => { g with lastRun := n, lastRef := s.clk.ref }
  finishCut c o (fallThrough c o) (s.modPath c fun p => { loopStep p with lastRun := n })

/-- YIELD (R390). -/
def execYield (o : Op) (s : State) : Host.Outcome State Fault Refusal :=
  issueWhole 0x029 o s (fun _ => []) fun c s => yieldTurn c o s

/-- SLEEP (R390): the group parks in it for n REFTICKs. -/
def execSleep (o : Op) (s : State) : Host.Outcome State Fault Refusal :=
  issueWhole 0x02A o s (fun _ => []) fun c s =>
    if o.imm16 = 0 then yieldTurn c o s else parkAt c o (.sleep (s.clk.ref + o.imm16.toNat)) s

/-- BRK with the stop armed (R310). -/
def brkStop (c : Cur) (s : State) : State :=
  let now := s.clk.gt + 4096
  let t := if (s.reg .dbgStopt 0).toNat < now then s.reg .dbgStopt 0 else BitVec.ofNat 64 now
  let s := s.setReg .dbgStopt 0 t
  let s := if (s.reg .dbgStopc 0).getLsbD 1 then s.mgmtAll (.stopAt t true) else s
  s.trace 7 c.blk.core (s.logical c.blk.core).2 c.run.gid c.path.pc c.blk.tile

/-- BRK (R310). -/
def execBrk (o : Op) (s : State) : Host.Outcome State Fault Refusal :=
  issueWhole 0x02B o s
    (fun c => if (s.reg .dbgStopc 0).getLsbD 0 then [] else
      [{ code := codeBreak, lanes := c.path.mask, aux := o.imm16.setWidth 32 }])
    fun c s => finish c o (brkStop c s)

end Sys2Proof.Machine
end

