-- ==== Sys2Proof/Machine/Flags.lean ====
section
/-! DEFINITION. Results that are conditions: integer and float comparisons (R404, R408), the class of a float (R408),
and the votes of a face (R388). -/

namespace Sys2Proof.Machine
open Sys2Proof

/-- CMP's condition codes 0 to 5 on an ordering (R399). -/
def condHolds (cc : Nat) (o : Ordering) : Bool :=
  match cc, o with
  | 0, .eq => true
  | 1, .lt | 1, .gt => true
  | 2, .lt => true
  | 3, .lt | 3, .eq => true
  | 4, .gt => true
  | 5, .gt | 5, .eq => true
  | _, _ => false

/-- CMP (R404). -/
def intCond (cc : Nat) (x y : Int) : Bool := condHolds cc (compare x y)

/-- FCMP (R408): with a NaN only NE and UN hold. -/
def fltCond (cc : Nat) (x y : Val) : Bool :=
  match x.cmp y with
  | none => cc == 1 || cc == 6
  | some o => cc == 7 || condHolds cc o

/-- FCLASS of one code (R408). -/
def classOf (f : Fmt) (bits : Nat) : Nat :=
  let mag := bits % f.signBit
  match decFmt f bits with
  | .nan => 0x100
  | .inf neg => if neg then 0x001 else 0x080
  | .fin neg m _ =>
    if m = 0 then (if neg then 0x008 else 0x010)
    else if mag < 2 ^ f.mBits then (if neg then 0x004 else 0x020)
    else (if neg then 0x002 else 0x040)

/-! ### Votes of the active lanes of a face (R388) -/

/-- The lanes of a face with the predicate set. -/
def voteSet (face p : Word) : Word := face &&& p

def voteAllOf (face p : Word) : Bool := (face &&& ~~~p) == 0
def voteAnyOf (face p : Word) : Bool := voteSet face p != 0
def voteUniOf (face p : Word) : Bool := voteAllOf face p || voteSet face p == 0
def pcntOf (face p : Word) : Nat := (lanesOf (voteSet face p)).length
def pfirstOf (face p : Word) : Nat := (lowest (voteSet face p)).getD 32

end Sys2Proof.Machine
end

