-- ==== Sys2Proof/Machine/Trans.lean ====
section
/-! DEFINITION. The correctly rounded functions of R242 and R409. RCP, RSQ and SQRT are rounded from exact integers.
EXP2, LOG2 and TANH are enclosed between two rationals at 256 fixed-point bits, and at twice as many again until both ends
round alike (log entry 20). -/

namespace Sys2Proof

/-- The greatest integer whose square is at most n, found bit by bit from 2^b down. -/
def isqrtFrom : Nat → Nat → Nat → Nat
  | 0, n, r => if (r + 1) * (r + 1) ≤ n then r + 1 else r
  | b + 1, n, r =>
    let r' := r + 2 ^ (b + 1)
    isqrtFrom b n (if r' * r' ≤ n then r' else r)

def isqrt (n : Nat) : Nat := isqrtFrom (n.log2 / 2 + 1) n 0

/-- A positive rational N/D × 2^e. -/
structure Quo where
  N : Nat
  D : Nat
  e : Int
  deriving DecidableEq, Repr

/-- √(N × 2^e) as a number that rounds alike: exact, or the middle of two neighbours of 2^-64 spacing. -/
def sqrtQuo (m : Nat) (e : Int) : Quo :=
  let odd := e % 2 = 1
  let m' := (if odd then 2 * m else m) * 2 ^ 160
  let e' := ((if odd then e - 1 else e) - 160) / 2
  let s := isqrt m'
  if s * s = m' then ⟨s, 1, e'⟩ else ⟨2 * s + 1, 2, e'⟩

/-- 1/√(m × 2^e) in the same way. -/
def rsqrtQuo (m : Nat) (e : Int) : Quo :=
  let odd := e % 2 = 1
  let m' := if odd then 2 * m else m
  let e' := if odd then e - 1 else e
  let big := 2 ^ 320
  let s := isqrt (big / m')
  if s * s * m' = big then ⟨s, 1, -160 - e' / 2⟩ else ⟨2 * s + 1, 2, -160 - e' / 2⟩

/-! ### Fixed point at p bits -/

/-- One. -/
def fxOne (p : Nat) : Nat := 2 ^ p

/-- Products and quotients of non-negative fixed-point numbers, rounded down. -/
def fxMul (p a b : Nat) : Nat := a * b / fxOne p
def fxDiv (p a b : Nat) : Nat := a * fxOne p / b

/-- Σ z^(2i+1)/(2i+1), the inverse hyperbolic tangent of z ≤ 1/3. -/
def fxAtanhFrom (p : Nat) : Nat → Nat → Nat → Nat → Nat
  | 0, _, _, _ => 0
  | n + 1, k, x, zz => x / k + fxAtanhFrom p n (k + 2) (fxMul p x zz) zz

/-- Each term is less than a ninth of the one before. -/
def fxAtanh (p z : Nat) : Nat := fxAtanhFrom p (p / 3 + 5) 1 z (fxMul p z z)

/-- ln 2 = 2 atanh(1/3). -/
def fxLn2 (p : Nat) : Nat := 2 * fxAtanh p (fxOne p / 3)

/-- Σ z^i/i!. -/
def fxExpFrom (p : Nat) : Nat → Nat → Nat → Nat → Nat
  | 0, _, x, _ => x
  | n + 1, k, x, z => x + fxExpFrom p n (k + 1) (fxMul p x z / k) z

/-- e^z for z in 0 to 1: from the eighth on, each term is less than an eighth of the one before. -/
def fxExp (p z : Nat) : Nat := fxExpFrom p (p / 3 + 8) 1 (fxOne p) z

/-- Bound on the error of any of these sums, in units of 2^-p. -/
def fxErr (p : Nat) : Nat := 256 * p

/-- m × 2^e in fixed point, rounded down. -/
def fxOf (p m : Nat) (e : Int) : Nat :=
  let k := e + p
  if 0 ≤ k then m * 2 ^ k.toNat else m / 2 ^ (-k).toNat

/-- What one precision answers: the lower end of the enclosure rounded, and whether the upper end rounds alike. -/
abbrev Enclosed := Nat × Bool

/-- A code known without an enclosure. -/
def sure (code : Nat) : Enclosed := (code, true)

/-- Both ends of an enclosure rounded. -/
def roundEnds (f : Fmt) (rm : RMode) (sat : Bool) (draw : Nat) (neg : Bool) (lo hi : Quo) : Enclosed :=
  let a := roundQ f rm sat draw neg lo.N lo.D lo.e
  (a, a == roundQ f rm sat draw neg hi.N hi.D hi.e)

/-- Doubles the precision until both ends round alike (log entry 20). -/
def untilAgreed (f : Nat → Enclosed) : Nat → Nat → Nat
  | 0, p => (f p).1
  | n + 1, p => if (f p).2 then (f p).1 else untilAgreed f n (2 * p)

/-- EXP2 of a finite non-zero x = (−1)^neg m 2^e at p bits. -/
def exp2Fin (rm : RMode) (sat : Bool) (draw : Nat) (neg : Bool) (m : Nat) (e : Int) (p : Nat) : Enclosed :=
  let w := (m.log2 : Int) + e
  if 9 ≤ w then sure (roundQ .f32 rm sat draw false 1 1 (if neg then -512 else 512))
  else if w < -60 then sure (roundQ .f32 rm sat draw false (if neg then 2 ^ 70 - 1 else 2 ^ 70 + 1) 1 (-70))
  else
    let fx : Int := if neg then -(fxOf p m e : Int) else fxOf p m e
    let k : Int := fx / (fxOne p : Int)
    let fr := (fx % (fxOne p : Int)).toNat
    if fr = 0 then sure (roundQ .f32 rm sat draw false 1 1 k)
    else
      let y := fxExp p (fxMul p fr (fxLn2 p))
      roundEnds .f32 rm sat draw false ⟨y - fxErr p, 1, k - p⟩ ⟨y + fxErr p, 1, k - p⟩

/-- LOG2 of a positive finite x = m 2^e at p bits. -/
def log2Fin (rm : RMode) (sat : Bool) (draw : Nat) (m : Nat) (e : Int) (p : Nat) : Enclosed :=
  let b := m.log2
  let k : Int := (b : Int) + e
  if m = 2 ^ b then sure (roundQ .f32 rm sat draw (k < 0) k.natAbs 1 0)
  else
    let z := fxDiv p (m - 2 ^ b) (m + 2 ^ b)
    let l := fxDiv p (2 * fxAtanh p z) (fxLn2 p)
    let lo : Int := k * (fxOne p : Int) + l - (fxErr p : Int)
    let hi : Int := k * (fxOne p : Int) + l + (fxErr p : Int)
    if lo < 0 then
      let r := roundEnds .f32 rm sat draw true ⟨hi.natAbs, 1, -p⟩ ⟨lo.natAbs, 1, -p⟩
      (r.1, r.2 && hi < 0)
    else roundEnds .f32 rm sat draw false ⟨lo.natAbs, 1, -p⟩ ⟨hi.natAbs, 1, -p⟩

/-- TANH of a finite non-zero x at p bits. -/
def tanhFin (rm : RMode) (sat : Bool) (draw : Nat) (neg : Bool) (m : Nat) (e : Int) (p : Nat) : Enclosed :=
  let w := (m.log2 : Int) + e
  if 6 ≤ w then sure (roundQ .f32 rm sat draw neg (2 ^ 70 - 1) 1 (-70))
  else if w < -40 then sure (roundQ .f32 rm sat draw neg (m * 2 ^ 70 - 1) 1 (e - 70))
  else
    let y := fxDiv p (2 * fxOf p m e) (fxLn2 p)
    let k := y / fxOne p
    let ex := fxExp p (fxMul p (y % fxOne p) (fxLn2 p)) * 2 ^ k
    let er := fxErr p * 2 ^ k * 256
    let lo := ex - er
    let hi := ex + er
    roundEnds .f32 rm sat draw neg ⟨lo - fxOne p, lo + fxOne p, 0⟩ ⟨hi - fxOne p, hi + fxOne p, 0⟩

/-- The six functions of R409. -/
inductive TransFn where
  | rcp | rsq | sqrt | exp2 | log2 | tanh
  deriving DecidableEq, Repr

/-- The F32 code of a function's result at the F32 code `x` (R242). -/
def transF32 (fn : TransFn) (rm : RMode) (sat : Bool) (draw : Nat) (x : Nat) : Nat :=
  let out (v : Val) : Nat := roundVal .f32 rm sat draw v
  match decFmt .f32 x with
  | .nan => out .nan
  | .inf neg =>
    match fn with
    | .rcp => out (.fin neg 0 0)
    | .rsq => out (if neg then .nan else .fin false 0 0)
    | .sqrt => out (if neg then .nan else .inf false)
    | .exp2 => out (if neg then .fin false 0 0 else .inf false)
    | .log2 => out (if neg then .nan else .inf false)
    | .tanh => out (.fin neg 1 0)
  | .fin neg m e =>
    if m = 0 then
      match fn with
      | .rcp | .rsq => out (.inf neg)
      | .sqrt | .tanh => out (.fin neg 0 0)
      | .exp2 => out (.fin false 1 0)
      | .log2 => out (.inf true)
    else
      match fn with
      | .rcp => roundQ .f32 rm sat draw neg 1 m (-e)
      | .rsq => if neg then out .nan else let q := rsqrtQuo m e; roundQ .f32 rm sat draw false q.N q.D q.e
      | .sqrt => if neg then out .nan else let q := sqrtQuo m e; roundQ .f32 rm sat draw false q.N q.D q.e
      | .exp2 => untilAgreed (exp2Fin rm sat draw neg m e) 10 256
      | .log2 => if neg then out .nan else untilAgreed (log2Fin rm sat draw m e) 10 256
      | .tanh => untilAgreed (tanhFin rm sat draw neg m e) 10 256

end Sys2Proof
end

