-- ==== Sys2Proof/Machine/Float.lean ====
section
/-! DEFINITION. Float instructions (R406 to R409). -/

namespace Sys2Proof.Machine
open Sys2Proof

/-- A float result of exact values, rounded once (R407). -/
def issueRound (opc : BitVec 10) (o : Op) (s : State) (r : RMode → Val → Val → Val → Val) :
    Host.Outcome State Fault Refusal :=
  issueFlt opc o s fun f draw a b d =>
    roundVal f (opMode o) o.sat draw (r (opMode o) (decFmt f a) (decFmt f b) (decFmt f d))

/-- A float result that needs no rounding: the value's code, or the canonical NaN (R408). -/
def issueExact (opc : BitVec 10) (o : Op) (s : State) (r : Val → Val → Val) : Host.Outcome State Fault Refusal :=
  issueFlt opc o s fun f _ a b _ => roundVal f .rne false 0 (r (decFmt f a) (decFmt f b))

/-- FADD (R407). -/
def execFadd (o : Op) (s : State) : Host.Outcome State Fault Refusal :=
  issueRound 0x100 o s fun rm x y _ => x.add rm y

/-- FSUB (R407). -/
def execFsub (o : Op) (s : State) : Host.Outcome State Fault Refusal :=
  issueRound 0x101 o s fun rm x y _ => x.add rm y.neg

/-- FMUL (R407). -/
def execFmul (o : Op) (s : State) : Host.Outcome State Fault Refusal :=
  issueRound 0x102 o s fun _ x y _ => x.mul y

/-- FMA (R407). -/
def execFma (o : Op) (s : State) : Host.Outcome State Fault Refusal :=
  issueRound 0x103 o s fun rm x y z => (x.mul y).add rm z

/-- FMIN (R408). -/
def execFmin (o : Op) (s : State) : Host.Outcome State Fault Refusal := issueExact 0x104 o s Val.min2

/-- FMAX (R408). -/
def execFmax (o : Op) (s : State) : Host.Outcome State Fault Refusal := issueExact 0x105 o s Val.max2

/-- FABS (R408). -/
def execFabs (o : Op) (s : State) : Host.Outcome State Fault Refusal := issueExact 0x106 o s fun x _ => x.abs

/-- FNEG (R408). -/
def execFneg (o : Op) (s : State) : Host.Outcome State Fault Refusal := issueExact 0x107 o s fun x _ => x.neg

/-- FCMP (R408). -/
def execFcmp (o : Op) (s : State) : Host.Outcome State Fault Refusal :=
  issuePlain 0x108 o s (fun _ => []) fun c s' =>
    s'.modCur c (writePred s c o fun l =>
      let x := setFor s c o l
      let f := o.ty.fmt.getD .f32
      let b := if o.immBit then immPattern o.ty x.imm else (laneVal c x.b l).toNat
      fltCond o.kFlt.toNat (decFmt f (laneVal c x.a l).toNat) (decFmt f b))

/-- FCLASS of a lane: one class, or one per 16 bits for a packed type (R408). -/
def fclassLane (t : Ty) (a : Nat) : Nat :=
  let f := t.fmt.getD .f32
  if t.isPacked then classOf f (elemOf t a 0) + 65536 * classOf f (elemOf t a 1) else classOf f a

/-- FCLASS (R408). -/
def execFclass (o : Op) (s : State) : Host.Outcome State Fault Refusal :=
  issueLanes 0x109 o s false noAff fun c l =>
    let x := setFor s c o l
    fclassLane o.ty (laneVal c x.a l).toNat

/-- FSGN of codes: the magnitude of x with the sign bit of y; a NaN x gives the canonical NaN (R408). -/
def fsgnOf (f : Fmt) (a b : Nat) : Nat :=
  if (decFmt f a).isNan then f.nanCode else a % f.signBit + b / f.signBit % 2 * f.signBit

/-- FSGN (R408). -/
def execFsgn (o : Op) (s : State) : Host.Outcome State Fault Refusal := issueFlt 0x10A o s fun f _ a b _ => fsgnOf f a b

/-- The power of two of FLDX for element e (R407). -/
def fldxCount (t : Ty) (b e : Nat) : Int := if t.isPacked then readInt true 16 (b / 2 ^ (16 * e)) else readInt true 32 b

/-- FLDX (R407). -/
def execFldx (o : Op) (s : State) : Host.Outcome State Fault Refusal :=
  issueLanes 0x10B o s false noAff fun c l =>
    let x := setFor s c o l
    let b := (laneVal c x.b l).toNat
    let f := o.ty.fmt.getD .f32
    fltLane o (laneVal c x.a l).toNat 0 0 fun e p _ _ =>
      roundVal f (opMode o) o.sat (drawFor c l e) ((decFmt f p).ldexp (fldxCount o.ty b e))

/-- x rounded to an integral value (R407): a negative x that rounds to zero gives −0. -/
def frndOf (rm : RMode) (draw : Nat) (x : Val) : Val :=
  match x with
  | .fin neg m e => .fin neg (roundToInt rm draw neg m 1 e).natAbs 0
  | v => v

/-- FRND (R407). -/
def execFrnd (o : Op) (s : State) : Host.Outcome State Fault Refusal :=
  issueFlt 0x10C o s fun f draw a _ _ => roundVal f .rne false 0 (frndOf (opMode o) draw (decFmt f a))

/-- FDOT2 of a lane: two products and an F32 addend, rounded once (R407). -/
def fdot2Of (t : Ty) (rm : RMode) (sat : Bool) (draw a b d : Nat) : Nat :=
  let f := t.fmt.getD .f16
  let p (e : Nat) : Val := (decFmt f (elemOf t a e)).mul (decFmt f (elemOf t b e))
  roundVal .f32 rm sat draw (((p 0).add rm (p 1)).add rm (decFmt .f32 d))

/-- FDOT2 (R407). -/
def execFdot2 (o : Op) (s : State) : Host.Outcome State Fault Refusal :=
  issueLanes 0x10D o s false noAff fun c l =>
    let x := setFor s c o l
    fdot2Of o.ty (opMode o) o.sat (drawFor c l 0) (laneVal c x.a l).toNat (laneVal c x.b l).toNat (laneVal c x.c l).toNat

/-- Issues one of the six functions. -/
def issueTrans (opc : BitVec 10) (o : Op) (s : State) (fn : TransFn) : Host.Outcome State Fault Refusal :=
  issueLanes opc o s false noAff fun c l =>
    transF32 fn (opMode o) o.sat (drawFor c l 0) (laneVal c (setFor s c o l).a l).toNat

/-- RCP (R409). -/
def execRcp (o : Op) (s : State) : Host.Outcome State Fault Refusal := issueTrans 0x110 o s .rcp
/-- RSQ (R409). -/
def execRsq (o : Op) (s : State) : Host.Outcome State Fault Refusal := issueTrans 0x111 o s .rsq
/-- SQRT (R409). -/
def execSqrt (o : Op) (s : State) : Host.Outcome State Fault Refusal := issueTrans 0x112 o s .sqrt
/-- EXP2 (R409). -/
def execExp2 (o : Op) (s : State) : Host.Outcome State Fault Refusal := issueTrans 0x113 o s .exp2
/-- LOG2 (R409). -/
def execLog2 (o : Op) (s : State) : Host.Outcome State Fault Refusal := issueTrans 0x114 o s .log2
/-- TANH (R409). -/
def execTanh (o : Op) (s : State) : Host.Outcome State Fault Refusal := issueTrans 0x115 o s .tanh

end Sys2Proof.Machine
end

