-- ==== Sys2Proof/Machine/Convert.lean ====
section
/-! DEFINITION. Conversions, packing, block scales and the spare code (R410 to R415). -/

namespace Sys2Proof.Machine
open Sys2Proof

/-- The destination format of a conversion. -/
def dstFmt (o : Op) : Fmt := o.ty.fmt.getD .f32
/-- The source type of a conversion. -/
def srcTy (o : Op) : Ty := o.sty.getD .f32

/-- Places rounded elements in a lane by R412: `r` maps the draw's element number and the source element to a code. -/
def convLane (o : Op) (old : Nat) (r : Nat → Nat → Nat) : Nat :=
  if o.ty.isPacked && (srcTy o).isPacked then packElems o.ty ((List.range o.ty.elems).map fun e => r e e)
  else if o.ty.isPacked then setElem o.ty old o.kFlt.toNat (r o.kFlt.toNat 0)
  else fillLane o.ty (r 0 (if (srcTy o).isPacked then o.kFlt.toNat else 0))

/-- Issues a conversion to a float format. -/
def issueConv (opc : BitVec 10) (o : Op) (s : State) (r : Cur → OpSet → Nat → Nat → Nat → Nat) :
    Host.Outcome State Fault Refusal :=
  issueLanes opc o s false noAff fun c l =>
    let x := setFor s c o l
    convLane o (laneVal c x.d l).toNat fun e k => r c x l (drawFor c l e) k

/-- The unscaled value of element k of A (R411). -/
def convSrc (c : Cur) (o : Op) (x : OpSet) (l k : Nat) : Val :=
  dec ((srcTy o).fmt.getD .f32) (elemOf (srcTy o) (laneVal c x.a l).toNat k) plainMeta

/-- CVT (R411). -/
def execCvt (o : Op) (s : State) : Host.Outcome State Fault Refusal :=
  issueConv 0x118 o s fun c x l draw k => roundVal (dstFmt o) (opMode o) o.sat draw (convSrc c o x l k)

/-- A float value converted to an integer type (R238). -/
def fltToInt (t : Ty) (rm : RMode) (draw : Nat) (v : Val) : Nat :=
  match v with
  | .nan => 0
  | .inf neg => wrapNat t.width (if neg then intMin t.isSigned t.width else intMax t.isSigned t.width)
  | .fin neg m e => wrapNat t.width (satInt t.isSigned t.width (roundToInt rm draw neg m 1 e))

/-- CVTI (R411): a float source by R238, an integer source by WRAP or SAT. -/
def execCvti (o : Op) (s : State) : Host.Outcome State Fault Refusal :=
  issueLanes 0x119 o s o.ty.is64 noAff fun c l =>
    let x := setFor s c o l
    laneOf o.ty <|
      if (srcTy o).isInt then
        reduceInt o.ty o.sat (intOf (srcTy o) (srcNat c (srcTy o).is64 x.a l))
      else fltToInt o.ty (opMode o) (drawFor c l 0) (convSrc c o x l 0)

/-- CVTF (R411, R238). -/
def execCvtf (o : Op) (s : State) : Host.Outcome State Fault Refusal :=
  issueConv 0x11A o s fun c x l draw _ =>
    let n := intOf (srcTy o) (srcNat c (srcTy o).is64 x.a l)
    roundVal (dstFmt o) (opMode o) o.sat draw (.fin (n < 0) n.natAbs 0)

/-- ROUND(v / σ) with σ of a metadata word (R411). -/
def roundScaled (f : Fmt) (rm : RMode) (sat : Bool) (draw : Nat) (v : Val) (md : Nat) : Nat :=
  match sigmaOf md, v with
  | none, _ => roundVal f rm sat draw .nan
  | some (a, k), .fin neg m e => roundQ f rm sat draw neg m a (e - k)
  | some _, v => roundVal f rm sat draw v

/-- CVTS (R411). -/
def execCvts (o : Op) (s : State) : Host.Outcome State Fault Refusal :=
  issueConv 0x11B o s fun c x l draw k =>
    roundScaled (dstFmt o) (opMode o) o.sat draw (convSrc c o x l k) (laneVal c x.b l).toNat

/-- CVTD (R411). -/
def execCvtd (o : Op) (s : State) : Host.Outcome State Fault Refusal :=
  issueConv 0x11C o s fun c x l draw k =>
    roundVal (dstFmt o) (opMode o) o.sat draw
      (dec ((srcTy o).fmt.getD .f32) (elemOf (srcTy o) (laneVal c x.a l).toNat k) ((laneVal c x.b l).toNat % 65536))

/-- The source value of element e of PACK (R413). -/
def packSrc (t : Ty) (a b e : Nat) : Val :=
  if t.elems = 2 then decFmt .f32 (if e = 0 then a else b)
  else decFmt .f16 ((if e < 2 then a else b) / 2 ^ (16 * (e % 2)) % 65536)

/-- PACK (R413). -/
def execPack (o : Op) (s : State) : Host.Outcome State Fault Refusal :=
  issueLanes 0x11D o s false noAff fun c l =>
    let x := setFor s c o l
    packElems o.ty ((List.range o.ty.elems).map fun e =>
      roundVal (dstFmt o) (opMode o) o.sat (drawFor c l e) (packSrc o.ty (laneVal c x.a l).toNat (laneVal c x.b l).toNat e))

/-- UNPK (R413). -/
def execUnpk (o : Op) (s : State) : Host.Outcome State Fault Refusal :=
  issueLanes 0x11E o s false noAff fun c l =>
    let x := setFor s c o l
    rne32 (decFmt (dstFmt o) (elemOf o.ty (laneVal c x.a l).toNat o.kFlt.toNat))

/-- The largest finite magnitude SCALE fits to (R414). -/
def scaleMax (f : Fmt) : Val := decFmt f f.maxCode

/-- SE × 4 + SM of the least scale that fits a magnitude (R414). -/
def scaleFit (f : Fmt) (a : Val) : Nat :=
  match a with
  | .nan | .inf _ => 4 * 255
  | .fin _ 0 _ => 0
  | a => ((List.range 1020).find? fun i => a.cmp ((scaleMax f).scale i) != some .gt).getD 1019

/-- SCALE (R414). -/
def execScale (o : Op) (s : State) : Host.Outcome State Fault Refusal :=
  issueLanes 0x120 o s false noAff fun c l =>
    let x := setFor s c o l
    (laneVal c x.b l).toNat / 1024 % 64 * 1024 + scaleFit (dstFmt o) (decFmt .f32 (laneVal c x.a l).toNat).abs

/-- SPSEL puts the spare code in a lane (R415): both distances are compared after multiplication by σ, which is exact. -/
def spselPlaces (d a md : Nat) : Bool :=
  let x := decFmt .f32 a
  let code := d % 16
  match sigmaOf md with
  | none => false
  | some _ =>
    code != 8 && !x.isNan &&
      (let near := (x.add .rne ((spareOf (md % 65536)).scale md).neg).abs
       let far := (x.add .rne ((dec .e2m1 code plainMeta).scale md).neg).abs
       near.cmp far == some .lt)

/-- SPSEL (R415). -/
def execSpsel (o : Op) (s : State) : Host.Outcome State Fault Refusal :=
  issuePlain 0x122 o s (fun _ => []) fun c s' =>
    s'.modCur c fun g => (lanesOf (activeLanes s c o)).foldl (fun g l =>
      if spselPlaces (laneVal c o.d l).toNat (laneVal c o.a l).toNat (laneVal c o.b l).toNat then
        setLane g o.d.toNat l 8 else g) g

end Sys2Proof.Machine
end

