-- ==== Sys2Proof/Machine/Integer.lean ====
section
/-! DEFINITION. Integer, logic, shift and bit-field instructions, compares, selects and moves (R397 to R404). -/

namespace Sys2Proof.Machine
open Sys2Proof

/-- An exact integer result of two sources, reduced to the type (R400). -/
def issueArith (opc : BitVec 10) (o : Op) (s : State) (aff : Cur → Option (Word × Word)) (f : Int → Int → Int) :
    Host.Outcome State Fault Refusal :=
  issueInt opc o s aff fun _ _ _ a b _ => reduceInt o.ty o.sat (f (intOf o.ty a) (intOf o.ty b))

/-- An exact integer result of three sources, reduced to the type (R400). -/
def issueArith3 (opc : BitVec 10) (o : Op) (s : State) (f : Int → Int → Int → Int) : Host.Outcome State Fault Refusal :=
  issueInt opc o s noAff fun _ _ _ a b d => reduceInt o.ty o.sat (f (intOf o.ty a) (intOf o.ty b) (intOf o.ty d))

/-- A result on patterns of the type's width. -/
def issueBits (opc : BitVec 10) (o : Op) (s : State) (f : Nat → Nat → Nat) : Host.Outcome State Fault Refusal :=
  issueInt opc o s noAff fun _ _ _ a b _ => f a b

/-- ADD (R400, R397). -/
def execAdd (o : Op) (s : State) : Host.Outcome State Fault Refusal :=
  issueArith 0x080 o s (fun c => affTwo c o fun x y => some (x.1 + y.1, x.2 + y.2)) fun x y => x + y

/-- SUB (R400, R397). -/
def execSub (o : Op) (s : State) : Host.Outcome State Fault Refusal :=
  issueArith 0x081 o s (fun c => affTwo c o fun x y => some (x.1 - y.1, x.2 - y.2)) fun x y => x - y

/-- The affine product: one factor uniform (R397). -/
def affMul (o : Op) (x y : Word × Word) : Option (Word × Word) :=
  if o.immBit || uniformSrc o.b then some (x.1 * y.1, x.2 * y.1)
  else if uniformSrc o.a then some (y.1 * x.1, y.2 * x.1)
  else none

/-- MUL (R400, R397). -/
def execMul (o : Op) (s : State) : Host.Outcome State Fault Refusal :=
  issueArith 0x082 o s (fun c => affTwo c o (affMul o)) fun x y => x * y

/-- MULH: the upper half of the exact product (R400). -/
def execMulh (o : Op) (s : State) : Host.Outcome State Fault Refusal :=
  issueArith 0x083 o s noAff fun x y => (x * y).fdiv (2 ^ o.ty.width : Nat)

/-- MAD (R400). -/
def execMad (o : Op) (s : State) : Host.Outcome State Fault Refusal :=
  issueArith3 0x084 o s fun x y z => x * y + z

/-- SHA: shift right by k, then add (R400). -/
def execSha (o : Op) (s : State) : Host.Outcome State Fault Refusal :=
  issueInt 0x085 o s noAff fun _ _ x a b _ =>
    reduceInt o.ty o.sat ((intOf o.ty a).fdiv (2 ^ x.k : Nat) + intOf o.ty b)

/-- The quotient of DIV (R401). -/
def divOf (t : Ty) (sat : Bool) (x y : Int) : Nat := if y = 0 then 2 ^ t.width - 1 else reduceInt t sat (x.tdiv y)

/-- DIV (R401). -/
def execDiv (o : Op) (s : State) : Host.Outcome State Fault Refusal :=
  issueInt 0x086 o s noAff fun _ _ _ a b _ => divOf o.ty o.sat (intOf o.ty a) (intOf o.ty b)

/-- The remainder of REM (R401). -/
def remOf (t : Ty) (x y : Int) : Nat := if y = 0 then wrapNat t.width x else wrapNat t.width (x.tmod y)

/-- REM (R401). -/
def execRem (o : Op) (s : State) : Host.Outcome State Fault Refusal :=
  issueInt 0x087 o s noAff fun _ _ _ a b _ => remOf o.ty (intOf o.ty a) (intOf o.ty b)

/-- MIN (R400). -/
def execMin (o : Op) (s : State) : Host.Outcome State Fault Refusal :=
  issueArith 0x088 o s noAff fun x y => if y < x then y else x

/-- MAX (R400). -/
def execMax (o : Op) (s : State) : Host.Outcome State Fault Refusal :=
  issueArith 0x089 o s noAff fun x y => if x < y then y else x

/-- ABS (R400). -/
def execAbs (o : Op) (s : State) : Host.Outcome State Fault Refusal :=
  issueArith 0x08A o s noAff fun x _ => if x < 0 then -x else x

/-- NEG (R400). -/
def execNeg (o : Op) (s : State) : Host.Outcome State Fault Refusal :=
  issueArith 0x08B o s noAff fun x _ => -x

/-- CLAMP (R400). -/
def execClamp (o : Op) (s : State) : Host.Outcome State Fault Refusal :=
  issueArith3 0x08C o s fun x y z => let m := if x < y then y else x; if z < m then z else m

/-- AND (R400). -/
def execAndd (o : Op) (s : State) : Host.Outcome State Fault Refusal := issueBits 0x090 o s fun x y => x &&& y

/-- OR (R400). -/
def execOrr (o : Op) (s : State) : Host.Outcome State Fault Refusal := issueBits 0x091 o s fun x y => x ||| y

/-- XOR (R400). -/
def execXorr (o : Op) (s : State) : Host.Outcome State Fault Refusal := issueBits 0x092 o s fun x y => x ^^^ y

/-- NOT (R400). -/
def execNott (o : Op) (s : State) : Host.Outcome State Fault Refusal :=
  issueBits 0x093 o s fun x _ => 2 ^ o.ty.width - 1 - x

/-- ANDN (R400). -/
def execAndn (o : Op) (s : State) : Host.Outcome State Fault Refusal :=
  issueBits 0x094 o s fun x y => x &&& (2 ^ o.ty.width - 1 - y)

/-- A shift's count: K, or the N32 value of B (R402). -/
def countOf (c : Cur) (o : Op) (x : OpSet) (l : Nat) : Nat := if o.var = 1 then (laneVal c x.b l).toNat else x.k

/-- A shift by a count. -/
def issueShift (opc : BitVec 10) (o : Op) (s : State) (aff : Cur → Option (Word × Word)) (f : Nat → Nat → Nat) :
    Host.Outcome State Fault Refusal :=
  issueInt opc o s aff fun c l x a _ _ => f a (countOf c o x l)

/-- SHL of a pattern (R402): counts of the width or more give what a count of the width gives, under WRAP and under
SAT. -/
def shlOf (t : Ty) (sat : Bool) (a n : Nat) : Nat := reduceInt t sat (intOf t a * (2 ^ (if n < t.width then n else t.width) : Nat))

/-- SHL (R402, R397). -/
def execShl (o : Op) (s : State) : Host.Outcome State Fault Refusal :=
  issueShift 0x098 o s
    (fun c => if affOk o && o.var == 0 then (affineSrc c o.a).map fun (x : Word × Word) => (x.1 <<< o.kInt.toNat, x.2 <<< o.kInt.toNat) else none)
    (shlOf o.ty o.sat)

/-- SHR (R402). -/
def execShr (o : Op) (s : State) : Host.Outcome State Fault Refusal :=
  issueShift 0x099 o s noAff fun a n => if n < o.ty.width then a / 2 ^ n else 0

/-- SAR (R402). -/
def execSar (o : Op) (s : State) : Host.Outcome State Fault Refusal :=
  issueShift 0x09A o s noAff fun a n =>
    wrapNat o.ty.width ((readInt true o.ty.width a).fdiv (2 ^ (if n < o.ty.width then n else o.ty.width) : Nat))

/-- A pattern of width w rotated left (R402). -/
def rolOf (w a n : Nat) : Nat := let k := n % w; (a * 2 ^ k + a / 2 ^ (w - k)) % 2 ^ w

/-- ROL (R402). -/
def execRol (o : Op) (s : State) : Host.Outcome State Fault Refusal :=
  issueShift 0x09B o s noAff fun a n => rolOf o.ty.width a n

/-- A field of f bits at p, extended by the type (R403). -/
def bfxOf (t : Ty) (a p f : Nat) : Nat :=
  let n := if f < t.width - p then f else t.width - p
  if n = 0 then 0 else wrapNat t.width (readInt t.isSigned n (a / 2 ^ p))

/-- BFX (R403). -/
def execBfx (o : Op) (s : State) : Host.Outcome State Fault Refusal :=
  issueInt 0x0A0 o s noAff fun c l x a _ _ =>
    bfxOf o.ty a x.k (if o.immBit then x.imm.toNat else (laneVal c x.b l).toNat % 128)

/-- Bits p to p + f − 1 of a replaced by the low bits of b (R403). -/
def bfiOf (w a b p f : Nat) : Nat :=
  let n := if f < w - p then f else w - p
  a - a / 2 ^ p % 2 ^ n * 2 ^ p + b % 2 ^ n * 2 ^ p

/-- BFI (R403). -/
def execBfi (o : Op) (s : State) : Host.Outcome State Fault Refusal :=
  issueInt 0x0A1 o s noAff fun c l x a b _ =>
    bfiOf o.ty.width a b o.kInt.toNat ((laneVal c x.c l).toNat % 128)

/-- POPC (R403). -/
def execPopc (o : Op) (s : State) : Host.Outcome State Fault Refusal :=
  issueBits 0x0A2 o s fun x _ => ((List.range o.ty.width).filter fun i => x.testBit i).length

/-- CLZ (R403). -/
def execClz (o : Op) (s : State) : Host.Outcome State Fault Refusal :=
  issueBits 0x0A3 o s fun x _ => if x = 0 then o.ty.width else o.ty.width - 1 - x.log2

/-- BREV (R403). -/
def execBrev (o : Op) (s : State) : Host.Outcome State Fault Refusal :=
  issueBits 0x0A4 o s fun x _ =>
    ((List.range o.ty.width).filter fun i => x.testBit i).foldl (fun r i => r + 2 ^ (o.ty.width - 1 - i)) 0

/-- CMP (R404). -/
def execCmp (o : Op) (s : State) : Host.Outcome State Fault Refusal :=
  issuePlain 0x0A8 o s (fun _ => []) fun c s' =>
    s'.modCur c (writePred s c o fun l =>
      let x := setFor s c o l
      intCond o.kInt.toNat (intOf o.ty (patA c o x l)) (intOf o.ty (patB c o x l)))

/-- The bits of a type that SEL and MOV copy: a packed type fills the lane. -/
def copyTy (t : Ty) : Ty := if t.isPacked then .n32 else t

/-- SEL (R404). -/
def execSel (o : Op) (s : State) : Host.Outcome State Fault Refusal :=
  issueLanes 0x0A9 o s o.ty.is64 noAff fun c l =>
    let x := setFor s c o l
    laneOf (copyTy o.ty) (srcNat c o.ty.is64 (if (predOf c.grp (x.c.toNat - 0xE0)).getLsbD l then x.a else x.b) l)

/-- MOV (R404, R397). -/
def execMov (o : Op) (s : State) : Host.Outcome State Fault Refusal :=
  issueLanes 0x0AA o s o.ty.is64 (fun c => if affOk o && !o.immBit then affineSrc c o.a else none) fun c l =>
    let x := setFor s c o l
    laneOf (copyTy o.ty)
      (if o.immBit then immPattern o.ty x.imm else srcNat c o.ty.is64 x.a l % 2 ^ (copyTy o.ty).width)

end Sys2Proof.Machine
end

