-- ==== Sys2Proof/Machine/Lane.lean ====
section
/-! DEFINITION. Lane operations: shuffles, broadcast, permute, dot product, LANE, RDLANE and WRLANE (R405). -/

namespace Sys2Proof.Machine
open Sys2Proof

/-- A shuffle: lane l takes A of the source lane `src` names when that lane is active in l's face, else its own. -/
def issueShuffle (opc : BitVec 10) (o : Op) (s : State) (src : Cur → Nat → Option Nat) :
    Host.Outcome State Fault Refusal :=
  issueLanes opc o s false noAff fun c l =>
    match src c l with
    | some k => if k < 32 && (faceLanes s c o l).getLsbD k then (laneVal c o.a k).toNat else (laneVal c o.a l).toNat
    | none => (laneVal c o.a l).toNat

/-- The count of a shuffle: K, or the N32 value of B (R405). -/
def shuffleCount (c : Cur) (o : Op) (l : Nat) : Nat := if o.var = 1 then (laneVal c o.b l).toNat else o.kInt.toNat

/-- SHFL.IDX (R405). -/
def execShflIdx (o : Op) (s : State) : Host.Outcome State Fault Refusal :=
  issueShuffle 0x0B0 o s fun c l => some ((laneVal c o.b l).toNat % 32)

/-- SHFL.UP (R405). -/
def execShflUp (o : Op) (s : State) : Host.Outcome State Fault Refusal :=
  issueShuffle 0x0B1 o s fun c l => if shuffleCount c o l ≤ l then some (l - shuffleCount c o l) else none

/-- SHFL.DN (R405). -/
def execShflDn (o : Op) (s : State) : Host.Outcome State Fault Refusal :=
  issueShuffle 0x0B2 o s fun c l => some (l + shuffleCount c o l)

/-- SHFL.XOR (R405). -/
def execShflXor (o : Op) (s : State) : Host.Outcome State Fault Refusal :=
  issueShuffle 0x0B3 o s fun c l => some (l ^^^ (shuffleCount c o l % 32))

/-- BCAST (R405). -/
def execBcast (o : Op) (s : State) : Host.Outcome State Fault Refusal :=
  issueShuffle 0x0B4 o s fun c l => lowest (faceLanes s c o l)

/-- One result byte of PRMT: the byte nibble `n` selects of an 8-byte value. -/
def prmtByte (v n : Nat) : Nat :=
  let b := v / 2 ^ (8 * (n % 8)) % 256
  if 8 ≤ n % 16 then (if 128 ≤ b then 255 else 0) else b

/-- PRMT of a lane (R405). -/
def prmtOf (a b sel : Nat) : Nat :=
  let v := a + b * 2 ^ 32
  natOfBytes ((List.range 4).map fun i => BitVec.ofNat 8 (prmtByte v (sel / 2 ^ (4 * i))))

/-- PRMT (R405). -/
def execPrmt (o : Op) (s : State) : Host.Outcome State Fault Refusal :=
  issueLanes 0x0B5 o s false noAff fun c l =>
    let x := setFor s c o l
    prmtOf (laneVal c x.a l).toNat (laneVal c x.b l).toNat (laneVal c x.c l).toNat

/-- Σ of the products of the four bytes of two lanes (R405). -/
def dot4Of (signed : Bool) (a b : Nat) : Int :=
  (List.range 4).foldl (fun acc e =>
    acc + readInt signed 8 (a / 2 ^ (8 * e)) * readInt signed 8 (b / 2 ^ (8 * e))) 0

/-- DOT4 (R405). -/
def execDot4 (o : Op) (s : State) : Host.Outcome State Fault Refusal :=
  issueInt 0x0B6 o s noAff fun _ _ _ a b d => reduceInt o.ty o.sat (intOf o.ty d + dot4Of o.ty.isSigned a b)

/-- LANE's A and B must be uniform or immediate and its D general or affine, else SHAPE (R405). -/
def laneFaults (s : State) (c : Cur) (o : Op) : List FaultInfo :=
  if uniformSrc o.a && (o.immBit || uniformSrc o.b) && !isUni o.d then []
  else [{ code := codeShape, lanes := activeLanes s c o, aux := o.d.setWidth 32 }]

/-- B of LANE. -/
def laneStep (c : Cur) (o : Op) : Word :=
  if o.immBit then BitVec.ofNat 32 (immPattern o.ty o.imm16) else laneVal c o.b 0

/-- LANE (R405). -/
def execLane (o : Op) (s : State) : Host.Outcome State Fault Refusal :=
  issuePlain 0x0B8 o s
    (fun c => laneFaults s c o ++ shapeFaults s c 0x0B8 o (if affOk o then some (laneVal c o.a 0, laneStep c o) else none))
    fun c s' => s'.modCur c (writeResult s c o false (some (laneVal c o.a 0, laneStep c o)) fun l =>
      (laneVal c o.a 0 + BitVec.ofNat 32 l * laneStep c o).toNat)

/-- RDLANE (R405): a fixed lane, whatever its face or activity. -/
def execRdlane (o : Op) (s : State) : Host.Outcome State Fault Refusal :=
  issueLanes 0x0B9 o s false noAff fun c _ =>
    (laneVal c o.a (fixedLane c o)).toNat

/-- WRLANE (R405): only lane k, if active. -/
def execWrlane (o : Op) (s : State) : Host.Outcome State Fault Refusal :=
  issuePlain 0x0BA o s (fun _ => []) fun c s' =>
    let k := fixedLane c o
    if (activeLanes s c o).getLsbD k then s'.modCur c fun g => setLane g o.d.toNat k (laneVal c o.a k) else s'

end Sys2Proof.Machine
end

