-- ==== Sys2Proof/Machine/Predicate.lean ====
section
/-! DEFINITION. Predicate operations and votes (R387, R388), and tile predicates (R473). -/

namespace Sys2Proof.Machine
open Sys2Proof

/-- Bit l of the predicate register a field names. -/
def predBit (c : Cur) (r : BitVec 8) (l : Nat) : Bool := (predOf c.grp (r.toNat - 0xE0)).getLsbD l

/-- Issues a predicate operation on two predicate sources. -/
def issuePred (opc : BitVec 10) (o : Op) (s : State) (f : Bool → Bool → Bool) : Host.Outcome State Fault Refusal :=
  issuePlain opc o s (fun _ => []) fun c s' =>
    s'.modCur c (writePred s c o fun l =>
      let x := setFor s c o l
      f (predBit c x.a l) (predBit c x.b l))

/-- PAND (R387). -/
def execPand (o : Op) (s : State) : Host.Outcome State Fault Refusal := issuePred 0x018 o s fun a b => a && b
/-- POR (R387). -/
def execPor (o : Op) (s : State) : Host.Outcome State Fault Refusal := issuePred 0x019 o s fun a b => a || b
/-- PXOR (R387). -/
def execPxor (o : Op) (s : State) : Host.Outcome State Fault Refusal := issuePred 0x01A o s fun a b => a != b
/-- PANDN (R387). -/
def execPandn (o : Op) (s : State) : Host.Outcome State Fault Refusal := issuePred 0x01B o s fun a b => a && !b
/-- PNOT (R387). -/
def execPnot (o : Op) (s : State) : Host.Outcome State Fault Refusal := issuePred 0x01C o s fun a _ => !a
/-- PMOV (R387). -/
def execPmov (o : Op) (s : State) : Host.Outcome State Fault Refusal := issuePred 0x01D o s fun a _ => a

/-- PFROM (R387). -/
def execPfrom (o : Op) (s : State) : Host.Outcome State Fault Refusal :=
  issuePlain 0x01E o s (fun _ => []) fun c s' =>
    s'.modCur c (writePred s c o fun l => laneVal c (setFor s c o l).a l != 0)

/-- PTO (R387). -/
def execPto (o : Op) (s : State) : Host.Outcome State Fault Refusal :=
  issueLanes 0x01F o s false noAff fun c l => (predBit c (setFor s c o l).a l).toNat

/-- Issues a vote that writes a predicate: `f` sees the lane's face and the predicate (R388). -/
def issueVotePred (opc : BitVec 10) (o : Op) (s : State) (f : Word → Word → Bool) : Host.Outcome State Fault Refusal :=
  issuePlain opc o s (fun _ => []) fun c s' =>
    s'.modCur c (writePred s c o fun l => f (faceLanes s c o l) (predOf c.grp (o.a.toNat - 0xE0)))

/-- Issues a vote that writes a general register (R388). -/
def issueVoteVal (opc : BitVec 10) (o : Op) (s : State) (f : Word → Word → Nat) : Host.Outcome State Fault Refusal :=
  issueLanes opc o s false noAff fun c l => f (faceLanes s c o l) (predOf c.grp (o.a.toNat - 0xE0))

/-- VOTE.ALL (R388). -/
def execVoteAll (o : Op) (s : State) : Host.Outcome State Fault Refusal := issueVotePred 0x020 o s voteAllOf
/-- VOTE.ANY (R388). -/
def execVoteAny (o : Op) (s : State) : Host.Outcome State Fault Refusal := issueVotePred 0x021 o s voteAnyOf
/-- VOTE.UNI (R388). -/
def execVoteUni (o : Op) (s : State) : Host.Outcome State Fault Refusal := issueVotePred 0x022 o s voteUniOf
/-- BALLOT (R388). -/
def execBallot (o : Op) (s : State) : Host.Outcome State Fault Refusal :=
  issueVoteVal 0x023 o s fun f p => (voteSet f p).toNat
/-- PCNT (R388). -/
def execPcnt (o : Op) (s : State) : Host.Outcome State Fault Refusal := issueVoteVal 0x024 o s pcntOf
/-- PFIRST (R388). -/
def execPfirst (o : Op) (s : State) : Host.Outcome State Fault Refusal := issueVoteVal 0x025 o s pfirstOf

end Sys2Proof.Machine
end

