-- ==== Sys2Proof/Machine/Reduce.lean ====
section
/-! DEFINITION. Reductions across the lanes of a face and the largest magnitude (R248, R416, R417). -/

namespace Sys2Proof.Machine
open Sys2Proof

/-- One level of the tree: the lower half combined with the upper half. -/
def redLevel (op : Nat → Nat → Nat) (ys : List Nat) : List Nat :=
  let w := ys.length / 2
  List.zipWith op (ys.take w) (ys.drop w)

/-- REDUCE over 32 values (R248). -/
def redTree (op : Nat → Nat → Nat) (ys : List Nat) : Nat :=
  (redLevel op (redLevel op (redLevel op (redLevel op (redLevel op ys))))).headD 0

/-- The 32 values of a reduction: the face's lanes, and IDENT elsewhere. -/
def redInputs (face : Word) (ident : Nat) (x : Nat → Nat) : List Nat :=
  (List.range 32).map fun l => if face.getLsbD l then x l else ident

/-- Issues a reduction in the element type: every active lane of a face receives its value (R416). -/
def issueReduce (opc : BitVec 10) (o : Op) (s : State) (ident : Nat) (op : Nat → Nat → Nat) :
    Host.Outcome State Fault Refusal :=
  issueLanes opc o s o.ty.is64 noAff fun c l =>
    laneOf o.ty (redTree op (redInputs (faceLanes s c o l) ident fun k => patA c o (setFor s c o k) k))

/-- One step of REDADD (R416). -/
def redAddStep (o : Op) (a b : Nat) : Nat :=
  match o.ty.fmt with
  | some f => roundVal f (opMode o) false 0 ((decFmt f a).add (opMode o) (decFmt f b))
  | none => reduceInt o.ty o.sat (intOf o.ty a + intOf o.ty b)

/-- IDENT of addition (R248). -/
def redAddIdent (t : Ty) : Nat := match t.fmt with | some f => f.signBit | none => 0

/-- REDADD (R416). -/
def execRedadd (o : Op) (s : State) : Host.Outcome State Fault Refusal :=
  issueReduce 0x128 o s (redAddIdent o.ty) (redAddStep o)

/-- One step of REDMIN or REDMAX (R416). -/
def redCmpStep (o : Op) (isMax : Bool) (a b : Nat) : Nat :=
  match o.ty.fmt with
  | some f =>
    let x := decFmt f a
    let y := decFmt f b
    roundVal f .rne false 0 (if isMax then x.max2 y else x.min2 y)
  | none => if (intOf o.ty b < intOf o.ty a) != isMax then b else a

/-- IDENT of minimum and maximum (R248). -/
def redCmpIdent (t : Ty) (isMax : Bool) : Nat :=
  match t.fmt with
  | some f => overflowCode f .rne false isMax true
  | none => wrapNat t.width (if isMax then intMin t.isSigned t.width else intMax t.isSigned t.width)

/-- REDMIN (R416). -/
def execRedmin (o : Op) (s : State) : Host.Outcome State Fault Refusal :=
  issueReduce 0x129 o s (redCmpIdent o.ty false) (redCmpStep o false)

/-- REDMAX (R416). -/
def execRedmax (o : Op) (s : State) : Host.Outcome State Fault Refusal :=
  issueReduce 0x12A o s (redCmpIdent o.ty true) (redCmpStep o true)

/-- REDAND (R416). -/
def execRedand (o : Op) (s : State) : Host.Outcome State Fault Refusal :=
  issueReduce 0x12B o s (2 ^ o.ty.width - 1) fun a b => a &&& b

/-- REDOR (R416). -/
def execRedor (o : Op) (s : State) : Host.Outcome State Fault Refusal := issueReduce 0x12C o s 0 fun a b => a ||| b

/-- REDXOR (R416). -/
def execRedxor (o : Op) (s : State) : Host.Outcome State Fault Refusal := issueReduce 0x12D o s 0 fun a b => a ^^^ b

/-- The larger of two magnitudes, NaN above all (R417). -/
def amaxStep (x y : Val) : Val := if x.isNan || y.isNan then .nan else if x.below y then y else x

/-- The largest magnitude over the elements of a face's lanes (R417). -/
def amaxOf (s : State) (c : Cur) (o : Op) (l : Nat) : Val :=
  let f := o.ty.fmt.getD .f32
  (lanesOf (faceLanes s c o l)).foldl (fun m k =>
    (List.range o.ty.elems).foldl (fun m e =>
      amaxStep m (decFmt f (elemOf o.ty (laneVal c o.a k).toNat e)).abs) m) (.fin false 0 0)

/-- VAMAX (R417). -/
def execVamax (o : Op) (s : State) : Host.Outcome State Fault Refusal :=
  issueLanes 0x121 o s false noAff fun c l =>
    let r := roundVal (o.ty.fmt.getD .f32) .rne false 0 (amaxOf s c o l)
    if o.ty.isPacked then packElems o.ty ((List.range o.ty.elems).map fun _ => r) else fillLane o.ty r

end Sys2Proof.Machine
end

