-- ==== Sys2Proof/Machine/Tile.lean ====
section
/-! DEFINITION. Tile-predicate instructions (R473). -/

namespace Sys2Proof.Machine
open Sys2Proof

/-- The tile predicate a field names. -/
def tileReg (c : Cur) (r : BitVec 8) : DWord := FMap.get 0 c.grp.r.t (r.toNat - 0xF0)

/-- Issues a tile-predicate instruction whose destination is a `t` register. -/
def issueTile (opc : BitVec 10) (o : Op) (s : State) (f : Cur → DWord) : Host.Outcome State Fault Refusal :=
  issueWhole opc o s (fun _ => []) fun c s =>
    finish c o (s.modCur c fun g => setTile g (o.d.toNat - 0xF0) (f c))

/-- TSET (R473). -/
def execTset (o : Op) (s : State) : Host.Outcome State Fault Refusal := issueTile 0x230 o s fun c => pairVal c o.a 0
/-- TAND (R473). -/
def execTand (o : Op) (s : State) : Host.Outcome State Fault Refusal :=
  issueTile 0x231 o s fun c => tileReg c o.a &&& tileReg c o.b
/-- TOR (R473). -/
def execTor (o : Op) (s : State) : Host.Outcome State Fault Refusal :=
  issueTile 0x232 o s fun c => tileReg c o.a ||| tileReg c o.b
/-- TNOT (R473). -/
def execTnot (o : Op) (s : State) : Host.Outcome State Fault Refusal := issueTile 0x233 o s fun c => ~~~tileReg c o.a

/-- SHAPE of TMOV to an `s` pair under a guard that differs over M (R202, R473); it comes before UNIFORM. -/
def tmovFaults (s : State) (c : Cur) (o : Op) : List FaultInfo :=
  if isUni o.d then shapeFaults s c 0x234 o none else []

/-- TMOV (R473). -/
def execTmov (o : Op) (s : State) : Host.Outcome State Fault Refusal :=
  issue 0x234 o s
    (fun c => tmovFaults s c o ++ partialGuard c o 0 ++ joinFault s c (fallThrough c o))
    fun c s =>
      if pathGuard c o = .all then
        finish c o (s.modCur c fun g =>
          if isUni o.d then setUniN g true (o.d.toNat - 0xA0) (tileReg c o.a).toNat
          else setTile g (o.d.toNat - 0xF0) (tileReg c o.a))
      else finish c o s

end Sys2Proof.Machine
end

