-- ==== Sys2Proof/Machine/Dispatch.lean ====
section
/-! DEFINITION. One arm per instruction and event, each a direct call of its meaning. -/

namespace Sys2Proof.Machine
open Sys2Proof

/-- What one instruction or event does to the state. -/
def exec (i : Instr) (s : State) : Host.Outcome State Fault Refusal :=
  match i with
  | .powerOnReset => Sys2Proof.Machine.execPowerOnReset s
  | .bootGo => Sys2Proof.Machine.execBootGo s
  | .measurementExtend => Sys2Proof.Machine.execMeasurementExtend s
  | .fwcWdogWrite => Sys2Proof.Machine.execFwcWdogWrite s
  | .serviceWatchdogExpiry => Sys2Proof.Machine.execServiceWatchdogExpiry s
  | .controlWatchdogExpiry => Sys2Proof.Machine.execControlWatchdogExpiry s
  | .semaphoreAcquire => Sys2Proof.Machine.execSemaphoreAcquire s
  | .semaphoreRelease => Sys2Proof.Machine.execSemaphoreRelease s
  | .registerWrite => Sys2Proof.Machine.execRegisterWrite s
  | .registerReadClear => Sys2Proof.Machine.execRegisterReadClear s
  | .pwrVclWrite => Sys2Proof.Machine.execPwrVclWrite s
  | .pwrVtailWrite => Sys2Proof.Machine.execPwrVtailWrite s
  | .clkClfWrite => Sys2Proof.Machine.execClkClfWrite s
  | .pwrCstatHoldWrite => Sys2Proof.Machine.execPwrCstatHoldWrite s
  | .cxaCadWrite => Sys2Proof.Machine.execCxaCadWrite s
  | .pwrPlimWrite => Sys2Proof.Machine.execPwrPlimWrite s
  | .gtickStart => Sys2Proof.Machine.execGtickStart s
  | .regulatorSlewDone => Sys2Proof.Machine.execRegulatorSlewDone s
  | .pllLock => Sys2Proof.Machine.execPllLock s
  | .powerLimiterTick => Sys2Proof.Machine.execPowerLimiterTick s
  | .supplyDroop => Sys2Proof.Machine.execSupplyDroop s
  | .sensorSample => Sys2Proof.Machine.execSensorSample s
  | .migrationRetry => Sys2Proof.Machine.execMigrationRetry s
  | .bandwidthInterval => Sys2Proof.Machine.execBandwidthInterval s
  | .hbmStackReset => Sys2Proof.Machine.execHbmStackReset s
  | .hbmCaTraining => Sys2Proof.Machine.execHbmCaTraining s
  | .hbmLaneRepair => Sys2Proof.Machine.execHbmLaneRepair s
  | .hbmReadTraining => Sys2Proof.Machine.execHbmReadTraining s
  | .hbmWriteTraining => Sys2Proof.Machine.execHbmWriteTraining s
  | .hbmVrefSweep => Sys2Proof.Machine.execHbmVrefSweep s
  | .hbmOperational => Sys2Proof.Machine.execHbmOperational s
  | .hbmTrainingStepDone => Sys2Proof.Machine.execHbmTrainingStepDone s
  | .uciePortEnable => Sys2Proof.Machine.execUciePortEnable s
  | .uciePortReset => Sys2Proof.Machine.execUciePortReset s
  | .ucieTrainingDone => Sys2Proof.Machine.execUcieTrainingDone s
  | .ucieLinkDown => Sys2Proof.Machine.execUcieLinkDown s
  | .ucieSidebandMessage => Sys2Proof.Machine.execUcieSidebandMessage s
  | .ucieUnknownMessage => Sys2Proof.Machine.execUcieUnknownMessage s
  | .hostRd => Sys2Proof.Machine.execHostRd s
  | .hostWr => Sys2Proof.Machine.execHostWr s
  | .hostWake => Sys2Proof.Machine.execHostWake s
  | .cxlResponse => Sys2Proof.Machine.execCxlResponse s
  | .cxlRequestTimeout => Sys2Proof.Machine.execCxlRequestTimeout s
  | .cplrPortEnable => Sys2Proof.Machine.execCplrPortEnable s
  | .cplrPortDisable => Sys2Proof.Machine.execCplrPortDisable s
  | .cplrLoopback => Sys2Proof.Machine.execCplrLoopback s
  | .cplrVlthrWrite => Sys2Proof.Machine.execCplrVlthrWrite s
  | .cplrReceiverDetect => Sys2Proof.Machine.execCplrReceiverDetect s
  | .cplrDetectTimeout => Sys2Proof.Machine.execCplrDetectTimeout s
  | .cplrBitLock => Sys2Proof.Machine.execCplrBitLock s
  | .cplrDeskew => Sys2Proof.Machine.execCplrDeskew s
  | .cplrEqualised => Sys2Proof.Machine.execCplrEqualised s
  | .cplrIdentityExchange => Sys2Proof.Machine.execCplrIdentityExchange s
  | .cplrLossOfLock => Sys2Proof.Machine.execCplrLossOfLock s
  | .cplrRetrainDone => Sys2Proof.Machine.execCplrRetrainDone s
  | .cplrRetrainTimeout => Sys2Proof.Machine.execCplrRetrainTimeout s
  | .dataFlitSend => Sys2Proof.Machine.execDataFlitSend s
  | .idleFlitSend => Sys2Proof.Machine.execIdleFlitSend s
  | .flitReceive => Sys2Proof.Machine.execFlitReceive s
  | .gtickAlignSend => Sys2Proof.Machine.execGtickAlignSend s
  | .gtickAlignReceive => Sys2Proof.Machine.execGtickAlignReceive s
  | .homeAccess => Sys2Proof.Machine.execHomeAccess s
  | .accessRsp => Sys2Proof.Machine.execAccessRsp s
  | .accessAck => Sys2Proof.Machine.execAccessAck s
  | .accessErr => Sys2Proof.Machine.execAccessErr s
  | .e2eTimeout => Sys2Proof.Machine.execE2eTimeout s
  | .deferReceive => Sys2Proof.Machine.execDeferReceive s
  | .sideLogReplay => Sys2Proof.Machine.execSideLogReplay s
  | .replayDoneMarker => Sys2Proof.Machine.execReplayDoneMarker s
  | .parkTimeout => Sys2Proof.Machine.execParkTimeout s
  | .sideLogTimeout => Sys2Proof.Machine.execSideLogTimeout s
  | .sideLogFullTimeout => Sys2Proof.Machine.execSideLogFullTimeout s
  | .tlbWritebackTimer => Sys2Proof.Machine.execTlbWritebackTimer s
  | .epochAdvance => Sys2Proof.Machine.execEpochAdvance s
  | .sidingRelease => Sys2Proof.Machine.execSidingRelease s
  | .shootdownInvalidate => Sys2Proof.Machine.execShootdownInvalidate s
  | .xltRootWrite => Sys2Proof.Machine.execXltRootWrite s
  | .xltHringWrite => Sys2Proof.Machine.execXltHringWrite s
  | .xltHheadWrite => Sys2Proof.Machine.execXltHheadWrite s
  | .fwcElogWrite => Sys2Proof.Machine.execFwcElogWrite s
  | .fwcElheadWrite => Sys2Proof.Machine.execFwcElheadWrite s
  | .queCtlWrite => Sys2Proof.Machine.execQueCtlWrite s
  | .queBaseWrite => Sys2Proof.Machine.execQueBaseWrite s
  | .queueGo => Sys2Proof.Machine.execQueueGo s
  | .quantumExpiry => Sys2Proof.Machine.execQuantumExpiry s
  | .queueRead => Sys2Proof.Machine.execQueueRead s
  | .commandStart => Sys2Proof.Machine.execCommandStart s
  | .yelenoLaunch => Sys2Proof.Machine.execYelenoLaunch s
  | .graph => Sys2Proof.Machine.execGraph s
  | .waitCmd => Sys2Proof.Machine.execWaitCmd s
  | .waitLimitExpiry => Sys2Proof.Machine.execWaitLimitExpiry s
  | .cancel => Sys2Proof.Machine.execCancel s
  | .mapCmd => Sys2Proof.Machine.execMapCmd s
  | .unmapCmd => Sys2Proof.Machine.execUnmapCmd s
  | .harvest => Sys2Proof.Machine.execHarvest s
  | .shootdown => Sys2Proof.Machine.execShootdown s
  | .wload => Sys2Proof.Machine.execWload s
  | .quiesceHold => Sys2Proof.Machine.execQuiesceHold s
  | .quiesceRelease => Sys2Proof.Machine.execQuiesceRelease s
  | .partitionCmd => Sys2Proof.Machine.execPartitionCmd s
  | .readCounters => Sys2Proof.Machine.execReadCounters s
  | .attest => Sys2Proof.Machine.execAttest s
  | .dspLmapWrite => Sys2Proof.Machine.execDspLmapWrite s
  | .launchRequest => Sys2Proof.Machine.execLaunchRequest s
  | .reserveStart => Sys2Proof.Machine.execReserveStart s
  | .packageReserve => Sys2Proof.Machine.execPackageReserve s
  | .dieReserve => Sys2Proof.Machine.execDieReserve s
  | .dieAnswer => Sys2Proof.Machine.execDieAnswer s
  | .packageAnswer => Sys2Proof.Machine.execPackageAnswer s
  | .reserveTimeout => Sys2Proof.Machine.execReserveTimeout s
  | .commitMsg => Sys2Proof.Machine.execCommitMsg s
  | .rollbackMsg => Sys2Proof.Machine.execRollbackMsg s
  | .relayHoldTimeout => Sys2Proof.Machine.execRelayHoldTimeout s
  | .launchlostReport => Sys2Proof.Machine.execLaunchlostReport s
  | .walkerStart => Sys2Proof.Machine.execWalkerStart s
  | .placementAttempt => Sys2Proof.Machine.execPlacementAttempt s
  | .workReaskTimer => Sys2Proof.Machine.execWorkReaskTimer s
  | .split => Sys2Proof.Machine.execSplit s
  | .rangeReceive => Sys2Proof.Machine.execRangeReceive s
  | .stallTimeout => Sys2Proof.Machine.execStallTimeout s
  | .tileCountReport => Sys2Proof.Machine.execTileCountReport s
  | .tileCountUpdate => Sys2Proof.Machine.execTileCountUpdate s
  | .launchDoneWrite => Sys2Proof.Machine.execLaunchDoneWrite s
  | .cancelMsg => Sys2Proof.Machine.execCancelMsg s
  | .cancelledBlockRemove => Sys2Proof.Machine.execCancelledBlockRemove s
  | .faultSummary => Sys2Proof.Machine.execFaultSummary s
  | .launchStatusReturn => Sys2Proof.Machine.execLaunchStatusReturn s
  | .runGrant => Sys2Proof.Machine.execRunGrant s
  | .groupDue => Sys2Proof.Machine.execGroupDue s
  | .longResultReturn => Sys2Proof.Machine.execLongResultReturn s
  | .faultBlockEnd => Sys2Proof.Machine.execFaultBlockEnd s
  | .blockRetire => Sys2Proof.Machine.execBlockRetire s
  | .preemptionStopComplete => Sys2Proof.Machine.execPreemptionStopComplete s
  | .migrationTransfer => Sys2Proof.Machine.execMigrationTransfer s
  | .depotSend => Sys2Proof.Machine.execDepotSend s
  | .promoteReceive => Sys2Proof.Machine.execPromoteReceive s
  | .promoteAck => Sys2Proof.Machine.execPromoteAck s
  | .copyBeatDeliver => Sys2Proof.Machine.execCopyBeatDeliver s
  | .copyDescriptorComplete => Sys2Proof.Machine.execCopyDescriptorComplete s
  | .bookingGrant => Sys2Proof.Machine.execBookingGrant s
  | .arrayOpComplete => Sys2Proof.Machine.execArrayOpComplete s
  | .wsWindowEnd => Sys2Proof.Machine.execWsWindowEnd s
  | .qmuOpComplete => Sys2Proof.Machine.execQmuOpComplete s
  | .nestComplete => Sys2Proof.Machine.execNestComplete s
  | .mpathComplete => Sys2Proof.Machine.execMpathComplete s
  | .memoryWaitRecheck => Sys2Proof.Machine.execMemoryWaitRecheck s
  | .sleepExpiry => Sys2Proof.Machine.execSleepExpiry s
  | .eventCounterSelect => Sys2Proof.Machine.execEventCounterSelect s
  | .laneCycleRangeWrite => Sys2Proof.Machine.execLaneCycleRangeWrite s
  | .fidInject => Sys2Proof.Machine.execFidInject s
  | .stopArm => Sys2Proof.Machine.execStopArm s
  | .stopTargetWrite => Sys2Proof.Machine.execStopTargetWrite s
  | .stopArmMsg => Sys2Proof.Machine.execStopArmMsg s
  | .stopFire => Sys2Proof.Machine.execStopFire s
  | .watchHitReport => Sys2Proof.Machine.execWatchHitReport s
  | .traceRecordDrop => Sys2Proof.Machine.execTraceRecordDrop s
  | .nop o => Sys2Proof.Machine.execNop o s
  | .bra o => Sys2Proof.Machine.execBra o s
  | .braD o => Sys2Proof.Machine.execBraD o s
  | .jmpi o => Sys2Proof.Machine.execJmpi o s
  | .join o => Sys2Proof.Machine.execJoin o s
  | .call o => Sys2Proof.Machine.execCall o s
  | .calli o => Sys2Proof.Machine.execCalli o s
  | .ret o => Sys2Proof.Machine.execRet o s
  | .pad o => Sys2Proof.Machine.execPad o s
  | .exit o => Sys2Proof.Machine.execExit o s
  | .loop o => Sys2Proof.Machine.execLoop o s
  | .lend o => Sys2Proof.Machine.execLend o s
  | .meld o => Sys2Proof.Machine.execMeld o s
  | .endm o => Sys2Proof.Machine.execEndm o s
  | .mloop o => Sys2Proof.Machine.execMloop o s
  | .mnext o => Sys2Proof.Machine.execMnext o s
  | .pand o => Sys2Proof.Machine.execPand o s
  | .por o => Sys2Proof.Machine.execPor o s
  | .pxor o => Sys2Proof.Machine.execPxor o s
  | .pandn o => Sys2Proof.Machine.execPandn o s
  | .pnot o => Sys2Proof.Machine.execPnot o s
  | .pmov o => Sys2Proof.Machine.execPmov o s
  | .pfrom o => Sys2Proof.Machine.execPfrom o s
  | .pto o => Sys2Proof.Machine.execPto o s
  | .voteAll o => Sys2Proof.Machine.execVoteAll o s
  | .voteAny o => Sys2Proof.Machine.execVoteAny o s
  | .voteUni o => Sys2Proof.Machine.execVoteUni o s
  | .ballot o => Sys2Proof.Machine.execBallot o s
  | .pcnt o => Sys2Proof.Machine.execPcnt o s
  | .pfirst o => Sys2Proof.Machine.execPfirst o s
  | .trap o => Sys2Proof.Machine.execTrap o s
  | .yield o => Sys2Proof.Machine.execYield o s
  | .sleep o => Sys2Proof.Machine.execSleep o s
  | .brk o => Sys2Proof.Machine.execBrk o s
  | .add o => Sys2Proof.Machine.execAdd o s
  | .sub o => Sys2Proof.Machine.execSub o s
  | .mul o => Sys2Proof.Machine.execMul o s
  | .mulh o => Sys2Proof.Machine.execMulh o s
  | .mad o => Sys2Proof.Machine.execMad o s
  | .sha o => Sys2Proof.Machine.execSha o s
  | .div o => Sys2Proof.Machine.execDiv o s
  | .rem o => Sys2Proof.Machine.execRem o s
  | .min o => Sys2Proof.Machine.execMin o s
  | .max o => Sys2Proof.Machine.execMax o s
  | .abs o => Sys2Proof.Machine.execAbs o s
  | .neg o => Sys2Proof.Machine.execNeg o s
  | .clamp o => Sys2Proof.Machine.execClamp o s
  | .andd o => Sys2Proof.Machine.execAndd o s
  | .orr o => Sys2Proof.Machine.execOrr o s
  | .xorr o => Sys2Proof.Machine.execXorr o s
  | .nott o => Sys2Proof.Machine.execNott o s
  | .andn o => Sys2Proof.Machine.execAndn o s
  | .shl o => Sys2Proof.Machine.execShl o s
  | .shr o => Sys2Proof.Machine.execShr o s
  | .sar o => Sys2Proof.Machine.execSar o s
  | .rol o => Sys2Proof.Machine.execRol o s
  | .bfx o => Sys2Proof.Machine.execBfx o s
  | .bfi o => Sys2Proof.Machine.execBfi o s
  | .popc o => Sys2Proof.Machine.execPopc o s
  | .clz o => Sys2Proof.Machine.execClz o s
  | .brev o => Sys2Proof.Machine.execBrev o s
  | .cmp o => Sys2Proof.Machine.execCmp o s
  | .sel o => Sys2Proof.Machine.execSel o s
  | .mov o => Sys2Proof.Machine.execMov o s
  | .shflIdx o => Sys2Proof.Machine.execShflIdx o s
  | .shflUp o => Sys2Proof.Machine.execShflUp o s
  | .shflDn o => Sys2Proof.Machine.execShflDn o s
  | .shflXor o => Sys2Proof.Machine.execShflXor o s
  | .bcast o => Sys2Proof.Machine.execBcast o s
  | .prmt o => Sys2Proof.Machine.execPrmt o s
  | .dot4 o => Sys2Proof.Machine.execDot4 o s
  | .lane o => Sys2Proof.Machine.execLane o s
  | .rdlane o => Sys2Proof.Machine.execRdlane o s
  | .wrlane o => Sys2Proof.Machine.execWrlane o s
  | .fadd o => Sys2Proof.Machine.execFadd o s
  | .fsub o => Sys2Proof.Machine.execFsub o s
  | .fmul o => Sys2Proof.Machine.execFmul o s
  | .fma o => Sys2Proof.Machine.execFma o s
  | .fmin o => Sys2Proof.Machine.execFmin o s
  | .fmax o => Sys2Proof.Machine.execFmax o s
  | .fabs o => Sys2Proof.Machine.execFabs o s
  | .fneg o => Sys2Proof.Machine.execFneg o s
  | .fcmp o => Sys2Proof.Machine.execFcmp o s
  | .fclass o => Sys2Proof.Machine.execFclass o s
  | .fsgn o => Sys2Proof.Machine.execFsgn o s
  | .fldx o => Sys2Proof.Machine.execFldx o s
  | .frnd o => Sys2Proof.Machine.execFrnd o s
  | .fdot2 o => Sys2Proof.Machine.execFdot2 o s
  | .rcp o => Sys2Proof.Machine.execRcp o s
  | .rsq o => Sys2Proof.Machine.execRsq o s
  | .sqrt o => Sys2Proof.Machine.execSqrt o s
  | .exp2 o => Sys2Proof.Machine.execExp2 o s
  | .log2 o => Sys2Proof.Machine.execLog2 o s
  | .tanh o => Sys2Proof.Machine.execTanh o s
  | .cvt o => Sys2Proof.Machine.execCvt o s
  | .cvti o => Sys2Proof.Machine.execCvti o s
  | .cvtf o => Sys2Proof.Machine.execCvtf o s
  | .cvts o => Sys2Proof.Machine.execCvts o s
  | .cvtd o => Sys2Proof.Machine.execCvtd o s
  | .pack o => Sys2Proof.Machine.execPack o s
  | .unpk o => Sys2Proof.Machine.execUnpk o s
  | .scale o => Sys2Proof.Machine.execScale o s
  | .vamax o => Sys2Proof.Machine.execVamax o s
  | .spsel o => Sys2Proof.Machine.execSpsel o s
  | .redadd o => Sys2Proof.Machine.execRedadd o s
  | .redmin o => Sys2Proof.Machine.execRedmin o s
  | .redmax o => Sys2Proof.Machine.execRedmax o s
  | .redand o => Sys2Proof.Machine.execRedand o s
  | .redor o => Sys2Proof.Machine.execRedor o s
  | .redxor o => Sys2Proof.Machine.execRedxor o s
  | .ld o => Sys2Proof.Machine.execLd o s
  | .st o => Sys2Proof.Machine.execSt o s
  | .gath o => Sys2Proof.Machine.execGath o s
  | .scat o => Sys2Proof.Machine.execScat o s
  | .prf o => Sys2Proof.Machine.execPrf o s
  | .ldu o => Sys2Proof.Machine.execLdu o s
  | .ldt o => Sys2Proof.Machine.execLdt o s
  | .stt o => Sys2Proof.Machine.execStt o s
  | .aadd o => Sys2Proof.Machine.execAadd o s
  | .amin o => Sys2Proof.Machine.execAmin o s
  | .amax o => Sys2Proof.Machine.execAmax o s
  | .aand o => Sys2Proof.Machine.execAand o s
  | .aor o => Sys2Proof.Machine.execAor o s
  | .axor o => Sys2Proof.Machine.execAxor o s
  | .axch o => Sys2Proof.Machine.execAxch o s
  | .acas o => Sys2Proof.Machine.execAcas o s
  | .amaxr o => Sys2Proof.Machine.execAmaxr o s
  | .fence o => Sys2Proof.Machine.execFence o s
  | .cbar o => Sys2Proof.Machine.execCbar o s
  | .arrive o => Sys2Proof.Machine.execArrive o s
  | .waitp o => Sys2Proof.Machine.execWaitp o s
  | .arwt o => Sys2Proof.Machine.execArwt o s
  | .barBlk o => Sys2Proof.Machine.execBarBlk o s
  | .barClu o => Sys2Proof.Machine.execBarClu o s
  | .waitn o => Sys2Proof.Machine.execWaitn o s
  | .waitmem o => Sys2Proof.Machine.execWaitmem o s
  | .mile o => Sys2Proof.Machine.execMile o s
  | .invl1 o => Sys2Proof.Machine.execInvl1 o s
  | .mstat o => Sys2Proof.Machine.execMstat o s
  | .mswap o => Sys2Proof.Machine.execMswap o s
  | .mswapRel o => Sys2Proof.Machine.execMswapRel o s
  | .mstream o => Sys2Proof.Machine.execMstream o s
  | .mdrain o => Sys2Proof.Machine.execMdrain o s
  | .mdrainFold o => Sys2Proof.Machine.execMdrainFold o s
  | .mfold o => Sys2Proof.Machine.execMfold o s
  | .mzero o => Sys2Proof.Machine.execMzero o s
  | .qmma o => Sys2Proof.Machine.execQmma o s
  | .qmov o => Sys2Proof.Machine.execQmov o s
  | .qzero o => Sys2Proof.Machine.execQzero o s
  | .qfold o => Sys2Proof.Machine.execQfold o s
  | .copy o => Sys2Proof.Machine.execCopy o s
  | .copyr o => Sys2Proof.Machine.execCopyr o s
  | .nest o => Sys2Proof.Machine.execNest o s
  | .lbuf o => Sys2Proof.Machine.execLbuf o s
  | .mpath o => Sys2Proof.Machine.execMpath o s
  | .bmap o => Sys2Proof.Machine.execBmap o s
  | .bpack o => Sys2Proof.Machine.execBpack o s
  | .tset o => Sys2Proof.Machine.execTset o s
  | .tand o => Sys2Proof.Machine.execTand o s
  | .tor o => Sys2Proof.Machine.execTor o s
  | .tnot o => Sys2Proof.Machine.execTnot o s
  | .tmov o => Sys2Proof.Machine.execTmov o s
  | .launch o => Sys2Proof.Machine.execLaunch o s
  | .lwait o => Sys2Proof.Machine.execLwait o s
  | .lcancel o => Sys2Proof.Machine.execLcancel o s
  | .hitch o => Sys2Proof.Machine.execHitch o s
  | .rdsr o => Sys2Proof.Machine.execRdsr o s
  | .wrsr o => Sys2Proof.Machine.execWrsr o s
  | .feat o => Sys2Proof.Machine.execFeat o s
  | .fuseProgramming => Sys2Proof.Machine.execFuseProgramming s
  | .bringUpFailure => Sys2Proof.Machine.execBringUpFailure s
  | .firmwareReady => Sys2Proof.Machine.execFirmwareReady s
  | .vsrSupplyChange => Sys2Proof.Machine.execVsrSupplyChange s
  | .referenceClockChange => Sys2Proof.Machine.execReferenceClockChange s
  | .cxlExpanderTraining => Sys2Proof.Machine.execCxlExpanderTraining s

end Sys2Proof.Machine
end

