-- ==== Sys2Proof/Machine/Step.lean ====
section
/-! DEFINITION. One step of the machine: the next turn of the agenda. -/

namespace Sys2Proof.Machine
open Sys2Proof

/-- One step: an event, an error of a memory or an access of a firmware core befalls the machine, a partition executes one instruction
of its run, or, with no turn waiting, the machine chooses its next turns (log entry 2). A turn whose cluster has no clock waits for it (R55). -/
def step (s : State) : Host.Outcome State Fault Refusal :=
  match s.agenda with
  | t :: rest =>
    if s.mustWait t then .next { s with agenda := rest, frozen := s.frozen ++ [t] }
    else
      match t with
      | .event i x => exec i { s with agenda := rest, inp := x }
      | .upset u => .next (State.upset { s with agenda := rest } u)
      | .firm a => .next (State.fwAccess { s with agenda := rest } a)
      | .issue core part =>
        match State.ready { s with agenda := rest } core part with
        | .run i s => exec i s
        | .done s => .next s
  | [] => .next s.auto

/-- Where `withFetchWord` puts an instruction: the first byte of region 0 of this package. -/
def fetchPc : DWord := 0x1FF#64 <<< 47

/-- The leaf that maps it: local placement, every permission, frame 0 (R98). -/
def fetchLeaf : DWord := 0x8E00000000000000

/-- The launch record its block runs under: one copy group with the widest budgets, 256 KiB of scratch, four tiles. -/
def fetchRec : LaunchRec :=
  { ctl := 0x01001801, dims := [0x00010001, 0, 0, 0, 0], span := 0x3FFFF, lbase := 0, feat := 0
    res := BitVec.ofNat 64 (64 * 2 ^ 55 + 4 * 2 ^ 52 + 256 * 2 ^ 42 + 8 * 2 ^ 30 + 16 * 2 ^ 15 + 1)
    wsmask := 0xFFFFFFFFFFFFFFFF, entry := fetchPc, arg := 0, cblk := 0x40, graph := 0, phase := 0, job := 0, place := 0
    seed := 0, clist := 0, rsvd := 0 }

/-- The group that runs it, all lanes at depth 0. -/
def fetchGroup : Group :=
  { gid := 0, role := 0, gslot := 0, w := 128, n := 64, segs := [(0, 128)], nrun := (0, 64)
    pa := some { pc := fetchPc, mask := 0xFFFFFFFF } }

/-- The state with an instruction placed where the next step fetches and runs it: a block with one group on core 0 whose
path stands at it, its page mapped, its bytes in memory (log entry 3). -/
def State.withFetchWord (s : State) (nbits w : Nat) : State :=
  let uid := s.cores.nextUid
  let b : Block := {
    uid := uid, core := 0, key := { pod := s.own, seq := 0 }, lrec := fetchRec, own := s.own, tile := 0, ext := 0
    extLen := 0x44000, scr := 0x40000, divs := 64, accts := [0, 1, 2, 3], groups := [fetchGroup] }
  let run : Run := { core := 0, part := 0, blk := uid, gid := 0, slotB := false }
  let va := s.resolve fetchPc
  let leaf : TlbEntry := { home := 0, page := va, size := 65536, leaf := fetchLeaf, die := 0, addr := 0x100000 }
  { s with
    agenda := [.issue 0 0]
    fab := { s.fab with
      mem := s.fab.mem.setBytes (spaceKey 0 0) (tableBytes nbits w)
      bad := s.fab.bad.filter fun k => 64 ≤ k
      reqs := s.fab.reqs.filter fun r => r.line != va && !ofGroup uid 0 r
      got := s.fab.got.filter fun r => r.line != va
      side := s.fab.side.filter fun e => e.core != 0
      l1 := s.fab.l1.filter fun l => l.line != va
      tlb := leaf :: s.fab.tlb }
    cores := { s.cores with
      blocks := b :: s.cores.blocks
      runs := run :: s.cores.runs.filter fun r => r.core != 0 || r.part != 0
      cur := none, nextUid := uid + 1 } }

end Sys2Proof.Machine
end

