-- ==== Sys2Proof/WellFormed.lean ====
section
/-! DEFINITION. Well-formed instructions: the checks of R363 on the fields of a term. A step that has no words is
well formed whatever the state holds. -/

namespace Sys2Proof

/-- BAR is two instructions of one opcode: the term's SCOPE is its own (R439, R440). -/
def Instr.barScopeOk : Instr → Bool
  | .barBlk o => o.scope == 1
  | .barClu o => o.scope == 2
  | _ => true

/-- Why a term is no instruction; nothing when it is one. -/
def Instr.bad (i : Instr) : Option DecodeError :=
  match i.parts with
  | some (opc, o) => if i.barScopeOk then checkOp opc o else some .badMod
  | none => none

/-- The term is an instruction. -/
def Instr.wf (i : Instr) : Bool := i.bad == none

/-- The step has words: it is a Dreoth instruction. -/
def Instr.hasWords (i : Instr) : Bool := i.parts.isSome

end Sys2Proof
end

