-- ==== Sys2Proof/Safety.lean ====
section
/-! DEFINITION. The terms in which claims about the machine are stated. -/

namespace Sys2Proof.Machine
open Sys2Proof

/-! ### What an instruction's group reads afterwards -/

/-- The registers of a group; nothing where the state holds no such group. -/
def State.groupRegs (s : State) (uid gid : Nat) : Option Regs := (s.group? uid gid).map fun g => g.r

/-- The registers of the group that issued, as a later state holds them. -/
def regsAfter (t : State) (c : Cur) : Regs := (t.groupRegs c.run.blk c.run.gid).getD {}

/-- The issuing view over the registers of a later state: what an operand of the same group reads there. -/
def Cur.after (c : Cur) (t : State) : Cur := { c with grp := { c.grp with r := regsAfter t c } }

/-- The issuing group and its path's slot, as a later state holds them. -/
def groupAfter (t : State) (c : Cur) : Option Group := t.group? c.run.blk c.run.gid
def slotAfter (t : State) (c : Cur) (slotB : Bool) : Option Path := (groupAfter t c).bind fun g => groupSlot g slotB

/-- The issuing path's slot holds a path at this PC with these lanes, at this depth of frames and of regions. -/
def PathAt (t : State) (c : Cur) (pc : DWord) (mask : Word) (depth rg : Nat) : Prop :=
  ∃ p, slotAfter t c c.run.slotB = some p ∧ p.pc = pc ∧ p.mask = mask ∧ p.depth = depth ∧ p.rg = rg

/-- The issuing path goes on at this PC, in every other way as it was. -/
def GoesTo (t : State) (c : Cur) (pc : DWord) : Prop := PathAt t c pc c.path.mask c.path.depth c.path.rg

/-- The issuing group is parked in the instruction on a condition. -/
def ParkedOn (t : State) (c : Cur) (cond : ParkCond) : Prop :=
  ∃ g k, groupAfter t c = some g ∧ g.park = some k ∧ k.cond = cond ∧ k.slotB = c.run.slotB

/-- The issuing run's turn is over. -/
def TurnOver (t : State) (c : Cur) : Prop := ∀ r ∈ t.cores.runs, ¬(r.core = c.run.core ∧ r.part = c.run.part)

/-- The issuing path stands where it stood and keeps its partition's issue slot: the instruction waits within its run. -/
def KeepsSlot (t : State) (c : Cur) : Prop :=
  slotAfter t c c.run.slotB = some c.path
    ∧ ∃ r ∈ t.cores.runs, r.core = c.run.core ∧ r.part = c.run.part ∧ r.blk = c.run.blk ∧ r.gid = c.run.gid
        ∧ r.slotB = c.run.slotB ∧ r.count = c.run.count ∧ r.stall ≠ none

/-- The path has lanes, and control passes to a PC that is not the join of its top frame (R368, R369). -/
structure Moves (s : State) (c : Cur) (next : DWord) : Prop where
  live : laneSet s c.blk c.run.gid c.path ≠ 0
  open_ : reachesJoin s c c.path next = false

/-- The issuing instruction passes the common checks, and its path moves to `next`. -/
structure Steps (s : State) (c : Cur) (opc : BitVec 10) (o : Op) (next : DWord) : Prop extends Moves s c next where
  current : s.current = some c
  checks  : commonFaults s c opc o = []

/-- The PAD checks of some targets all pass, each made after the fetches of the ones before it (R375, R378). -/
def PadsOk (c : Cur) (o : Op) : List (DWord × Word) → State → Prop
  | [], _ => True
  | (a, _) :: rest, s =>
    padCheck s c a o.tag = .ok ∧ PadsOk c o rest (s.fetchFill c.run.blk c.run.gid c.blk.core c.run.slotB a)

/-! ### What stays -/

/-- The debug unit notes no trace record (R308). -/
def State.traceOff (s : State) : Prop := s.reg .dbgTrctl 0 = 0

/-- Everything outside cores, memory, device registers and the debug unit's counts is the same. -/
structure SameRest (s t : State) : Prop where
  agenda  : t.agenda = s.agenda
  outside : t.outside = s.outside
  frozen  : t.frozen = s.frozen
  inp     : t.inp = s.inp
  free    : t.free = s.free
  clk     : t.clk = s.clk
  lau     : t.lau = s.lau
  que     : t.que = s.que
  lnk     : t.lnk = s.lnk
  th      : t.th = s.th
  fw      : t.fw = s.fw
  sent    : t.sent = s.sent

/-- A key lies in the live part of the issuing path's divergence stack (R166, R204). -/
def inStack (c : Cur) (k : Nat) : Prop :=
  frameKey c.blk c.run.gid 1 ≤ k ∧ k < frameKey c.blk c.run.gid 1 + 32 * c.path.depth

/-- A key lies in one of the n frames that a push of the issuing path makes, or in the frame that takes the other slot's path
(R166, R367). -/
def inPushed (c : Cur) (n k : Nat) : Prop :=
  (frameKey c.blk c.run.gid (c.path.depth + 1) ≤ k ∧ k < frameKey c.blk c.run.gid (c.path.depth + 1) + 32 * n)
    ∨ ∃ q, groupSlot c.grp (!c.run.slotB) = some q
        ∧ frameKey c.blk c.run.gid q.depth ≤ k ∧ k < frameKey c.blk c.run.gid q.depth + 32

/-- A key lies in the live part of some path's divergence stack. -/
def inStacks (s : State) (k : Nat) : Prop :=
  ∃ b ∈ s.cores.blocks, ∃ g ∈ b.groups, ∃ slotB p, groupSlot g slotB = some p
    ∧ frameKey b g.gid 1 ≤ k ∧ k < frameKey b g.gid 1 + 32 * p.depth

/-- A key lies in the n bytes of the block's scratch from an offset. -/
def inScr (b : Block) (off n k : Nat) : Prop := scrKey b off ≤ k ∧ k < scrKey b off + n

/-- A key lies in the companion word of a leaf that stands in a TLB, or of the one that translates a fetch of this address
(R96, R106). -/
def inCompanion (s : State) (pc : DWord) (k : Nat) : Prop :=
  let word (die addr : Nat) : Prop := spaceKey die (addr + 4096) ≤ k ∧ k < spaceKey die (addr + 4096) + 8
  (∃ e ∈ s.fab.tlb, word e.die e.addr)
    ∨ ∃ key e size die addr, s.check (homeOf (s.resolve pc)) .fetch (s.resolve pc) = .ok key e size die addr ∧ word die addr

/-- What lies outside cores, memory, device registers and counts stays; device registers as long as no trace is on, and memory
outside some keys. -/
structure MemFrame (s t : State) (touched : Nat → Prop) : Prop where
  rest : SameRest s t
  dev  : s.traceOff → t.dev = s.dev
  mem  : s.traceOff → ∀ k, ¬ touched k → t.fab.mem.byte k = s.fab.mem.byte k

/-! ### Instructions ready to take their effect -/

/-- The issuing instruction passes the checks of R186 that every instruction makes, and R369. -/
structure Issues (s : State) (c : Cur) (opc : BitVec 10) (o : Op) : Prop where
  current : s.current = some c
  checks  : commonFaults s c opc o = []
  join    : joinFault s c (fallThrough c o) = []

/-- The same, and its destination has a shape the result can take (R202, R397): `aff` is its affine result. -/
structure LaneReady (s : State) (c : Cur) (opc : BitVec 10) (o : Op) (aff : Option (Word × Word)) : Prop
    extends Issues s c opc o where
  shape   : shapeFaults s c opc o aff = []

/-- A destination reads as `f` gives it, in every active lane of a general or an affine register, and of a uniform
register for the lowest active lane: `f` gives the register's, or the pair's, bits. -/
def ResultIs (s t : State) (c : Cur) (o : Op) (wide : Bool) (f : Nat → Nat) : Prop :=
  ∀ l ∈ lanesOf (activeLanes s c o), (isUni o.d = true → lowest (activeLanes s c o) = some l) →
    srcNat (c.after t) wide (setFor s c o l).d l = f l % 2 ^ (if wide then 64 else 32)

/-- A predicate destination holds `f` in every active lane; `p7` reads as one. -/
def PredIs (s t : State) (c : Cur) (o : Op) (f : Nat → Bool) : Prop :=
  ∀ l ∈ lanesOf (activeLanes s c o),
    (predOf (c.after t).grp ((setFor s c o l).d.toNat - 0xE0)).getLsbD l
      = (((setFor s c o l).d.toNat - 0xE0) % 8 == 7 || f l)

/-- The machine runs a step to a next state of which `P` holds. -/
def Answers (i : Instr) (s : State) (P : State → Prop) : Prop := ∃ t, exec i s = .next t ∧ P t

/-- Every lane that a destination is written for, with the register's content there: 32 bits, or 64 of a pair. -/
def EachLane (s t : State) (c : Cur) (o : Op) (wide : Bool) (P : Nat → Nat → Prop) : Prop :=
  ∀ l ∈ lanesOf (activeLanes s c o), (isUni o.d = true → lowest (activeLanes s c o) = some l) →
    P l (srcNat (c.after t) wide (setFor s c o l).d l)

/-- A register's content as a number of an integer type, over its whole 32 bits or the 64 of a pair (R233). -/
def regInt (t : Ty) (x : Nat) : Int := readInt t.isSigned (if t.is64 then 64 else 32) x

/-- The content lies in the integer type's range: it is extended as the type says (R229, R233). -/
def InRange (t : Ty) (x : Nat) : Prop :=
  intMin t.isSigned t.width ≤ regInt t x ∧ regInt t x ≤ intMax t.isSigned t.width

/-- The content is the exact number `n` reduced to the type: under SAT the nearest in range, under WRAP the one that
differs by a multiple of 2 to the width (R229, R400). -/
structure IntResult (t : Ty) (sat : Bool) (n : Int) (x : Nat) : Prop where
  range : InRange t x
  wrap  : sat = false → ((2 ^ t.width : Nat) : Int) ∣ regInt t x - n
  clamp : sat = true → regInt t x = max (intMin t.isSigned t.width) (min (intMax t.isSigned t.width) n)

/-- A destination holds in every lane the number `f` gives, reduced. -/
def IntsAre (s t : State) (c : Cur) (o : Op) (f : Nat → Int) : Prop :=
  EachLane s t c o o.ty.is64 fun l x => IntResult o.ty o.sat (f l) x

/-- A destination holds in every lane the bits `f` gives, in the width of the type and extended by it. -/
def BitsAre (s t : State) (c : Cur) (o : Op) (f : Nat → Nat) : Prop :=
  EachLane s t c o o.ty.is64 fun l x => InRange o.ty x ∧ x % 2 ^ o.ty.width = f l % 2 ^ o.ty.width

/-- A float destination holds in every lane and element the code `f` gives; an unpacked one has zeros above it (R233). -/
def CodesAre (s t : State) (c : Cur) (o : Op) (f : Nat → Nat → Nat) : Prop :=
  EachLane s t c o false fun l x =>
    (∀ e, e < o.ty.elems → elemOf o.ty x e = f l e % 2 ^ o.ty.width) ∧ (o.ty.isPacked = false → x < 2 ^ o.ty.width)

/-- Lane l's integer operands: A, B or the immediate, and C, read in the type. -/
def intA (s : State) (c : Cur) (o : Op) (l : Nat) : Int := intOf o.ty (patA c o (setFor s c o l) l)
def intB (s : State) (c : Cur) (o : Op) (l : Nat) : Int := intOf o.ty (patB c o (setFor s c o l) l)
def intC (s : State) (c : Cur) (o : Op) (l : Nat) : Int := intOf o.ty (patC c o (setFor s c o l) l)

/-- The same operands as bits of the type's width. -/
def bitsA (s : State) (c : Cur) (o : Op) (l : Nat) : Nat := patA c o (setFor s c o l) l
def bitsB (s : State) (c : Cur) (o : Op) (l : Nat) : Nat := patB c o (setFor s c o l) l

/-- Element e of lane l's float operands as exact values: A, B or the immediate, and C. -/
def fltFmt (o : Op) : Fmt := o.ty.fmt.getD .f32
def codeA (s : State) (c : Cur) (o : Op) (l e : Nat) : Nat := elemOf o.ty (laneVal c (setFor s c o l).a l).toNat e
def codeB (s : State) (c : Cur) (o : Op) (l e : Nat) : Nat :=
  elemOf o.ty (if o.immBit then immPattern o.ty (setFor s c o l).imm else (laneVal c (setFor s c o l).b l).toNat) e
def codeC (s : State) (c : Cur) (o : Op) (l e : Nat) : Nat := elemOf o.ty (laneVal c (setFor s c o l).c l).toNat e
def fltA (s : State) (c : Cur) (o : Op) (l e : Nat) : Val := decFmt (fltFmt o) (codeA s c o l e)
def fltB (s : State) (c : Cur) (o : Op) (l e : Nat) : Val := decFmt (fltFmt o) (codeB s c o l e)
def fltC (s : State) (c : Cur) (o : Op) (l e : Nat) : Val := decFmt (fltFmt o) (codeC s c o l e)

/-- A value rounded as a float instruction says, for element e of lane l (R236, R237, R239). -/
def rounded (c : Cur) (o : Op) (l e : Nat) (v : Val) : Nat := roundVal (fltFmt o) (opMode o) o.sat (drawFor c l e) v

/-! ### Frames of register-only instructions -/

/-- A key that one lane of a general destination writes. -/
def writesKey (wide : Bool) (d : Nat → Nat) (l k : Nat) : Prop := k = 32 * d l + l ∨ (wide = true ∧ k = 32 * (d l + 1) + l)

/-- The mark of an error that a destination's write clears (R190). -/
def writesBad (s : State) (c : Cur) (o : Op) (wide : Bool) (x : Nat) : Prop :=
  (isAff o.d = false ∧ isUni o.d = false ∧ ∃ l ∈ lanesOf (activeLanes s c o), writesKey wide (fun l => (setFor s c o l).d.toNat) l x)
    ∨ (isAff o.d = true ∧ x = 4096 + (o.d.toNat - 0x80))
    ∨ (isUni o.d = true ∧ (x = 8192 + (o.d.toNat - 0xA0) ∨ (wide = true ∧ x = 8192 + (o.d.toNat - 0xA0 + 1))))

/-- What a lane-wise instruction leaves alone in its group's registers. -/
structure WritesOnly (s : State) (c : Cur) (o : Op) (wide : Bool) (h : Regs) : Prop where
  bad   : ∀ x, ¬ writesBad s c o wide x → (x ∈ h.bad ↔ x ∈ c.grp.r.bad)
  v     : ∀ k, ¬(isAff o.d = false ∧ isUni o.d = false
            ∧ ∃ l ∈ lanesOf (activeLanes s c o), writesKey wide (fun l => (setFor s c o l).d.toNat) l k) →
            FMap.get 0 h.v k = FMap.get 0 c.grp.r.v k
  a     : ∀ n, ¬(isAff o.d = true ∧ n = o.d.toNat - 0x80) → FMap.get 0 h.a n = FMap.get 0 c.grp.r.a n
  s     : ∀ n, ¬(isUni o.d = true ∧ (n = o.d.toNat - 0xA0 ∨ (wide = true ∧ n = o.d.toNat - 0xA0 + 1))) →
            FMap.get 0 h.s n = FMap.get 0 c.grp.r.s n
  p     : h.p = c.grp.r.p
  t     : h.t = c.grp.r.t
  macc  : h.macc = c.grp.r.macc
  mtail : h.mtail = c.grp.r.mtail
  muse  : h.muse = c.grp.r.muse

/-- What a register-only instruction leaves alone: everything outside its group's destination, the cores' bookkeeping, the
debug unit's counts and the live part of its path's stack; device registers and memory as long as no trace is on. -/
structure LaneFrame (s t : State) (c : Cur) (o : Op) (wide : Bool) : Prop where
  rest   : SameRest s t
  dev    : s.traceOff → t.dev = s.dev
  mem    : s.traceOff → ∀ k, ¬ inStack c k → t.fab.mem.byte k = s.fab.mem.byte k
  others : ∀ u i, ¬(u = c.run.blk ∧ i = c.run.gid) → t.groupRegs u i = s.groupRegs u i
  mine   : WritesOnly s c o wide (regsAfter t c)

/-- What an instruction that writes a predicate leaves alone in its group's registers. -/
structure PredOnly (s : State) (c : Cur) (o : Op) (h : Regs) : Prop where
  p     : ∀ n l, l < 32 → ¬(l ∈ lanesOf (activeLanes s c o) ∧ n % 8 = ((setFor s c o l).d.toNat - 0xE0) % 8) →
            (predOf { c.grp with r := h } n).getLsbD l = (predOf c.grp n).getLsbD l
  v     : h.v = c.grp.r.v
  a     : h.a = c.grp.r.a
  s     : h.s = c.grp.r.s
  t     : h.t = c.grp.r.t
  macc  : h.macc = c.grp.r.macc
  mtail : h.mtail = c.grp.r.mtail
  muse  : h.muse = c.grp.r.muse
  bad   : h.bad = c.grp.r.bad

/-- The frame of an instruction that writes a predicate. -/
structure PredFrame (s t : State) (c : Cur) (o : Op) : Prop where
  rest   : SameRest s t
  dev    : s.traceOff → t.dev = s.dev
  mem    : s.traceOff → ∀ k, ¬ inStack c k → t.fab.mem.byte k = s.fab.mem.byte k
  others : ∀ u i, ¬(u = c.run.blk ∧ i = c.run.gid) → t.groupRegs u i = s.groupRegs u i
  mine   : PredOnly s c o (regsAfter t c)

/-- The frame of an instruction that writes a tile predicate. -/
structure TileFrame (s t : State) (c : Cur) (o : Op) : Prop where
  rest   : SameRest s t
  dev    : s.traceOff → t.dev = s.dev
  mem    : s.traceOff → ∀ k, ¬ inStack c k → t.fab.mem.byte k = s.fab.mem.byte k
  others : ∀ u i, ¬(u = c.run.blk ∧ i = c.run.gid) → t.groupRegs u i = s.groupRegs u i
  tile   : ∀ n, n ≠ o.d.toNat - 0xF0 → FMap.get 0 (regsAfter t c).t n = FMap.get 0 c.grp.r.t n
  keeps  : { regsAfter t c with t := c.grp.r.t } = c.grp.r

/-! ### Memory operations and engines -/

/-- The issuing group, as a later state holds it. -/
def InGroup (t : State) (c : Cur) (P : Group → Prop) : Prop := ∃ g, groupAfter t c = some g ∧ P g

/-- An operation of the group is outstanding, these registers wait for it, and no register has changed (R162). -/
def Holds (t : State) (c : Cur) (rs : List Nat) (P : LongOp → Prop) : Prop :=
  InGroup t c fun g => g.r = c.grp.r ∧ ∃ op ∈ g.ops, P op ∧ ∀ r ∈ rs, (r, op.id) ∈ g.pend

/-- A class counter has risen by one, for a new operation (R289). -/
def Counted (s t : State) (c : Cur) (k : EngClass) (P : Nat → Prop) : Prop :=
  InGroup t c fun g => g.cnt.get k = c.grp.cnt.get k + 1
    ∧ ∃ e ∈ g.engs, s.fab.nextId ≤ e.id ∧ e.cls = k ∧ e.done = false ∧ P e.id

/-- What a release waits for has come: the group's pending lines have left the depot, its accesses have all been answered,
and no error of them waits (R115, R184, R282). -/
structure Released (s : State) (c : Cur) : Prop where
  acked : (s.sendDepotOf c.run.blk c.run.gid).acked c.run.blk c.run.gid = true
  clean : hasImprecise c.grp = false

/-- Where an access's effect begins: a release has sent the group's depot lines. -/
def startOf (s : State) (c : Cur) (o : Op) : State :=
  if (relOf o).isSome then (s.sendDepotOf c.run.blk c.run.gid).noteRelease c.run.blk c.run.gid else s

/-- A request of the issuing group's operation carries this piece. -/
def Requested (s t : State) (c : Cur) (op : Nat) (kind : AccKind) (p : Part) (P : Req → Prop) : Prop :=
  ∃ r ∈ t.fab.reqs, s.fab.nextId ≤ r.id ∧ r.kind = kind ∧ r.core = c.blk.core ∧ r.who = .group c.run.blk c.run.gid op
    ∧ r.line = lineOf p.va ∧ p ∈ r.parts ∧ P r

/-- An access that issues in some lane, aligned and in bounds. -/
structure Accesses (s : State) (c : Cur) (opc : BitVec 10) (o : Op) (scr : Bool) (ps : List (Nat × DWord)) : Prop
    extends Issues s c opc o where
  lanes : activeLanes s c o ≠ 0
  place : placeFaults c scr o.ty.bytes o.ty.bytes ps = []

/-- The byte at a key after some pieces have been stored in order: the last that covers it wins (R207). -/
def byteAfter (place : Part → Nat) (old : Nat → Byte) : List Part → Nat → Byte
  | [], k => old k
  | p :: ps, k =>
    byteAfter place (fun k => if place p ≤ k ∧ k < place p + p.size then BitVec.ofNat 8 (p.data.toNat / 2 ^ (8 * (k - place p)))
      else old k) ps k

/-- Element k of packed values from a key on (R470). -/
def packedAt (m : Memory) (t : Ty) (key k : Nat) : Nat :=
  if t = .e2m1 then m.num (key + k / 2) 1 / 2 ^ (4 * (k % 2)) % 16 else m.num (key + t.bytes * k) t.bytes

/-- An engine instruction goes on to its effect: its tile predicate is on, every lane is guarded in, its own checks pass
and no acquire of its group is under way (R226, R283, R445). -/
structure EngineReady (s : State) (c : Cur) (opc : BitVec 10) (o : Op) (own : List FaultInfo) : Prop
    extends Issues s c opc o where
  tile  : tileOn c o = true
  all   : pathGuard c o = .all
  own   : own = []
  clear : s.memClear c.run.blk c.run.gid = true

/-- Registers, what lies outside the cores, memory outside the path's stack and device registers stay. -/
structure QuietFrame (s t : State) (c : Cur) : Prop where
  rest : SameRest s t
  dev  : s.traceOff → t.dev = s.dev
  mem  : s.traceOff → ∀ k, ¬ inStack c k → t.fab.mem.byte k = s.fab.mem.byte k
  regs : ∀ u i, t.groupRegs u i = s.groupRegs u i

/-- Opcodes of the instructions that write lanes of a general, affine or uniform destination and nothing else. -/
def laneOpcodes : List (BitVec 10) :=
  [0x01F, 0x023, 0x024, 0x025, 0x080, 0x081, 0x082, 0x083, 0x084, 0x085, 0x086, 0x087, 0x088, 0x089, 0x08A, 0x08B, 0x08C,
    0x090, 0x091, 0x092, 0x093, 0x094, 0x098, 0x099, 0x09A, 0x09B, 0x0A0, 0x0A1, 0x0A2, 0x0A3, 0x0A4, 0x0A9, 0x0AA, 0x0B0,
    0x0B1, 0x0B2, 0x0B3, 0x0B4, 0x0B5, 0x0B6, 0x0B8, 0x0B9, 0x0BA, 0x100, 0x101, 0x102, 0x103, 0x104, 0x105, 0x106, 0x107,
    0x109, 0x10A, 0x10B, 0x10C, 0x10D, 0x110, 0x111, 0x112, 0x113, 0x114, 0x115, 0x118, 0x119, 0x11A, 0x11B, 0x11C, 0x11D,
    0x11E, 0x120, 0x121, 0x122, 0x128, 0x129, 0x12A, 0x12B, 0x12C, 0x12D, 0x1A8, 0x290, 0x292]

/-- Opcodes of the instructions that write a predicate and nothing else. -/
def predOpcodes : List (BitVec 10) :=
  [0x018, 0x019, 0x01A, 0x01B, 0x01C, 0x01D, 0x01E, 0x020, 0x021, 0x022, 0x0A8, 0x108]

/-- A lane destination is a pair: 64-bit types, wide named values and FEAT (R233, R479, R480). -/
def laneWide (opc : BitVec 10) (o : Op) : Bool :=
  if opc = 0x290 then (match srName o.imm16.toNat with | some (w, _) => w | none => false)
  else if opc = 0x292 then true else o.ty.is64

/-! ### What engines and long results leave -/

/-- Lane l of general register r, or of the pair from r on; uniform register n, or the pair. -/
def Regs.gen (g : Regs) (wide : Bool) (r l : Nat) : Nat :=
  (FMap.get 0 g.v (32 * r + l)).toNat + if wide then 2 ^ 32 * (FMap.get 0 g.v (32 * (r + 1) + l)).toNat else 0
def Regs.uni (g : Regs) (wide : Bool) (n : Nat) : Nat :=
  (FMap.get 0 g.s n).toNat + if wide then 2 ^ 32 * (FMap.get 0 g.s (n + 1)).toNat else 0

/-- A register, or a pair, holds what was read from memory in a type: all 64 bits in a pair; else the bytes read, and above them
the sign for I8 and I16 and zeros for every other type (R233, R420). -/
structure Fills (t : Ty) (raw : DWord) (x : Nat) : Prop where
  pair : t.is64 = true → x = raw.toNat
  low  : t.is64 = false → x % 2 ^ (8 * t.bytes) = raw.toNat % 2 ^ (8 * t.bytes)
  high : t.is64 = false → x / 2 ^ (8 * t.bytes)
           = if (t = .i8 ∨ t = .i16) ∧ raw.getLsbD (8 * t.bytes - 1) = true then 2 ^ (32 - 8 * t.bytes) - 1 else 0

/-- The values of an operation stand for different lanes, below 32 but for whole rows. -/
def LongOp.LanesOk (o : LongOp) : Prop :=
  o.vals.Pairwise (fun a b => a.1 ≠ b.1) ∧ ((∃ x n, o.dest = .rows x n) ∨ ∀ e ∈ o.vals, e.1 < 32)

/-- What a completed operation leaves in its group's registers: every lane it has a value for holds it in its face's
destination, a uniform one in every lane the instruction was active in, whole rows as they stand (R162, R420, R424, R427,
R455); an operation without a destination writes none. -/
def LongWritten (o : LongOp) (old new : Regs) : Prop :=
  let w := o.ty.is64
  match o.dest with
  | .none => new = old
  | .vec x y => new.s = old.s ∧ ∀ e ∈ o.vals, Fills o.ty e.2 (new.gen w (if o.site.fx.getLsbD e.1 then x else y) e.1)
  | .uni n => new.v = old.v ∧ ∀ e es, o.vals = e :: es → Fills o.ty e.2 (new.uni w n)
  | .all x => new.s = old.s ∧ ∀ e es, o.vals = e :: es → ∀ l ∈ lanesOf o.site.lanes, Fills o.ty e.2 (new.gen w x l)
  | .rows x _ => new.s = old.s ∧ ∀ e ∈ o.vals, FMap.get 0 new.v (32 * x + e.1) = e.2.setWidth 32

/-- A key of the general registers that a completed operation writes. -/
def LongOp.writes (o : LongOp) (k : Nat) : Prop :=
  let lane (r l : Nat) : Prop := k = 32 * r + l ∨ (o.ty.is64 = true ∧ k = 32 * (r + 1) + l)
  match o.dest with
  | .none | .uni _ => False
  | .vec x y => ∃ e ∈ o.vals, lane (if o.site.fx.getLsbD e.1 then x else y) e.1
  | .all x => ∃ l ∈ lanesOf o.site.lanes, lane x l
  | .rows x _ => ∃ e ∈ o.vals, k = 32 * x + e.1

/-- What a completed operation leaves alone in its group's registers. -/
structure LongKeeps (o : LongOp) (old new : Regs) : Prop where
  v     : ∀ k, ¬ o.writes k → FMap.get 0 new.v k = FMap.get 0 old.v k
  s     : ∀ k, (∀ n, o.dest = .uni n → k ≠ n ∧ (o.ty.is64 = true → k ≠ n + 1)) → FMap.get 0 new.s k = FMap.get 0 old.s k
  a     : new.a = old.a
  p     : new.p = old.p
  t     : new.t = old.t
  macc  : new.macc = old.macc
  mtail : new.mtail = old.mtail
  muse  : new.muse = old.muse

/-- Split point k of an operation of the merge-path unit: the largest i below a bound with rowptr[i] + i at most the
diagonal, of the row pointers it has read (R227). -/
def IsSplit (q : MpathOp) (z bound k i : Nat) : Prop :=
  let at_ (j : Nat) : Nat := (q.ptrs.getD j 0).toNat + j
  i < bound ∧ at_ i ≤ k * (q.n + z) / q.p ∧ ∀ j, j < bound → at_ j ≤ k * (q.n + z) / q.p → j ≤ i

/-- What the unit holds of every split point is right for the row pointers read so far. -/
def MpathSplits (q : MpathOp) (z : Nat) : Prop :=
  q.pos = q.ptrs.length ∧ ∀ k, k ≤ q.p →
    (∀ i, q.best.getD k none = some i → IsSplit q z q.pos k i)
    ∧ (q.best.getD k none = none → ∀ j, j < q.pos → k * (q.n + z) / q.p < (q.ptrs.getD j 0).toNat + j)

/-- The unit requests pieces of one size at an address, up to the end of its line. -/
def MpathAsks (s t : State) (q : MpathOp) (kind : AccKind) (va : DWord) (size most : Nat) (data : Nat → Nat) : Prop :=
  ∃ r ∈ t.fab.reqs, s.fab.nextId ≤ r.id ∧ r.who = .mpath (q.core / 64) ∧ r.kind = kind ∧ r.line = lineOf (s.resolve va)
    ∧ r.parts.length = min most ((64 - (s.resolve va).toNat % 64) / size)
    ∧ ∀ i, i < r.parts.length → r.parts[i]? = some {
        lane := i, va := s.resolve va + BitVec.ofNat 64 (size * i), size := size, data := BitVec.ofNat 64 (data i) }

/-- One step of a NEST on memory: op of what stands at A and B, at D, and no other byte (R463, R464). -/
def NestSteps (b : Block) (x : NestOp) (i : Nat) (m m' : Memory) : Prop :=
  let z := x.ty.bytes
  let off (q base : Nat) : Nat := (nestOff x.p z q base i).toNat
  m'.num (scrKey b (off 0 x.d)) z = nestVal x.k x.ty (m.num (scrKey b (off 1 x.a)) z) (m.num (scrKey b (off 2 x.b)) z) % 256 ^ z
    ∧ ∀ k, ¬ inScr b (off 0 x.d) z k → m'.byte k = m.byte k

/-- The first n steps of a NEST in the order of R464, each performed before the next one reads. -/
inductive NestRun (b : Block) (x : NestOp) (m : Memory) : Nat → Memory → Prop
  | zero : NestRun b x m 0 m
  | step (n : Nat) (m₁ m₂ : Memory) : NestRun b x m n m₁ → NestSteps b x n m₁ m₂ → NestRun b x m (n + 1) m₂

/-- An element of the rows and columns that an operation names, of its block's tile (R265, R450). -/
def opNames (b : Block) (op : ArrOp) (tile row col : Nat) : Prop :=
  tile = physTile b op.t ∧ op.row0 ≤ row ∧ row < op.row0 + op.n ∧ 32 * op.cb0 ≤ col ∧ col < 32 * (op.cb0 + op.ncb)

/-- The accumulators and tails of a cluster: `f` of what they were for the elements that meet P, the same for all others. -/
def AccAre (x y : Cluster) (P : Nat → Nat → Nat → Prop) (f : Nat → Nat → AccTail → AccTail) : Prop :=
  ∀ tile row col, row < 256 → col < 256 →
    (P tile row col → accGet y tile row col =
      ⟨(f row col (accGet x tile row col)).acc % 2 ^ 64, (f row col (accGet x tile row col)).tail % 2 ^ 32⟩)
    ∧ (¬ P tile row col → accGet y tile row col = accGet x tile row col)

/-- The code a drain writes for an element from its accumulator (R266, R267). -/
def drained (b : Block) (op : ArrOp) (row col acc : Nat) : Nat :=
  roundVal (op.ty.fmt.getD .f32) (RMode.ofCode op.rm) op.sat
    (drawSlice (srDraw b.lrec.seed b.tile (col % 32) (op.ordn * 512 + BitVec.ofNat 64 (2 * row + col / 128))) (col / 32 % 4))
    (decFmt .f64 acc)

/-- An element of a pass of A over the ACTIVE plane: the groups of 32 along K in ascending order (R243, R261). -/
def passed (s : State) (b : Block) (p : Plane) (afmt : Nat) (scaled : Bool) (a stride mb i j : Nat) (x : AccTail) : AccTail :=
  (List.range (p.desc.kb / 32)).foldl (fun (x : AccTail) g =>
    let u := matStep afmt p.desc.fmt (recFid b.lrec) (aElems s b afmt a stride i g)
      ((List.range 32).map fun k => planeElem p j (32 * g + k)) (aMeta s b scaled mb p.desc.kb i g) (planeMeta p j g)
    ⟨add64 x.acc u.acc, add32 x.tail u.tail⟩) x

/-- What a granted operation that meets no error leaves in its cluster's planes and accumulators (R254 to R261, R266, R452 to
R454). -/
def GrantLeaves (s : State) (b : Block) (op : ArrOp) (x y : Cluster) : Prop :=
  let own (p : Plane) : Prop := p.owner = some b.uid
  let samePlanes : Prop := y.active = x.active ∧ y.shadow = x.shadow
  let sameAcc : Prop := AccAre x y (fun _ _ _ => False) fun _ _ e => e
  let named := opNames b op
  match op.kind with
  | .mstat ws off d =>
    (b.accts = [] → samePlanes) ∧ y.active = x.active ∧ sameAcc
    ∧ (b.accts ≠ [] → d.nc ≤ 256 → s.statBad b ws off d = false →
        (ws = true → wsAllowed b off (imageBytes d) = true ∧ s.statWaits b off d = false) →
        own y.shadow ∧ y.shadow.desc = d ∧ y.shadow.bad = false
        ∧ ∀ p ∈ statParts d, ∀ k, k < d.nc * p.2 → y.shadow.img.getD (p.1 + k) 0 = s.fab.mem.byte (statKey b ws off + p.1 + k))
  | .mswap =>
    sameAcc ∧ (b.accts ≠ [] ∧ own x.shadow → y.active = x.shadow ∧ y.shadow = { x.active with owner := none })
      ∧ (b.accts = [] ∨ ¬ own x.shadow → samePlanes)
  | .mswapRel =>
    let freed (p q : Plane) : Prop := (own p → q = { p with owner := none }) ∧ (¬ own p → q = p)
    sameAcc ∧ freed x.active y.active ∧ freed x.shadow y.shadow
  | .mstream afmt scaled a stride mb chk =>
    samePlanes
    ∧ (¬ own x.active ∨ chk ≠ some x.active.desc → sameAcc)
    ∧ (own x.active → chk = some x.active.desc → x.active.desc.nc ≤ 256 → x.armed = false →
        sliced afmt x.active.desc.fmt (recFid b.lrec) = false ∨ recFid b.lrec = 0 →
        AccAre x y
          (fun tile row col => tile = physTile b op.t ∧ op.row0 ≤ row ∧ row < op.row0 + op.n ∧ col < x.active.desc.nc)
          fun row col e => passed s b x.active afmt scaled a stride mb (row - op.row0) col e)
  | .mfold => samePlanes ∧ AccAre x y named fun _ _ e => ⟨fold64 e, 0⟩
  | .mzero => samePlanes ∧ AccAre x y named fun _ _ _ => ⟨0, 0⟩
  | .mdrainScr fold _ _ | .mdrainReg fold _ =>
    samePlanes ∧ AccAre x y named fun _ _ e => if fold then ⟨fold64 e, 0⟩ else e

/-- Where a drain's codes go: an element's code stands in scratch, unless a later one covers it, or among the operation's
values until it returns (R266, R455). -/
def GrantDrains (s t : State) (b : Block) (op : ArrOp) (y : Cluster) : Prop :=
  let z := op.ty.bytes
  let code (i j : Nat) : Nat := drained b op (op.row0 + i) (32 * op.cb0 + j) (accGet y (physTile b op.t) (op.row0 + i) (32 * op.cb0 + j)).acc
  match op.kind with
  | .mdrainScr _ a stride =>
    32 * op.ncb * z ≤ stride ∨ op.n ≤ 1 → ∀ i j, i < op.n → j < 32 * op.ncb →
      t.fab.mem.num (scrKey b (a + i * stride + j * z)) z = code i j % 256 ^ z
  | .mdrainReg _ lop =>
    ∀ g l, s.group? op.blk op.gid = some g → l ∈ g.ops → l.id = lop →
      ∃ h l', t.group? op.blk op.gid = some h ∧ l' ∈ h.ops ∧ l'.id = lop ∧ l'.dest = l.dest ∧ l'.errs = l.errs
        ∧ ∀ i k, i < op.n → k ∈ lanesOf op.mask → FMap.get 0 l'.vals (32 * i + k) = BitVec.ofNat 64 (code i k)
  | _ => True

/-! ### Device registers -/

/-- The event's register write is carried out: the register exists, and its party may write it and owns the semaphore that
guards it (R66, R68). -/
structure WriteOpen (s : State) (r : RegName) (i : Nat) : Prop where
  there : i < regCount r
  firm  : firmOnly r = true → s.inp.who = .firmware
  guard : ∀ n, guardOfReg r = some n → s.owns s.inp.who n = true

/-- A control port, as a later state holds it. -/
def PortIs (t : State) (n : Nat) (P : UciePort → Prop) : Prop := ∃ p, t.lnk.ucie[n]? = some p ∧ P p

end Sys2Proof.Machine
end

