-- ==== Sys2Proof/Certificates/Slice0/Obligations.lean ====
section
/-! DEFINITION. The statements for the provers. -/

open Sys2Proof Sys2Proof.Machine

/-! ### Lane-wise integers -/

/-- ADD, SUB, MUL, MULH, MAD, SHA, ABS, NEG, MIN, MAX, CLAMP and DOT4 write the exact result of R400 and R405, reduced. -/
def Obligations.IntegerArithmetic : Prop :=
  ∀ (s : State) (c : Cur) (o : Op),
    (LaneReady s c 0x080 o (affTwo c o fun x y => some (x.1 + y.1, x.2 + y.2)) →
      Answers (.add o) s fun t => IntsAre s t c o fun l => intA s c o l + intB s c o l)
    ∧ (LaneReady s c 0x081 o (affTwo c o fun x y => some (x.1 - y.1, x.2 - y.2)) →
      Answers (.sub o) s fun t => IntsAre s t c o fun l => intA s c o l - intB s c o l)
    ∧ (LaneReady s c 0x082 o (affTwo c o (affMul o)) →
      Answers (.mul o) s fun t => IntsAre s t c o fun l => intA s c o l * intB s c o l)
    ∧ (LaneReady s c 0x083 o none →
      Answers (.mulh o) s fun t => IntsAre s t c o fun l => (intA s c o l * intB s c o l).fdiv (2 ^ o.ty.width : Nat))
    ∧ (LaneReady s c 0x084 o none →
      Answers (.mad o) s fun t => IntsAre s t c o fun l => intA s c o l * intB s c o l + intC s c o l)
    ∧ (LaneReady s c 0x085 o none →
      Answers (.sha o) s fun t => IntsAre s t c o fun l =>
        (intA s c o l).fdiv (2 ^ (setFor s c o l).k : Nat) + intB s c o l)
    ∧ (LaneReady s c 0x08A o none →
      Answers (.abs o) s fun t => IntsAre s t c o fun l => ((intA s c o l).natAbs : Int))
    ∧ (LaneReady s c 0x08B o none → Answers (.neg o) s fun t => IntsAre s t c o fun l => - intA s c o l)
    ∧ (LaneReady s c 0x088 o none →
      Answers (.min o) s fun t => IntsAre s t c o fun l => min (intA s c o l) (intB s c o l))
    ∧ (LaneReady s c 0x089 o none →
      Answers (.max o) s fun t => IntsAre s t c o fun l => max (intA s c o l) (intB s c o l))
    ∧ (LaneReady s c 0x08C o none →
      Answers (.clamp o) s fun t => IntsAre s t c o fun l => min (max (intA s c o l) (intB s c o l)) (intC s c o l))
    ∧ (LaneReady s c 0x0B6 o none →
      Answers (.dot4 o) s fun t => IntsAre s t c o fun l =>
        intC s c o l + dot4Of o.ty.isSigned (bitsA s c o l) (bitsB s c o l))

/-- DIV and REM truncate towards zero; a zero divisor gives all ones and the dividend (R401). -/
def Obligations.Division : Prop :=
  ∀ (s : State) (c : Cur) (o : Op),
    (LaneReady s c 0x086 o none →
      Answers (.div o) s fun t =>
        EachLane s t c o o.ty.is64 fun l r =>
          if intB s c o l = 0 then InRange o.ty r ∧ r % 2 ^ o.ty.width = 2 ^ o.ty.width - 1
          else IntResult o.ty o.sat ((intA s c o l).tdiv (intB s c o l)) r)
    ∧ (LaneReady s c 0x087 o none →
      Answers (.rem o) s fun t =>
        EachLane s t c o o.ty.is64 fun l r =>
          regInt o.ty r = if intB s c o l = 0 then intA s c o l
            else intA s c o l - intB s c o l * (intA s c o l).tdiv (intB s c o l))

/-- AND, OR, XOR, ANDN and NOT act bit by bit (R400). -/
def Obligations.Logic : Prop :=
  ∀ (s : State) (c : Cur) (o : Op),
    let bitwise (i : Instr) (f : Bool → Bool → Bool) : Prop :=
      Answers i s fun t => EachLane s t c o o.ty.is64 fun l r =>
        InRange o.ty r ∧ ∀ k, k < o.ty.width → r.testBit k = f ((bitsA s c o l).testBit k) ((bitsB s c o l).testBit k)
    (LaneReady s c 0x090 o none → bitwise (.andd o) fun x y => x && y)
    ∧ (LaneReady s c 0x091 o none → bitwise (.orr o) fun x y => x || y)
    ∧ (LaneReady s c 0x092 o none → bitwise (.xorr o) fun x y => x != y)
    ∧ (LaneReady s c 0x093 o none → bitwise (.nott o) fun x _ => !x)
    ∧ (LaneReady s c 0x094 o none → bitwise (.andn o) fun x y => x && !y)

/-- The shifts, for counts below the width and for counts of the width or more (R402). -/
def Obligations.Shifts : Prop :=
  ∀ (s : State) (c : Cur) (o : Op),
    let n (l : Nat) : Nat := countOf c o (setFor s c o l) l
    let signedA (l : Nat) : Int := readInt true o.ty.width (bitsA s c o l)
    (LaneReady s c 0x098 o
        (if affOk o && o.var == 0 then (affineSrc c o.a).map fun (x : Word × Word) => (x.1 <<< o.kInt.toNat, x.2 <<< o.kInt.toNat)
          else none) →
      Answers (.shl o) s fun t => EachLane s t c o o.ty.is64 fun l r =>
        if n l < o.ty.width then IntResult o.ty o.sat (intA s c o l * (2 ^ n l : Nat)) r
        else regInt o.ty r =
          if o.sat = false ∨ intA s c o l = 0 then 0
          else if intA s c o l < 0 then intMin o.ty.isSigned o.ty.width else intMax o.ty.isSigned o.ty.width)
    ∧ (LaneReady s c 0x099 o none →
      Answers (.shr o) s fun t => BitsAre s t c o fun l => if n l < o.ty.width then bitsA s c o l / 2 ^ n l else 0)
    ∧ (LaneReady s c 0x09A o none →
      Answers (.sar o) s fun t => BitsAre s t c o fun l => wrapNat o.ty.width
        (if n l < o.ty.width then (signedA l).fdiv (2 ^ n l : Nat) else if signedA l < 0 then -1 else 0))
    ∧ (LaneReady s c 0x09B o none →
      Answers (.rol o) s fun t => EachLane s t c o o.ty.is64 fun l r =>
        InRange o.ty r ∧ ∀ k, k < o.ty.width →
          r.testBit k = (bitsA s c o l).testBit ((k + o.ty.width - n l % o.ty.width) % o.ty.width))

/-- The bit-field and counting instructions (R403). -/
def Obligations.BitFields : Prop :=
  ∀ (s : State) (c : Cur) (o : Op),
    let w := o.ty.width
    let each (i : Instr) (P : Nat → Nat → Prop) : Prop :=
      Answers i s fun t => EachLane s t c o o.ty.is64 fun l r => InRange o.ty r ∧ P l r
    (LaneReady s c 0x0A0 o none →
      each (.bfx o) fun l r =>
        let x := setFor s c o l
        let f := min (if o.immBit then x.imm.toNat else (laneVal c x.b l).toNat % 128) (w - x.k)
        regInt o.ty r = if f = 0 then 0 else readInt o.ty.isSigned f (bitsA s c o l / 2 ^ x.k))
    ∧ (LaneReady s c 0x0A1 o none →
      each (.bfi o) fun l r =>
        let p := o.kInt.toNat
        let f := min ((laneVal c (setFor s c o l).c l).toNat % 128) (w - p)
        ∀ k, k < w → r.testBit k =
          if p ≤ k ∧ k < p + f then (bitsB s c o l).testBit (k - p) else (bitsA s c o l).testBit k)
    ∧ (LaneReady s c 0x0A2 o none →
      each (.popc o) fun l r => r % 2 ^ w = ((List.range w).filter fun k => (bitsA s c o l).testBit k).length)
    ∧ (LaneReady s c 0x0A3 o none →
      each (.clz o) fun l r =>
        if bitsA s c o l = 0 then r % 2 ^ w = w
        else r % 2 ^ w < w ∧ 2 ^ (w - 1 - r % 2 ^ w) ≤ bitsA s c o l ∧ bitsA s c o l < 2 ^ (w - r % 2 ^ w))
    ∧ (LaneReady s c 0x0A4 o none →
      each (.brev o) fun l r => ∀ k, k < w → r.testBit k = (bitsA s c o l).testBit (w - 1 - k))

/-- CMP, SEL and MOV, and the word worked for CMP; `p7` reads as one whatever is written (R404). -/
def Obligations.CompareSelectMove : Prop :=
  ∀ (s : State) (c : Cur) (o : Op),
    (Issues s c 0x0A8 o →
      Answers (.cmp o) s fun t => PredIs s t c o fun l =>
        match o.kInt.toNat with
        | 0 => decide (intA s c o l = intB s c o l)
        | 1 => decide (intA s c o l ≠ intB s c o l)
        | 2 => decide (intA s c o l < intB s c o l)
        | 3 => decide (intA s c o l ≤ intB s c o l)
        | 4 => decide (intB s c o l < intA s c o l)
        | _ => decide (intB s c o l ≤ intA s c o l))
    ∧ (LaneReady s c 0x0A9 o none →
      Answers (.sel o) s fun t => ResultIs s t c o o.ty.is64 fun l =>
        let x := setFor s c o l
        laneOf (copyTy o.ty) (srcNat c o.ty.is64 (if predBit c x.c l then x.a else x.b) l))
    ∧ (LaneReady s c 0x0AA o (if affOk o && !o.immBit then affineSrc c o.a else none) →
      Answers (.mov o) s fun t => ResultIs s t c o o.ty.is64 fun l =>
        laneOf (copyTy o.ty)
          (if o.immBit then immPattern o.ty (setFor s c o l).imm
            else srcNat c o.ty.is64 (setFor s c o l).a l % 2 ^ (copyTy o.ty).width))
    ∧ decodeWords [0x02A387C204060002] = .ok (.cmp
        { seam := 0, gp := 7, gi := false, ty := .i32, d := 0xE1, a := 2, b := 3, c := 0, mod := 2, ext := .one }, [])

/-! ### Lane operations -/

/-- The shuffles and BCAST take another lane's A where that lane is active in the same face, else their own (R405). -/
def Obligations.Shuffles : Prop :=
  ∀ (s : State) (c : Cur) (o : Op),
    let from_ (i : Instr) (src : Nat → Option Nat) : Prop :=
      Answers i s fun t => ResultIs s t c o false fun l =>
        match src l with
        | some k => if k < 32 ∧ (faceLanes s c o l).getLsbD k = true then (laneVal c o.a k).toNat else (laneVal c o.a l).toNat
        | none => (laneVal c o.a l).toNat
    let n (l : Nat) : Nat := if o.var = 1 then (laneVal c o.b l).toNat else o.kInt.toNat
    (LaneReady s c 0x0B0 o none → from_ (.shflIdx o) fun l => some ((laneVal c o.b l).toNat % 32))
    ∧ (LaneReady s c 0x0B1 o none → from_ (.shflUp o) fun l => if n l ≤ l then some (l - n l) else none)
    ∧ (LaneReady s c 0x0B2 o none → from_ (.shflDn o) fun l => if l + n l ≤ 31 then some (l + n l) else none)
    ∧ (LaneReady s c 0x0B3 o none → from_ (.shflXor o) fun l => some (l ^^^ (n l % 32)))
    ∧ (LaneReady s c 0x0B4 o none → from_ (.bcast o) fun l => lowest (faceLanes s c o l))

/-- PRMT, LANE, RDLANE and WRLANE (R405). -/
def Obligations.LaneOperations : Prop :=
  ∀ (s : State) (c : Cur) (o : Op),
    (LaneReady s c 0x0B5 o none →
      Answers (.prmt o) s fun t => EachLane s t c o false fun l r =>
        let x := setFor s c o l
        ∀ i, i < 4 →
          let n := (laneVal c x.c l).toNat / 2 ^ (4 * i) % 16
          let byte := ((laneVal c x.a l).toNat + (laneVal c x.b l).toNat * 2 ^ 32) / 2 ^ (8 * (n % 8)) % 256
          r / 2 ^ (8 * i) % 256 = if n < 8 then byte else if byte < 128 then 0 else 255)
    ∧ (Issues s c 0x0B8 o → laneFaults s c o = []
        → shapeFaults s c 0x0B8 o (if affOk o then some (laneVal c o.a 0, laneStep c o) else none) = [] →
      Answers (.lane o) s fun t => ResultIs s t c o false fun l =>
        (laneVal c o.a 0).toNat + l * (if o.immBit then immPattern o.ty o.imm16 else (laneVal c o.b 0).toNat))
    ∧ (LaneReady s c 0x0B9 o none →
      Answers (.rdlane o) s fun t => ResultIs s t c o false fun _ =>
        (laneVal c o.a (if o.var = 1 then (laneVal c o.b 0).toNat % 32 else o.kInt.toNat)).toNat)
    ∧ (Issues s c 0x0BA o →
      Answers (.wrlane o) s fun t => ∀ l, l < 32 →
        laneVal (c.after t) o.d l =
          if l = o.kInt.toNat ∧ (activeLanes s c o).getLsbD l = true then laneVal c o.a l else laneVal c o.d l)

/-! ### Predicates and votes -/

/-- The predicate operations (R387). -/
def Obligations.PredicateLogic : Prop :=
  ∀ (s : State) (c : Cur) (o : Op),
    let a (l : Nat) : Bool := predBit c (setFor s c o l).a l
    let b (l : Nat) : Bool := predBit c (setFor s c o l).b l
    (Issues s c 0x018 o → Answers (.pand o) s fun t => PredIs s t c o fun l => a l && b l)
    ∧ (Issues s c 0x019 o → Answers (.por o) s fun t => PredIs s t c o fun l => a l || b l)
    ∧ (Issues s c 0x01A o → Answers (.pxor o) s fun t => PredIs s t c o fun l => a l != b l)
    ∧ (Issues s c 0x01B o → Answers (.pandn o) s fun t => PredIs s t c o fun l => a l && !b l)
    ∧ (Issues s c 0x01C o → Answers (.pnot o) s fun t => PredIs s t c o fun l => !a l)
    ∧ (Issues s c 0x01D o → Answers (.pmov o) s fun t => PredIs s t c o a)
    ∧ (Issues s c 0x01E o → Answers (.pfrom o) s fun t => PredIs s t c o fun l => laneVal c (setFor s c o l).a l != 0)
    ∧ (LaneReady s c 0x01F o none →
      Answers (.pto o) s fun t => ResultIs s t c o false fun l => if a l then 1 else 0)

/-- The votes of a face; BALLOT, PCNT and PFIRST with an affine or uniform destination are no instructions, so that decoding
them raises ILLEGAL (R388). -/
def Obligations.Votes : Prop :=
  ∀ (s : State) (c : Cur) (o : Op),
    let ones (l : Nat) : List Nat := (lanesOf (faceLanes s c o l)).filter fun k => predBit c o.a k
    let zeros (l : Nat) : List Nat := (lanesOf (faceLanes s c o l)).filter fun k => !predBit c o.a k
    (Issues s c 0x020 o → Answers (.voteAll o) s fun t => PredIs s t c o fun l => (zeros l).isEmpty)
    ∧ (Issues s c 0x021 o → Answers (.voteAny o) s fun t => PredIs s t c o fun l => !(ones l).isEmpty)
    ∧ (Issues s c 0x022 o → Answers (.voteUni o) s fun t => PredIs s t c o fun l => (zeros l).isEmpty || (ones l).isEmpty)
    ∧ (LaneReady s c 0x023 o none →
      Answers (.ballot o) s fun t => EachLane s t c o false fun l r =>
        ∀ k, k < 32 → r.testBit k = ((faceLanes s c o l).getLsbD k && predBit c o.a k))
    ∧ (LaneReady s c 0x024 o none → Answers (.pcnt o) s fun t => ResultIs s t c o false fun l => (ones l).length)
    ∧ (LaneReady s c 0x025 o none → Answers (.pfirst o) s fun t => ResultIs s t c o false fun l => (ones l).head?.getD 32)
    ∧ (isAff o.d = true ∨ isUni o.d = true →
      (checkOp 0x023 o).isSome = true ∧ (checkOp 0x024 o).isSome = true ∧ (checkOp 0x025 o).isSome = true)

/-! ### Floats -/

/-- The float instructions that round once (R407). -/
def Obligations.FloatArithmetic : Prop :=
  ∀ (s : State) (c : Cur) (o : Op),
    let rm := opMode o
    let x := fltA s c o
    let y := fltB s c o
    let z := fltC s c o
    (LaneReady s c 0x100 o none →
      Answers (.fadd o) s fun t => CodesAre s t c o fun l e => rounded c o l e ((x l e).add rm (y l e)))
    ∧ (LaneReady s c 0x101 o none →
      Answers (.fsub o) s fun t => CodesAre s t c o fun l e => rounded c o l e ((x l e).add rm (y l e).neg))
    ∧ (LaneReady s c 0x102 o none →
      Answers (.fmul o) s fun t => CodesAre s t c o fun l e => rounded c o l e ((x l e).mul (y l e)))
    ∧ (LaneReady s c 0x103 o none →
      Answers (.fma o) s fun t => CodesAre s t c o fun l e => rounded c o l e (((x l e).mul (y l e)).add rm (z l e)))
    ∧ (LaneReady s c 0x10B o none →
      Answers (.fldx o) s fun t => CodesAre s t c o fun l e =>
        let b := (laneVal c (setFor s c o l).b l).toNat
        rounded c o l e ((x l e).ldexp (if o.ty.isPacked then readInt true 16 (b / 2 ^ (16 * e)) else readInt true 32 b)))
    ∧ (LaneReady s c 0x10C o none →
      Answers (.frnd o) s fun t => CodesAre s t c o fun l e =>
        roundVal (fltFmt o) .rne false 0 (frndOf rm (drawFor c l e) (x l e)))
    ∧ (LaneReady s c 0x10D o none →
      Answers (.fdot2 o) s fun t => ResultIs s t c o false fun l =>
        roundVal .f32 rm o.sat (drawFor c l 0)
          ((((x l 0).mul (y l 0)).add rm ((x l 1).mul (y l 1))).add rm (decFmt .f32 (laneVal c (setFor s c o l).c l).toNat)))

/-- The float forms that do not round (R408). -/
def Obligations.FloatExact : Prop :=
  ∀ (s : State) (c : Cur) (o : Op),
    let x := fltA s c o
    let y := fltB s c o
    let code (v : Val) : Nat := roundVal (fltFmt o) .rne false 0 v
    (LaneReady s c 0x104 o none → Answers (.fmin o) s fun t => CodesAre s t c o fun l e => code ((x l e).min2 (y l e)))
    ∧ (LaneReady s c 0x105 o none → Answers (.fmax o) s fun t => CodesAre s t c o fun l e => code ((x l e).max2 (y l e)))
    ∧ (LaneReady s c 0x106 o none → Answers (.fabs o) s fun t => CodesAre s t c o fun l e => code (x l e).abs)
    ∧ (LaneReady s c 0x107 o none → Answers (.fneg o) s fun t => CodesAre s t c o fun l e => code (x l e).neg)
    ∧ (LaneReady s c 0x10A o none →
      Answers (.fsgn o) s fun t => CodesAre s t c o fun l e =>
        if (x l e).isNan then (fltFmt o).nanCode
        else codeA s c o l e % (fltFmt o).signBit + codeB s c o l e / (fltFmt o).signBit % 2 * (fltFmt o).signBit)
    ∧ (LaneReady s c 0x109 o none →
      Answers (.fclass o) s fun t => EachLane s t c o false fun l r =>
        (∀ e, e < o.ty.elems → r / 2 ^ (16 * e) % 2 ^ 9 = classOf (fltFmt o) (codeA s c o l e))
        ∧ (o.ty.isPacked = false → r < 2 ^ 9))
    ∧ (Issues s c 0x108 o →
      Answers (.fcmp o) s fun t => PredIs s t c o fun l => fltCond o.kFlt.toNat (x l 0) (y l 0))

/-- The six functions are rounded once to F32, in every active lane (R409; how finely the model encloses a transcendental
value is log entry 20). -/
def Obligations.Functions : Prop :=
  ∀ (s : State) (c : Cur) (o : Op),
    let fn (i : Instr) (f : TransFn) : Prop :=
      Answers i s fun t => ResultIs s t c o false fun l =>
        transF32 f (opMode o) o.sat (drawFor c l 0) (laneVal c (setFor s c o l).a l).toNat
    (LaneReady s c 0x110 o none → fn (.rcp o) .rcp)
    ∧ (LaneReady s c 0x111 o none → fn (.rsq o) .rsq)
    ∧ (LaneReady s c 0x112 o none → fn (.sqrt o) .sqrt)
    ∧ (LaneReady s c 0x113 o none → fn (.exp2 o) .exp2)
    ∧ (LaneReady s c 0x114 o none → fn (.log2 o) .log2)
    ∧ (LaneReady s c 0x115 o none → fn (.tanh o) .tanh)

/-- The conversions, PACK, UNPK, SCALE, SPSEL and VAMAX (R411 to R415, R417). -/
def Obligations.Conversions : Prop :=
  ∀ (s : State) (c : Cur) (o : Op),
    let conv (i : Instr) (r : Nat → Nat → Nat → Nat) : Prop :=
      Answers i s fun t => ResultIs s t c o false fun l =>
        convLane o (laneVal c (setFor s c o l).d l).toNat fun e k => r l (drawFor c l e) k
    let src (l k : Nat) : Val := convSrc c o (setFor s c o l) l k
    (LaneReady s c 0x118 o none → conv (.cvt o) fun l dr k => roundVal (dstFmt o) (opMode o) o.sat dr (src l k))
    ∧ (LaneReady s c 0x119 o none →
      Answers (.cvti o) s fun t => EachLane s t c o o.ty.is64 fun l r =>
        if (srcTy o).isInt then
          IntResult o.ty o.sat (intOf (srcTy o) (srcNat c (srcTy o).is64 (setFor s c o l).a l)) r
        else InRange o.ty r ∧ r % 2 ^ o.ty.width = fltToInt o.ty (opMode o) (drawFor c l 0) (src l 0) % 2 ^ o.ty.width)
    ∧ (LaneReady s c 0x11A o none →
      conv (.cvtf o) fun l dr _ =>
        let n := intOf (srcTy o) (srcNat c (srcTy o).is64 (setFor s c o l).a l)
        roundVal (dstFmt o) (opMode o) o.sat dr (.fin (n < 0) n.natAbs 0))
    ∧ (LaneReady s c 0x11B o none →
      conv (.cvts o) fun l dr k =>
        roundScaled (dstFmt o) (opMode o) o.sat dr (src l k) (laneVal c (setFor s c o l).b l).toNat)
    ∧ (LaneReady s c 0x11C o none →
      conv (.cvtd o) fun l dr k =>
        roundVal (dstFmt o) (opMode o) o.sat dr
          (dec ((srcTy o).fmt.getD .f32) (elemOf (srcTy o) (laneVal c (setFor s c o l).a l).toNat k)
            ((laneVal c (setFor s c o l).b l).toNat % 65536)))
    ∧ (LaneReady s c 0x11D o none →
      Answers (.pack o) s fun t => CodesAre s t c o fun l e =>
        rounded c o l e (packSrc o.ty (laneVal c (setFor s c o l).a l).toNat (laneVal c (setFor s c o l).b l).toNat e))
    ∧ (LaneReady s c 0x11E o none →
      Answers (.unpk o) s fun t => ResultIs s t c o false fun l =>
        rne32 (decFmt (fltFmt o) (elemOf o.ty (laneVal c (setFor s c o l).a l).toNat o.kFlt.toNat)))
    ∧ (LaneReady s c 0x120 o none →
      Answers (.scale o) s fun t => ResultIs s t c o false fun l =>
        (laneVal c (setFor s c o l).b l).toNat / 1024 % 64 * 1024
          + scaleFit (fltFmt o) (decFmt .f32 (laneVal c (setFor s c o l).a l).toNat).abs)
    ∧ (Issues s c 0x122 o →
      Answers (.spsel o) s fun t => ∀ l, l < 32 →
        laneVal (c.after t) o.d l =
          if (activeLanes s c o).getLsbD l = true
              ∧ spselPlaces (laneVal c o.d l).toNat (laneVal c o.a l).toNat (laneVal c o.b l).toNat = true then 8
          else laneVal c o.d l)
    ∧ (LaneReady s c 0x121 o none →
      Answers (.vamax o) s fun t => CodesAre s t c o fun l _ => roundVal (fltFmt o) .rne false 0 (amaxOf s c o l))

/-- The reductions: the tree of R248 over a face's lanes, with the identity elsewhere, written to every active lane (R416). -/
def Obligations.Reductions : Prop :=
  ∀ (s : State) (c : Cur) (o : Op),
    let red (i : Instr) (ident : Nat) (op : Nat → Nat → Nat) : Prop :=
      Answers i s fun t => ResultIs s t c o o.ty.is64 fun l =>
        laneOf o.ty (redTree op ((List.range 32).map fun k =>
          if (faceLanes s c o l).getLsbD k then patA c o (setFor s c o k) k else ident))
    (LaneReady s c 0x128 o none → red (.redadd o) (redAddIdent o.ty) (redAddStep o))
    ∧ (LaneReady s c 0x129 o none → red (.redmin o) (redCmpIdent o.ty false) (redCmpStep o false))
    ∧ (LaneReady s c 0x12A o none → red (.redmax o) (redCmpIdent o.ty true) (redCmpStep o true))
    ∧ (LaneReady s c 0x12B o none → red (.redand o) (2 ^ o.ty.width - 1) fun a b => a &&& b)
    ∧ (LaneReady s c 0x12C o none → red (.redor o) 0 fun a b => a ||| b)
    ∧ (LaneReady s c 0x12D o none → red (.redxor o) 0 fun a b => a ^^^ b)

/-! ### Tile predicates and control values -/

/-- The tile-predicate instructions: with every lane guarded in they write the destination, with none they only advance
(R371, R473). -/
def Obligations.TilePredicates : Prop :=
  ∀ (s : State) (c : Cur) (o : Op),
    let old (r : BitVec 8) : DWord := FMap.get 0 c.grp.r.t (r.toNat - 0xF0)
    let writes (i : Instr) (x : DWord) : Prop :=
      Answers i s fun t =>
        (pathGuard c o = .all → ∀ n, FMap.get 0 (regsAfter t c).t n =
          if n = o.d.toNat - 0xF0 then x else FMap.get 0 c.grp.r.t n)
        ∧ (pathGuard c o = .none → regsAfter t c = c.grp.r)
    pathGuard c o ≠ .some →
    (Issues s c 0x230 o → writes (.tset o) (pairVal c o.a 0))
    ∧ (Issues s c 0x231 o → writes (.tand o) (old o.a &&& old o.b))
    ∧ (Issues s c 0x232 o → writes (.tor o) (old o.a ||| old o.b))
    ∧ (Issues s c 0x233 o → writes (.tnot o) (~~~old o.a))
    ∧ (Issues s c 0x234 o → isUni o.d = false → writes (.tmov o) (old o.a))
    ∧ (Issues s c 0x234 o → isUni o.d = true → tmovFaults s c o = [] →
        Answers (.tmov o) s fun t =>
          (pathGuard c o = .all → pairVal (c.after t) o.d 0 = old o.a)
          ∧ (pathGuard c o = .none → regsAfter t c = c.grp.r))

/-- RDSR reads the named value; FEAT the die's feature mask; MILE a milestone; WRSR of LWIN opens, moves or closes the block's
window, waits while a copy into it is under way, and leaves another block's window alone (R216, R442, R479 to R481). -/
def Obligations.ControlValues : Prop :=
  ∀ (s : State) (c : Cur) (o : Op),
    let core := c.blk.core
    let r := c.blk.lrec
    (∀ w wr, srName o.imm16.toNat = some (w, wr) → LaneReady s c 0x290 o none →
      Answers (.rdsr o) s fun t => ResultIs s t c o w fun _ =>
        match o.imm16.toNat with
        | 0x000 => s.clk.gt
        | 0x001 => s.clk.ref
        | 0x002 => (s.logical core).2
        | 0x003 => core % 64
        | 0x004 => core / 64
        | 0x005 => s.own
        | 0x006 => recFid r
        | 0x007 => s.wsWin (core / 64)
        | 0x008 => (s.reg .fidErr (core / 4)).toNat
        | 0x009 => c.grp.role
        | 0x00A => r.arg.toNat
        | 0x00B => r.arg.toNat / 2 ^ 32
        | 0x00C => c.blk.tile
        | 0x00D => c.blk.tile / 2 ^ 32 % 2 ^ 16
        | 0x020 => s.lwin c.blk
        | n =>
          let xs := coord r (c.blk.tile - r.lbase.toNat)
          if n < 0x018 then xs.getD (n - 0x010) 0 else xs.getD (n - 0x018) 0 * recTsh r (n - 0x018))
    ∧ (LaneReady s c 0x292 o none →
      Answers (.feat o) s fun t => ResultIs s t c o true fun _ => (Config.featMask (c.run.core / 64)).toNat)
    ∧ (LaneReady s c 0x1A8 o none →
      Answers (.mile o) s fun t => ResultIs s t c o false fun _ => (FMap.get 0 c.grp.miles o.imm16.toNat).toNat)
    ∧ (Issues s c 0x291 o → pathGuard c o = .all → lwinFaults s c o = [] →
      let v := laneVal c o.a 0
      let size := v.toNat / 2 ^ 16 % 2 ^ 13
      let offs := v.toNat % 2 ^ 13
      (s.winTaken c.blk = false → s.winBusy c.run.blk = false →
        Answers (.wrsr o) s fun t =>
          t.windowOf c.blk.core = if size = 0 then none else some { blk := c.blk.uid, offs := offs, size := size })
      ∧ (s.winTaken c.blk = false → s.winBusy c.run.blk = true → Answers (.wrsr o) s fun t => ParkedOn t c .window)
      ∧ (s.winTaken c.blk = true → Answers (.wrsr o) s fun t => t.windowOf c.blk.core = s.windowOf c.blk.core))

/-! ### Control flow -/

/-- NOP and PAD advance; BRA goes to its target where every lane of the path is guarded in, and on where none is; JMPI to the
address its lanes agree on, where a PAD with its tag stands; BRA.D is a branch where its lanes agree, and where they do not it
pushes a fork frame: its lanes guarded in go to the target in the other slot, the rest to the next instruction, and the frame
holds J and a count of two (R364, R370, R372, R373, R375, R376). -/
def Obligations.Branches : Prop :=
  ∀ (s : State) (c : Cur) (o : Op),
    let target := c.path.pc + (o.imm16.signExtend 64 <<< 3)
    (Steps s c 0x000 o (fallThrough c o) →
      Answers (.nop o) s fun t => GoesTo t c (fallThrough c o) ∧ regsAfter t c = c.grp.r)
    ∧ (Steps s c 0x008 o (fallThrough c o) →
      Answers (.pad o) s fun t => GoesTo t c (fallThrough c o) ∧ regsAfter t c = c.grp.r)
    ∧ (Steps s c 0x001 o target → pathGuard c o = .all →
      Answers (.bra o) s fun t => GoesTo t c target ∧ regsAfter t c = c.grp.r)
    ∧ (Steps s c 0x001 o (c.path.pc + 8) → pathGuard c o = .none →
      Answers (.bra o) s fun t => GoesTo t c (c.path.pc + 8) ∧ regsAfter t c = c.grp.r)
    ∧ (∀ a, Steps s c 0x003 o a → pathGuard c o = .all → (∀ l ∈ lanesOf c.path.mask, pairVal c o.a l = a)
        → padCheck s c a o.tag = .ok →
      Answers (.jmpi o) s fun t => GoesTo t c a ∧ regsAfter t c = c.grp.r)
    ∧ (∀ next, next = (if pathGuard c o = .none then c.path.pc + 16 else target) → Steps s c 0x002 o next → c.path.rg = 0
        → pathGuard c o ≠ .some →
      Answers (.braD o) s fun t => GoesTo t c next ∧ regsAfter t c = c.grp.r)
    ∧ (let j := c.path.pc + ((o.param.extractLsb' 10 16).signExtend 64 <<< 3)
      let d := c.path.depth + 1
      let taken := guardedIn c o
      s.current = some c → commonFaults s c 0x002 o = [] → c.path.rg = 0 → pathGuard c o = .some
        → d ≤ frameLimit c.blk → pushBlocked c.grp c.run.slotB c.path = false → j ≠ target → j ≠ c.path.pc + 16 →
      Answers (.braD o) s fun t =>
        PathAt t c (c.path.pc + 16) (c.path.mask &&& ~~~taken) d 0
        ∧ (∃ q, slotAfter t c (!c.run.slotB) = some q ∧ q.pc = target ∧ q.mask = taken ∧ q.depth = d ∧ q.rg = 0)
        ∧ (s.traceOff → frameKind t c.blk c.run.gid d = 0 ∧ frameNum t c.blk c.run.gid d 0 8 = j.toNat
            ∧ frameNum t c.blk c.run.gid d 16 4 = 0 ∧ frameNum t c.blk c.run.gid d 24 1 = 2))

/-- JOIN at a fork frame adds the path's lanes to ACC and ends the path there; the last to arrive goes on with all of them
(R167, R374). -/
def Obligations.Joins : Prop :=
  ∀ (s : State) (c : Cur) (o : Op),
    let b := c.blk
    let g := c.run.gid
    let d := c.path.depth
    let acc := BitVec.ofNat 32 (frameNum s b g d 16 4) ||| c.path.mask
    s.current = some c → commonFaults s c 0x004 o = [] → s.traceOff →
    (topKind s c 0 = true → c.path.rg = 0 → 1 < frameNum s b g d 24 1 →
      Answers (.join o) s fun t =>
        frameNum t b g d 16 4 = acc.toNat ∧ frameNum t b g d 24 1 = frameNum s b g d 24 1 - 1 ∧ TurnOver t c)
    ∧ (topKind s c 0 = true → c.path.rg = 0 → frameNum s b g d 24 1 = 1 → d = 1 → acc ≠ 0 →
      Answers (.join o) s fun t =>
        ∃ q, slotAfter t c false = some q ∧ q.pc = BitVec.ofNat 64 (frameNum s b g d 0 8) ∧ q.mask = acc ∧ q.depth = 0
          ∧ q.rc = c.path.rc ∧ q.rets = c.path.rets)
    ∧ (topKind s c 0 = false → Moves s c (fallThrough c o) →
      Answers (.join o) s fun t => GoesTo t c (fallThrough c o))

/-- A melded CALL or CALLI keeps its return point in a hardware entry, or with three in use in a frame of kind 5; faces that
call different targets become two paths; RET goes back to the innermost entry, or to the address its lanes agree on (R377 to
R379). -/
def Obligations.Calls : Prop :=
  ∀ (s : State) (c : Cur) (o : Op),
    let ret := c.path.pc + BitVec.ofNat 64 o.len
    let at_ (t : State) (pc : DWord) (rc depth : Nat) (rets : List DWord) : Prop :=
      ∃ p, slotAfter t c c.run.slotB = some p ∧ p.pc = pc ∧ p.mask = c.path.mask ∧ p.rc = rc ∧ p.depth = depth ∧ p.rets = rets
    (Steps s c 0x005 o (callNext s c o false) → pathGuard c o = .all → callMelds s c o false = true → c.path.rc < 3 →
      Answers (.call o) s fun t => at_ t (callNext s c o false) (c.path.rc + 1) c.path.depth (c.path.rets ++ [ret]))
    ∧ (Steps s c 0x006 o (callNext s c o true) → pathGuard c o = .all → callMelds s c o true = true → c.path.rc < 3
        → calliFaults s c o = [] → PadsOk c o (calliPads s c o) s →
      Answers (.calli o) s fun t => at_ t (callNext s c o true) (c.path.rc + 1) c.path.depth (c.path.rets ++ [ret]))
    ∧ (Steps s c 0x005 o (callNext s c o false) → pathGuard c o = .all → callMelds s c o false = true → 3 ≤ c.path.rc
        → c.path.depth + 1 ≤ frameLimit c.blk → pushBlocked c.grp c.run.slotB c.path = false →
      Answers (.call o) s fun t => at_ t (callNext s c o false) (c.path.rc + 1) (c.path.depth + 1) c.path.rets
        ∧ (s.traceOff → frameKind t c.blk c.run.gid (c.path.depth + 1) = 5
            ∧ frameNum t c.blk c.run.gid (c.path.depth + 1) 0 8 = ret.toNat))
    ∧ (s.current = some c → commonFaults s c 0x005 o = [] → pathGuard c o = .all → callMelds s c o false = false
        → c.path.depth + 2 ≤ frameLimit c.blk → pushBlocked c.grp c.run.slotB c.path = false
        → (callTargets s c o false).1 ≠ ret → (callTargets s c o false).2 ≠ ret →
      Answers (.call o) s fun t =>
        (∃ p, slotAfter t c false = some p ∧ p.pc = (callTargets s c o false).1 ∧ p.mask = faceX s c
          ∧ p.depth = c.path.depth + 2 ∧ p.rg = 0)
        ∧ (∃ q, slotAfter t c true = some q ∧ q.pc = (callTargets s c o false).2 ∧ q.mask = faceY s c
          ∧ q.depth = c.path.depth + 2 ∧ q.rg = 0))
    ∧ (∀ a, Steps s c 0x007 o a → pathGuard c o = .all → retUnmelds s c = false → 1 ≤ c.path.rc → c.path.rc ≤ 3
        → (if o.a = 0xF8 then c.path.rets.getLast? = some a else (∀ l ∈ lanesOf c.path.mask, pairVal c o.a l = a) ∧ a.toNat % 8 = 0) →
      Answers (.ret o) s fun t => at_ t a (c.path.rc - 1) c.path.depth c.path.rets.dropLast)

/-- MELD opens a region on the lanes its predicates choose, ENDM closes it; the fifth and deeper regions stand in frames of
kind 1 (R381, R382). -/
def Obligations.Regions : Prop :=
  ∀ (s : State) (c : Cur) (o : Op),
    let d := c.path.depth
    let at_ (t : State) (rg depth : Nat) (fx : List Word) : Prop :=
      ∃ p, slotAfter t c c.run.slotB = some p ∧ p.pc = fallThrough c o ∧ p.mask = c.path.mask ∧ p.rg = rg ∧ p.depth = depth
        ∧ p.fx = fx
    (Steps s c 0x010 o (fallThrough c o) → c.path.rg < 4 →
      Answers (.meld o) s fun t => at_ t (c.path.rg + 1) d (c.path.fx ++ [chosenLanes s c o]))
    ∧ (Steps s c 0x010 o (fallThrough c o) → 4 ≤ c.path.rg → d + 1 ≤ frameLimit c.blk
        → pushBlocked c.grp c.run.slotB c.path = false → s.traceOff →
      Answers (.meld o) s fun t =>
        at_ t (c.path.rg + 1) (d + 1) c.path.fx ∧ frameKind t c.blk c.run.gid (d + 1) = 1
        ∧ frameNum t c.blk c.run.gid (d + 1) 12 2 = (c.path.rg + 1) % 2 ^ 16
        ∧ frameNum t c.blk c.run.gid (d + 1) 16 4 = (chosenLanes s c o).toNat)
    ∧ (Steps s c 0x011 o (fallThrough c o) → 1 ≤ c.path.rg → c.path.rg ≤ 4
        → ¬((topKind s c 3 = true ∨ topKind s c 6 = true) ∧ topNum s c 12 2 = c.path.rg) →
      Answers (.endm o) s fun t => at_ t (c.path.rg - 1) d c.path.fx.dropLast)
    ∧ (s.current = some c → commonFaults s c 0x011 o = [] → 4 < c.path.rg → topKind s c 1 = true → c.path.mask ≠ 0
        → reachesJoin s c { c.path with depth := d - 1 } (fallThrough c o) = false →
      Answers (.endm o) s fun t => at_ t (c.path.rg - 1) (d - 1) c.path.fx)

/-- The loops. MLOOP keeps the lanes that stay and pushes a frame of kind 3 with the rest to come back; MNEXT goes round
again with the lanes chosen. LOOP pushes a frame of kind 6 with its count, or skips; LEND goes round while trips are left and
leaves after the last (R384 to R386). -/
def Obligations.Loops : Prop :=
  ∀ (s : State) (c : Cur) (o : Op),
    let d := c.path.depth
    let top (t : State) (f off n : Nat) : Nat := frameNum t c.blk c.run.gid f off n
    (s.current = some c → commonFaults s c 0x012 o = [] → d + 1 ≤ frameLimit c.blk
        → pushBlocked c.grp c.run.slotB c.path = false → c.path.mask ≠ 0 → s.traceOff →
      Answers (.mloop o) s fun t =>
        PathAt t c (fallThrough c o) (chosenLanes s c o) (d + 1) c.path.rg
        ∧ frameKind t c.blk c.run.gid (d + 1) = 3 ∧ top t (d + 1) 0 8 = (c.path.pc + BitVec.ofNat 64 o.len).toNat
        ∧ top t (d + 1) 16 4 = c.path.mask.toNat)
    ∧ (s.current = some c → commonFaults s c 0x013 o = [] → loopTop s c 3 = true → chosenLanes s c o ≠ 0 →
      Answers (.mnext o) s fun t => PathAt t c (BitVec.ofNat 64 (top s d 0 8)) (chosenLanes s c o) d c.path.rg)
    ∧ (s.current = some c → commonFaults s c 0x013 o = [] → loopTop s c 3 = true → chosenLanes s c o = 0
        → top s d 16 4 ≠ 0 → reachesJoin s c { c.path with depth := d - 1 } (fallThrough c o) = false →
      Answers (.mnext o) s fun t =>
        PathAt t c (fallThrough c o) (BitVec.ofNat 32 (top s d 16 4)) (d - 1) c.path.rg)
    ∧ (s.current = some c → commonFaults s c 0x00A o = [] → pathGuard c o = .all → loopCount c o ≠ 0 → d + 1 ≤ frameLimit c.blk
        → pushBlocked c.grp c.run.slotB c.path = false → c.path.mask ≠ 0 → s.traceOff →
      Answers (.loop o) s fun t =>
        PathAt t c (fallThrough c o) c.path.mask (d + 1) c.path.rg
        ∧ frameKind t c.blk c.run.gid (d + 1) = 6 ∧ top t (d + 1) 8 4 = (laneVal c o.a 0).toNat
        ∧ top t (d + 1) 0 8 = (c.path.pc + 8).toNat)
    ∧ (Steps s c 0x00A o (c.path.pc + (o.imm16.signExtend 64 <<< 3)) → loopSkips c o = true →
      Answers (.loop o) s fun t => GoesTo t c (c.path.pc + (o.imm16.signExtend 64 <<< 3)))
    ∧ (s.current = some c → commonFaults s c 0x00B o = [] → loopTop s c 6 = true → 1 < top s d 8 4 → c.path.mask ≠ 0
        → s.traceOff →
      Answers (.lend o) s fun t =>
        PathAt t c (BitVec.ofNat 64 (top s d 0 8)) c.path.mask d c.path.rg ∧ top t d 8 4 = top s d 8 4 - 1)
    ∧ (s.current = some c → commonFaults s c 0x00B o = [] → loopTop s c 6 = true → top s d 8 4 = 1 → c.path.mask ≠ 0
        → reachesJoin s c { c.path with depth := d - 1 } (fallThrough c o) = false →
      Answers (.lend o) s fun t => PathAt t c (fallThrough c o) c.path.mask (d - 1) c.path.rg)

/-- EXIT takes the guarded lanes out of the path; a path with none left and no fork below it ends, and its turn with it; the
last path of a group ends once every earlier access has been acknowledged, and waits for that at issue (R115, R184). YIELD ends the
turn. SLEEP parks the group for its count of REFTICKs (R389, R390). How that EXIT waits, leaving the slot as the first instruction of
its run and keeping it within the run, is the model's choice, log entry 11. -/
def Obligations.EndAndWait : Prop :=
  ∀ (s : State) (c : Cur) (o : Op),
    (Steps s c 0x009 o (fallThrough c o) → c.path.depth = 0 → c.grp.exited = false
        → guardedIn c o ≠ c.path.mask →
      Answers (.exit o) s fun t =>
        PathAt t c (fallThrough c o) (c.path.mask &&& ~~~guardedIn c o) 0 c.path.rg)
    ∧ (s.current = some c → commonFaults s c 0x009 o = [] → c.path.depth = 0 → guardedIn c o = c.path.mask
        → c.path.mask ≠ 0 → c.grp.exited = false → c.grp.park = none
        → (groupSlot c.grp (!c.run.slotB) = none → Released s c) →
      Answers (.exit o) s fun t => slotAfter t c c.run.slotB = none ∧ TurnOver t c)
    ∧ (s.current = some c → commonFaults s c 0x009 o = [] → c.path.depth = 0 → guardedIn c o = c.path.mask
        → c.path.mask ≠ 0 → c.grp.exited = false → c.grp.park = none → groupSlot c.grp (!c.run.slotB) = none
        → (s.sendDepotOf c.run.blk c.run.gid).acked c.run.blk c.run.gid = false →
      (c.run.count = 0 →
        Answers (.exit o) s fun t => GoesTo t c c.path.pc ∧ TurnOver t c
          ∧ ∃ p, slotAfter t c c.run.slotB = some p ∧ p.hold = .mem true)
      ∧ (c.run.count ≠ 0 → Answers (.exit o) s fun t => KeepsSlot t c ∧ regsAfter t c = c.grp.r))
    ∧ (Steps s c 0x029 o (fallThrough c o) → pathGuard c o = .all →
      Answers (.yield o) s fun t => GoesTo t c (fallThrough c o) ∧ TurnOver t c)
    ∧ (Issues s c 0x02A o → pathGuard c o = .all → o.imm16 ≠ 0 →
      Answers (.sleep o) s fun t => ParkedOn t c (.sleep (s.clk.ref + o.imm16.toNat)) ∧ TurnOver t c)
    ∧ (Steps s c 0x02A o (fallThrough c o) → pathGuard c o = .all → o.imm16 = 0 →
      Answers (.sleep o) s fun t => GoesTo t c (fallThrough c o) ∧ TurnOver t c)

/-- TRAP, and BRK where no stop is armed, take their trap: the group stops with its registers unchanged, its turn is over, and
a precise fault of this code, these lanes, AUX and PC stands with it; BRK where a stop is armed lowers the stop target. A precise
fault of a group with nothing pending and no earlier error is recorded at once: the block has one record more, with the fields
of R188, and stops (R183, R187 to R189, R310, R390). -/
def Obligations.Traps : Prop :=
  ∀ (s : State) (c : Cur) (o : Op),
    let traps (i : Instr) (code : Nat) (lanes : Word) : Prop :=
      Answers i s fun t =>
        TurnOver t c ∧ regsAfter t c = c.grp.r
        ∧ ∃ g, groupAfter t c = some g ∧ g.dead = true ∧ ∃ k ∈ g.cands, k.code = code ∧ k.lanes = lanes ∧ k.prec = 0
            ∧ k.aux = o.imm16.setWidth 32 ∧ k.site.pc = c.path.pc ∧ k.site.seq = c.grp.issued
    (s.current = some c → commonFaults s c 0x028 o = [] → guardedIn c o ≠ 0 → joinFault s c (fallThrough c o) = [] →
      traps (.trap o) 0x0F (guardedIn c o))
    ∧ (s.current = some c → commonFaults s c 0x02B o = [] → pathGuard c o = .all → (s.reg .dbgStopc 0).getLsbD 0 = false
        → joinFault s c (fallThrough c o) = [] →
      traps (.brk o) 0x14 c.path.mask)
    ∧ (s.current = some c → commonFaults s c 0x02B o = [] → pathGuard c o = .all → (s.reg .dbgStopc 0).getLsbD 0 = true
        → joinFault s c (fallThrough c o) = [] → s.traceOff → s.clk.gt + 4096 < 2 ^ 64 →
      Answers (.brk o) s fun t =>
        (t.reg .dbgStopt 0).toNat = min (s.reg .dbgStopt 0).toNat (s.clk.gt + 4096) ∧ regsAfter t c = c.grp.r)
    ∧ (∀ f : FaultInfo,
      s.current = some c → c.grp.cands = [] → c.grp.recorded = false → pendLive c.grp = false → c.blk.stop ≠ some .cancel →
      ∃ b r, (raise c f s).block? c.run.blk = some b ∧ b.records = c.blk.records ++ [r] ∧ b.stop = some .fault
        ∧ r.code = BitVec.ofNat 8 f.code ∧ r.flags.extractLsb' 0 2 = 0 ∧ r.flags.getLsbD 4 = false
        ∧ r.flags.getLsbD 6 = c.run.slotB ∧ r.stat = 0 ∧ r.gid = BitVec.ofNat 16 c.grp.gid ∧ r.pc = c.path.pc
        ∧ r.lanes = f.lanes ∧ r.aux = f.aux ∧ r.addr = s.resolve f.addr ∧ r.depth = BitVec.ofNat 16 c.path.depth
        ∧ r.gtick = BitVec.ofNat 64 s.clk.gt ∧ r.die = BitVec.ofNat 8 (c.blk.core / 64)
        ∧ r.pcore = BitVec.ofNat 8 (c.blk.core % 64) ∧ r.job = BitVec.ofNat 32 (recJob c.blk.lrec))

/-- Whole-path instructions: with no lane of the path guarded in they only advance, LOOP to its exit; with some but not all they
raise UNIFORM, and SHAPE where the form writes a uniform register. An engine form whose tile predicate is off only advances
(R202, R226, R371, R422, R445). Which target the ADDR of a partial CALL, CALLI, RET or LOOP names is the model's choice, log
entry 36. -/
def Obligations.WholePathGuards : Prop :=
  ∀ (s : State) (c : Cur) (o : Op) (i : Instr) (opc : BitVec 10),
    i.parts = some (opc, o) →
    let l := guardedLane c o
    let target := c.path.pc + (o.imm16.signExtend 64 <<< 3)
    let advances : Prop := Answers i s fun t => GoesTo t c (fallThrough c o) ∧ regsAfter t c = c.grp.r
    let raises (code : Nat) (addr : DWord) : Prop :=
      Answers i s fun t =>
        TurnOver t c ∧ regsAfter t c = c.grp.r
        ∧ ∃ g, groupAfter t c = some g ∧ g.dead = true
            ∧ ∃ k ∈ g.cands, k.lanes = guardedIn c o ∧ k.site.pc = c.path.pc ∧ k.code = code ∧ k.prec = 0
                ∧ k.addr = s.resolve addr
    (opc ∈ ([0x029, 0x02A, 0x02B, 0x1A0, 0x1A1, 0x1A2, 0x1A3, 0x1A4, 0x1A5, 0x1A6, 0x1A7, 0x1A9, 0x230, 0x231, 0x232, 0x233,
        0x234, 0x280, 0x281, 0x282, 0x291] : List (BitVec 10)) →
      (Steps s c opc o (fallThrough c o) → pathGuard c o = .none → advances)
      ∧ (s.current = some c → commonFaults s c opc o = [] → pathGuard c o = .some → joinFault s c (fallThrough c o) = [] →
        raises (if opc ∈ ([0x1A4, 0x1A7, 0x280, 0x281] : List (BitVec 10)) ∨ (opc = 0x234 ∧ isUni o.d = true) then 0x06 else 0x07) 0))
    ∧ (opc ∈ ([0x003, 0x005, 0x006, 0x007] : List (BitVec 10)) → pathGuard c o = .none → c.path.loop = none →
      Steps s c opc o (fallThrough c o) → advances)
    ∧ (opc = 0x00A → pathGuard c o = .none → Steps s c opc o target →
      Answers i s fun t => GoesTo t c target ∧ regsAfter t c = c.grp.r)
    ∧ (s.current = some c → commonFaults s c opc o = [] → pathGuard c o = .some →
      (opc = 0x001 ∨ opc = 0x00A → raises 0x07 target)
      ∧ (opc = 0x003 → raises 0x07 (pairVal c o.a l))
      ∧ (opc = 0x005 → raises 0x07 (laneTarget s c o false l))
      ∧ (opc = 0x006 → raises 0x07 (laneTarget s c o true l))
      ∧ (opc = 0x007 → raises 0x07 (retTarget s c o)))
    ∧ (opc ∈ ([0x200, 0x201, 0x202, 0x203, 0x204, 0x205, 0x206, 0x207, 0x218, 0x219, 0x220, 0x228, 0x229, 0x22A] : List (BitVec 10)) →
      (Steps s c opc o (fallThrough c o) → tileOn c o = false ∨ pathGuard c o = .none → advances)
      ∧ (s.current = some c → commonFaults s c opc o = [] → tileOn c o = true → pathGuard c o = .some
          → joinFault s c (fallThrough c o) = [] →
        raises 0x07 0))

/-! ### Memory -/

/-- LD, GATH, LDU and LDT from scratch read little-endian bytes at once, and hold their destinations until the values come
back; a general destination gets one value for each active lane, LDU one for all (R207, R419, R420, R424, R427). -/
def Obligations.ScratchLoads : Prop :=
  ∀ (s : State) (c : Cur) (o : Op),
    let ls := activeLanes s c o
    let loads (i : Instr) (dest : Dest) (rs : List Nat) (ps : List (Nat × DWord)) (n : Nat) : Prop :=
      Answers i s fun t => Holds t c rs fun op =>
        op.id = s.fab.nextId ∧ op.kind = .load ∧ op.ty = o.ty ∧ op.dest = dest ∧ op.left = 0
        ∧ ∀ p ∈ ps, FMap.get 0 op.vals p.1 =
            BitVec.ofNat 64 (s.fab.mem.num (spaceKey (scratchSpace c.blk.core) (scrPlace c.blk p.2).toNat) n)
    let vec : Dest := .vec o.d.toNat (setY o).d.toNat
    s.memClear c.run.blk c.run.gid = true →
    (inScratch o = true → Accesses s c 0x180 o true (lanePlaces s c o ls)
        → scrUncorr s c true o.ty.bytes (lanePlaces s c o ls) = [] →
      loads (.ld o) vec (faceDests s c o ls) (lanePlaces s c o ls) o.ty.bytes)
    ∧ (inScratch o = true → Accesses s c 0x182 o true (lanePlaces s c o ls)
        → scrUncorr s c true o.ty.bytes (lanePlaces s c o ls) = [] →
      loads (.gath o) vec (faceDests s c o ls) (lanePlaces s c o ls) o.ty.bytes)
    ∧ (inScratch o = true → Accesses s c 0x185 o true (lduPlace s c o) → scrUncorr s c true o.ty.bytes (lduPlace s c o) = []
        → shapeFaults s c 0x185 o none = [] →
      loads (.ldu o) (if isUni o.d then .uni (o.d.toNat - 0xA0) else .all o.d.toNat) (destRegs o.ty.is64 o.d) (lduPlace s c o)
        o.ty.bytes)
    ∧ (Issues s c 0x186 o → ls ≠ 0 → tileFaults s c o = []
        → scrUncorr s c true 4 ((tileParts c o ls).map fun p => (p.1 % 32, p.2)) = [] →
      loads (.ldt o) (.rows o.d.toNat (tileCount o)) ((List.range (tileCount o)).map (o.d.toNat + ·)) (tileParts c o ls) 4)

/-- ST, SCAT and STT to scratch store at once, in ascending lane order so that the highest lane's value stays; every other
byte outside the path's stack stays, and so do all registers (R207, R425, R427). -/
def Obligations.ScratchStores : Prop :=
  ∀ (s : State) (c : Cur) (o : Op),
    let ls := activeLanes s c o
    let place (p : Part) : Nat := spaceKey (scratchSpace c.blk.core) (scrPlace c.blk p.va).toNat
    let stores (i : Instr) (ps : List Part) : Prop :=
      Answers i s fun t =>
        (∀ u i, t.groupRegs u i = s.groupRegs u i)
        ∧ (s.traceOff → ∀ k, ¬ inStack c k → t.fab.mem.byte k = byteAfter place s.fab.mem.byte ps k)
    let lanes : List Part := (lanePlaces s c o ls).map fun p =>
      { lane := p.1, va := p.2, size := o.ty.bytes
        data := if o.ty.is64 then pairVal c (setFor s c o p.1).d p.1 else (laneVal c (setFor s c o p.1).d p.1).setWidth 64 }
    let rows : List Part := (tileParts c o ls).map fun p =>
      { lane := p.1 % 32, va := p.2, size := 4, data := (FMap.get 0 c.grp.r.v (32 * o.d.toNat + p.1)).setWidth 64 }
    (inScratch o = true → Accesses s c 0x181 o true (lanePlaces s c o ls) → ((relOf o).isSome = true → Released s c)
        → (startOf s c o).memClear c.run.blk c.run.gid = true →
      stores (.st o) lanes)
    ∧ (inScratch o = true → Accesses s c 0x183 o true (lanePlaces s c o ls) → ((relOf o).isSome = true → Released s c)
        → (startOf s c o).memClear c.run.blk c.run.gid = true →
      stores (.scat o) lanes)
    ∧ (Issues s c 0x187 o → ls ≠ 0 → tileFaults s c o = [] → s.memClear c.run.blk c.run.gid = true →
      stores (.stt o) rows)

/-- LD, GATH and LDU of global memory: what the core may serve comes from the core, every other piece is in a request for its
line, and the destinations wait; PRF requests its lines and nothing waits (R114, R208, R424, R426, R428). R114 speaks of a load all
of whose bytes can be served; that each piece of one load is served or requested on its own is the model's choice, log entry 47. -/
def Obligations.GlobalLoads : Prop :=
  ∀ (s : State) (c : Cur) (o : Op),
    let ls := activeLanes s c o
    let loads (i : Instr) (depot : Bool) (dest : Dest) (rs : List Nat) (ps : List (Nat × DWord)) : Prop :=
      let served (p : Part) : Option Nat :=
        if s.acqDeps c.run.blk c.run.gid = [] then s.serve c (!depot && (acqOf o).isNone) p else none
      Answers i s fun t => Holds t c rs fun op =>
        op.id = s.fab.nextId ∧ op.kind = .load ∧ op.ty = o.ty ∧ op.dest = dest
        ∧ op.left = (linesOf ((partsOf s o.ty.bytes ps).filter fun p => (served p).isNone)).length
        ∧ ∀ p ∈ partsOf s o.ty.bytes ps,
            match served p with
            | some v => FMap.get 0 op.vals p.lane = BitVec.ofNat 64 v
            | none => Requested s t c op.id .load p fun r =>
                r.acq = acqOf o ∧ r.deps = s.acqDeps c.run.blk c.run.gid ∧ (depot = false → r.phase = .flying)
    (inScratch o = false → Accesses s c 0x180 o false (lanePlaces s c o ls) → badPlaces (lanePlaces s c o ls) = [] →
      loads (.ld o) false (.vec o.d.toNat (setY o).d.toNat) (faceDests s c o ls) (lanePlaces s c o ls))
    ∧ (inScratch o = false → Accesses s c 0x182 o false (lanePlaces s c o ls) → badPlaces (lanePlaces s c o ls) = [] →
      loads (.gath o) true (.vec o.d.toNat (setY o).d.toNat) (faceDests s c o ls) (lanePlaces s c o ls))
    ∧ (inScratch o = false → Accesses s c 0x185 o false (lduPlace s c o) → badPlaces (lduPlace s c o) = []
        → shapeFaults s c 0x185 o none = [] →
      loads (.ldu o) false (if isUni o.d then .uni (o.d.toNat - 0xA0) else .all o.d.toNat) (destRegs o.ty.is64 o.d)
        (lduPlace s c o))
    ∧ (Issues s c 0x184 o →
      Answers (.prf o) s fun t => QuietFrame s t c
        ∧ ∀ l ∈ lanesOf ls, vaLegal (laneEa c (setX o) l) = true → vaRgn (laneEa c (setX o) l) ≤ 5 →
            ∃ r ∈ t.fab.reqs, s.fab.nextId ≤ r.id ∧ r.kind = .prefetch ∧ r.core = c.blk.core
              ∧ r.line = lineOf (s.resolve (laneEa c (setX o) l)))

/-- ST and SCAT to global memory: each lane's bytes leave in a request for their line, memory itself does not change yet; the
atomics send operand, comparand and operator the same way, and a returning one holds its destination (R208, R425, R426, R429
to R433). -/
def Obligations.GlobalStoresAndAtomics : Prop :=
  ∀ (s : State) (c : Cur) (o : Op),
    let ls := activeLanes s c o
    let opens : Prop := sideFull s c = false ∧ ((relOf o).isSome = true → Released s c)
    let stores (i : Instr) : Prop :=
      Answers i s fun t => QuietFrame s t c ∧ ∃ op, ∀ p ∈ lanePlaces s c o ls,
        Requested s t c op .store
          { lane := p.1, va := s.resolve p.2, size := o.ty.bytes
            data := if o.ty.is64 then pairVal c (setFor s c o p.1).d p.1 else (laneVal c (setFor s c o p.1).d p.1).setWidth 64 }
          fun r => r.rel = relOf o
    let src (r : BitVec 8) (l : Nat) : DWord := if o.ty.is64 then pairVal c r l else (laneVal c r l).setWidth 64
    let atomic (i : Instr) (aop : AtomOp) : Prop :=
      badPlaces (atomPlaces s c o) = [] → opens →
      Answers i s fun t => QuietFrame s t c
        ∧ Holds t c (if o.kMem.getLsbD 0 then [] else destRegs o.ty.is64 o.d) fun op =>
          op.kind = .atom ∧ op.ty = o.ty ∧ op.dest = (if o.kMem.getLsbD 0 then .none else .vec o.d.toNat o.d.toNat)
          ∧ ∀ l ∈ lanesOf ls,
              Requested s t c op.id .atom
                { lane := l, va := s.resolve (pairVal c o.a l), size := o.ty.bytes, data := src o.b l, cmp := src o.c l }
                fun r => r.aop = aop ∧ r.ty = o.ty ∧ r.acq = acqOf o ∧ r.rel = relOf o
    (inScratch o = false → Accesses s c 0x181 o false (lanePlaces s c o ls) → badPlaces (lanePlaces s c o ls) = [] → opens →
      stores (.st o))
    ∧ (inScratch o = false → Accesses s c 0x183 o false (lanePlaces s c o ls) → badPlaces (lanePlaces s c o ls) = [] → opens →
      stores (.scat o))
    ∧ (Accesses s c 0x190 o false (atomPlaces s c o) → atomic (.aadd o) .add)
    ∧ (Accesses s c 0x191 o false (atomPlaces s c o) → atomic (.amin o) .min)
    ∧ (Accesses s c 0x192 o false (atomPlaces s c o) → atomic (.amax o) .max)
    ∧ (Accesses s c 0x193 o false (atomPlaces s c o) → atomic (.aand o) .and)
    ∧ (Accesses s c 0x194 o false (atomPlaces s c o) → atomic (.aor o) .or)
    ∧ (Accesses s c 0x195 o false (atomPlaces s c o) → atomic (.axor o) .xor)
    ∧ (Accesses s c 0x196 o false (atomPlaces s c o) → atomic (.axch o) .xch)
    ∧ (Accesses s c 0x197 o false (atomPlaces s c o) → atomic (.acas o) .cas)
    ∧ (Accesses s c 0x198 o false (atomPlaces s c o) → atomic (.amaxr o) .maxr)

/-- Global accesses whose addresses are not a multiple of the type's size are MISALIGN, scratch stores beyond program scratch
SCRBOUND, and scratch loads of bytes with an uncorrectable error UNCORR: no lane is performed, and the fault names every
failing lane and the lowest one's address (R190, R206, R421). -/
def Obligations.AccessFaults : Prop :=
  ∀ (s : State) (c : Cur) (o : Op) (i : Instr) (opc : BitVec 10),
    let ls := activeLanes s c o
    let ps := if 0x190 ≤ opc.toNat then atomPlaces s c o else lanePlaces s c o ls
    let traps (code : Nat) (bad : List (Nat × DWord)) : Prop :=
      Answers i s fun t =>
        QuietFrame s t c ∧ TurnOver t c
        ∧ InGroup t c fun g => g.dead = true ∧ ∃ k ∈ g.cands, k.code = code ∧ k.prec = 0 ∧ k.site.pc = c.path.pc
            ∧ (∀ l, k.lanes.getLsbD l = true ↔ ∃ p ∈ bad, p.1 = l) ∧ ∀ p, bad.head? = some p → k.addr = s.resolve p.2
    i.parts = some (opc, o) → Issues s c opc o →
    (opc ∈ ([0x180, 0x181, 0x182, 0x183, 0x190, 0x191, 0x192, 0x193, 0x194, 0x195, 0x196, 0x197, 0x198] : List (BitVec 10))
        → inScratch o = false → ps.filter (fun p => p.2.toNat % o.ty.bytes != 0) ≠ [] →
      traps 0x10 (ps.filter fun p => p.2.toNat % o.ty.bytes != 0))
    ∧ (opc ∈ ([0x181, 0x183] : List (BitVec 10)) → inScratch o = true → (∀ p ∈ ps, p.2.toNat % o.ty.bytes = 0)
        → ps.filter (fun p => decide (c.blk.scr < p.2.toNat + o.ty.bytes)) ≠ [] →
      traps 0x11 (ps.filter fun p => decide (c.blk.scr < p.2.toNat + o.ty.bytes)))
    ∧ (let bad := ps.filter fun p =>
        s.uncorrIn (spaceKey (scratchSpace c.blk.core) (c.blk.ext + p.2.toNat)) o.ty.bytes
      opc ∈ ([0x180, 0x182] : List (BitVec 10)) → inScratch o = true → placeFaults c true o.ty.bytes o.ty.bytes ps = []
        → bad ≠ [] →
      traps 0x23 bad)

/-! ### Synchronisation -/

/-- FENCE goes on once its release has come, and at clu and wider clears the L1; while an access of the group is unanswered it
does not issue. INVL1 clears the core's L1 (R115, R282, R283, R434, R443). How FENCE waits, leaving the slot as the first instruction
of its run and keeping it within the run, is the model's choice, log entry 11. -/
def Obligations.Fences : Prop :=
  ∀ (s : State) (c : Cur) (o : Op),
    (Steps s c 0x1A0 o (fallThrough c o) → pathGuard c o = .all → Released s c →
      Answers (.fence o) s fun t => GoesTo t c (fallThrough c o) ∧ regsAfter t c = c.grp.r
        ∧ (2 ≤ o.scope.toNat → ∀ l ∈ t.fab.l1, l.core ≠ c.blk.core))
    ∧ (Issues s c 0x1A0 o → pathGuard c o = .all
        → (s.sendDepotOf c.run.blk c.run.gid).acked c.run.blk c.run.gid = false →
      (c.run.count = 0 →
        Answers (.fence o) s fun t => GoesTo t c c.path.pc ∧ TurnOver t c
          ∧ ∃ p, slotAfter t c c.run.slotB = some p ∧ p.hold = .mem true)
      ∧ (c.run.count ≠ 0 → Answers (.fence o) s fun t => KeepsSlot t c ∧ regsAfter t c = c.grp.r))
    ∧ (Steps s c 0x1A9 o (fallThrough c o) → pathGuard c o = .all →
      Answers (.invl1 o) s fun t => GoesTo t c (fallThrough c o) ∧ ∀ l ∈ t.fab.l1, l.core ≠ c.blk.core)

/-- Barrier objects: CBAR sets PHASE 0, EXPECT and COUNT 0; ARRIVE counts, and the arrival that reaches EXPECT flips PHASE and
clears COUNT; WAITP and ARWT go on when PHASE differs from theirs and park otherwise; ARWT's phase is the one before its own
arrival (R219 to R221, R436 to R438). -/
def Obligations.BarrierObjects : Prop :=
  ∀ (s : State) (c : Cur) (o : Op),
    let off := (laneVal c o.a 0).toNat
    let key := spaceKey (scratchSpace c.blk.core) (c.blk.ext + off)
    let x := s.fab.mem.num key 8
    let count := x % 2 ^ 16
    let expect := x / 2 ^ 32 % 2 ^ 16
    let phase := x / 2 ^ 63
    let last := (count + 1) % 2 ^ 16 = expect
    let after := if last then (x / 2 ^ 16 * 2 ^ 16 + 2 ^ 63) % 2 ^ 64 else x / 2 ^ 16 * 2 ^ 16 + (count + 1) % 2 ^ 16
    let sReg (t : State) : Nat := (FMap.get 0 (regsAfter t c).s (o.d.toNat - 0xA0)).toNat
    let sound : Prop := objUncorr s c o = []
    pathGuard c o = .all → objFaults c o = [] →
    (Issues s c 0x1A1 o → Released s c → s.traceOff →
      Answers (.cbar o) s fun t => t.fab.mem.num key 8 = (laneVal c o.b 0).toNat % 65536 * 2 ^ 32)
    ∧ (Issues s c 0x1A2 o → sound → Released s c → s.traceOff → (last → phaseWaiters c.blk off = []) →
      Answers (.arrive o) s fun t => t.fab.mem.num key 8 = after)
    ∧ (Steps s c 0x1A3 o (fallThrough c o) → sound → s.memClear c.run.blk c.run.gid = true → hasImprecise c.grp = false
        → phase ≠ waitPhase c o →
      Answers (.waitp o) s fun t => GoesTo t c (fallThrough c o))
    ∧ (Issues s c 0x1A3 o → sound → s.memClear c.run.blk c.run.gid = true → phase = waitPhase c o →
      Answers (.waitp o) s fun t => ParkedOn t c (.phase off) ∧ TurnOver t c)
    ∧ (Steps s c 0x1A4 o (fallThrough c o) → sound → hasArrived c = false → Released s c → s.traceOff → last
        → phaseWaiters c.blk off = [] →
      Answers (.arwt o) s fun t => GoesTo t c (fallThrough c o) ∧ sReg t = phase)
    ∧ (Issues s c 0x1A4 o → sound → hasArrived c = false → Released s c → s.traceOff → ¬ last →
      Answers (.arwt o) s fun t => ParkedOn t c (.phase off) ∧ sReg t = phase ∧ t.fab.mem.num key 8 = after
        ∧ InGroup t c fun g => (if c.run.slotB then g.arrB else g.arrA) = true)
    ∧ (Issues s c 0x1A4 o → sound → hasArrived c = true → s.memClear c.run.blk c.run.gid = true
        → phase = (FMap.get 0 c.grp.r.s (o.d.toNat - 0xA0)).toNat % 2 →
      Answers (.arwt o) s fun t => ParkedOn t c (.phase off))

/-- BAR.blk completes when every group of the block that has not ended stands in it; BAR.clu when its count reaches its
number of participants. Until then the group is parked in it, with its arrival counted (R439, R440). -/
def Obligations.HardwareBarriers : Prop :=
  ∀ (s : State) (c : Cur) (o : Op),
    let n := (laneVal c o.a 0).toNat % 65536
    let entry (u : State) : CluBar := barEntry (u.cluster (c.blk.core / 4)) c.blk.key o.kMem.toNat
    (c.blk.groups.map fun g => g.gid).Nodup → Issues s c 0x1A5 o → pathGuard c o = .all → barPath s c o = [] → Released s c →
    (hasArrived c = false → (∀ g ∈ c.blk.groups, g.gid ≠ c.run.gid → g.exited = true ∨ inBarBlk g = true)
        → c.grp.exited = false →
      Answers (.barBlk o) s fun t => GoesTo t c (fallThrough c o))
    ∧ (hasArrived c = false → (∃ g ∈ c.blk.groups, g.gid ≠ c.run.gid ∧ g.exited = false ∧ inBarBlk g = false) →
      Answers (.barBlk o) s fun t => ParkedOn t c .barBlk ∧ TurnOver t c)
    ∧ (barFull (s.cluster (c.blk.core / 4)) c.blk.key o.kMem.toNat = false → ((entry s).count + 1) % 65536 = n
        → (c.run.blk, c.run.gid) ∉ (entry s).inside →
      Answers (.barClu o) s fun t => GoesTo t c (fallThrough c o))
    ∧ (barFull (s.cluster (c.blk.core / 4)) c.blk.key o.kMem.toNat = false → ((entry s).count + 1) % 65536 ≠ n →
      Answers (.barClu o) s fun t => ParkedOn t c (.barClu o.kMem.toNat) ∧ TurnOver t c
        ∧ (entry t).count = ((entry s).count + 1) % 65536 ∧ (c.run.blk, c.run.gid) ∈ (entry t).inside)

/-- WAITN goes on when the class counter is at most its number and parks otherwise; WAITMEM parks with a read of its word on
the way, and a scratch word that already satisfies it is returned (R435, R441). -/
def Obligations.Waits : Prop :=
  ∀ (s : State) (c : Cur) (o : Op),
    let k := classOfNum o.kMem.toNat
    pathGuard c o = .all →
    (Steps s c 0x1A6 o (fallThrough c o) → c.grp.cnt.get k ≤ o.imm16.toNat → hasImprecise c.grp = false →
      Answers (.waitn o) s fun t => GoesTo t c (fallThrough c o))
    ∧ (Issues s c 0x1A6 o → o.imm16.toNat < c.grp.cnt.get k →
      Answers (.waitn o) s fun t => ParkedOn t c (.waitn k o.imm16.toNat) ∧ TurnOver t c)
    ∧ (Issues s c 0x1A7 o → waitmemFaults s c o = [] → inScratch o = false → vaLegal (pairVal c o.a 0) = true →
      Answers (.waitmem o) s fun t => ∃ r ∈ t.fab.reqs, ParkedOn t c (.word r.id s.clk.ref)
        ∧ r.who = .watch c.run.blk c.run.gid ∧ r.kind = .load
        ∧ r.parts = [{ lane := 0, va := s.resolve (pairVal c o.a 0), size := o.ty.bytes }])
    ∧ (Steps s c 0x1A7 o (fallThrough c o) → waitmemFaults s c o = [] → inScratch o = true
        → s.memClear c.run.blk c.run.gid = true → hasImprecise c.grp = false
        → waitHolds c o (s.scrRead c.blk (waitPlace c o) o.ty.bytes) = true →
      Answers (.waitmem o) s fun t => GoesTo t c (fallThrough c o)
        ∧ srcNat (c.after t) o.ty.is64 o.d 0 = s.scrRead c.blk (waitPlace c o) o.ty.bytes)
    ∧ (Issues s c 0x1A7 o → waitmemFaults s c o = [] → inScratch o = true → s.memClear c.run.blk c.run.gid = true
        → waitHolds c o (s.scrRead c.blk (waitPlace c o) o.ty.bytes) = false →
      Answers (.waitmem o) s fun t => ParkedOn t c (.word 0 s.clk.ref) ∧ regsAfter t c = c.grp.r)

/-! ### Engines -/

/-- The array instructions queue their operation in the group's entry of the booking table, and ARR counts it; the block's
expected planes follow MSTAT, MSWAP and MSWAP.REL at issue; a drain to registers holds them (R266, R269, R289, R452 to R455). -/
def Obligations.ArrayOperations : Prop :=
  ∀ (s : State) (c : Cur) (o : Op),
    let cl := c.blk.core / 4
    let n := s.fab.nextId
    let plain (kind : ArrKind) : ArrOp := { op := n, blk := c.run.blk, gid := c.run.gid, kind := kind }
    let ready (opc : BitVec 10) (own : List FaultInfo) : Prop :=
      EngineReady s c opc o (own ++ countFaults c .arr (guardedIn c o))
      ∧ (bookingOf (s.cluster cl) c.run.blk c.run.gid = none → freeBooking (s.cluster cl) ≠ none)
    let books (i : Instr) (op : ArrOp) (P : State → Prop) : Prop :=
      Answers i s fun t => Counted s t c .arr (fun id => id = n) ∧ regsAfter t c = c.grp.r ∧ P t
        ∧ ∃ e, bookingOf (t.cluster cl) c.run.blk c.run.gid = some e ∧ e.ops.getLast? = some op
    let expects (a sh : Option PlaneDesc) (t : State) : Prop :=
      ∃ b, t.block? c.run.blk = some b ∧ b.expA = a ∧ b.expS = sh
    let sameExp := expects c.blk.expA c.blk.expS
    let d := statDesc o
    let ws := o.kEng.getLsbD 0
    let regs := (List.range (o.pf 10 8 + 1)).map (o.d.toNat + ·)
    let drains (i : Instr) (fold : Bool) : Prop :=
      (o.kEng.getLsbD 0 = false → books i (tileOp c o n (.mdrainScr fold (uniNat c o.a) (uniNat c o.b))) sameExp)
      ∧ (o.kEng.getLsbD 0 = true → books i (tileOp c o n (.mdrainReg fold (n + 1))) fun t =>
          Holds t c regs fun op => op.id = n + 1 ∧ op.dest = .rows o.d.toNat (o.pf 10 8 + 1) ∧ op.left = 1)
    (ready 0x200 (misalign c o (uniNat c o.a % 64 != 0) (uniNat c o.a)
          ++ (if ws then [] else scrRange c o (uniNat c o.a) (imageBytes d)))
        → sparseFault s c o ws (uniNat c o.a) d = none
        → (d.sparse = true → ws = true → s.statWaits c.blk (uniNat c o.a) d = false) →
      books (.mstat o) (plain (.mstat ws (uniNat c o.a) d))
        (if c.blk.accts = [] then sameExp else expects c.blk.expA (some d)))
    ∧ (ready 0x201 [] → books (.mswap o) (plain .mswap) (if c.blk.expS.isSome then expects c.blk.expS none else sameExp))
    ∧ (ready 0x202 [] → books (.mswapRel o) (plain .mswapRel) (expects none none))
    ∧ (ready 0x203 (streamFaults c o) →
      books (.mstream o) (tileOp c o n (.mstream (o.pf 24 3) o.scaled (uniNat c o.a) (uniNat c o.b) (uniNat c o.c) c.blk.expA))
        sameExp)
    ∧ (ready 0x204 (drainFaults c o) → drains (.mdrain o) false)
    ∧ (ready 0x205 (drainFaults c o) → drains (.mdrainFold o) true)
    ∧ (ready 0x206 [] → books (.mfold o) (tileOp c o n .mfold) sameExp)
    ∧ (ready 0x207 [] → books (.mzero o) (tileOp c o n .mzero) sameExp)

/-- The quarter units act on the elements of the quarters that hold an active lane, and on no other element: QMMA adds a group
product, QZERO zeroes, QFOLD folds the tail in; QMOV holds eight registers for its codes (R243, R250, R457, R458). -/
def Obligations.QuarterOperations : Prop :=
  ∀ (s : State) (c : Cur) (o : Op),
    let ls := activeLanes s c o
    let acts (r : BitVec 8) (k : Nat) : Prop :=
      k / 256 = r.toNat - 0xE8 ∧ ∃ l ∈ lanesOf ls, l / 8 = k % 256 / 64
    let becomes (i : Instr) (f : Nat → AccTail → AccTail) (P : State → Prop) : Prop :=
      Answers i s fun t => P t ∧ (regsAfter t c).v = c.grp.r.v ∧ ∀ k,
        (acts o.d k →
          FMap.get 0 (regsAfter t c).macc k = BitVec.ofNat 64 (f (k % 256) (mGet c.grp (o.d.toNat - 0xE8) (k % 256))).acc
          ∧ FMap.get 0 (regsAfter t c).mtail k = BitVec.ofNat 32 (f (k % 256) (mGet c.grp (o.d.toNat - 0xE8) (k % 256))).tail)
        ∧ (¬ acts o.d k →
          FMap.get 0 (regsAfter t c).macc k = FMap.get 0 c.grp.r.macc k
          ∧ FMap.get 0 (regsAfter t c).mtail k = FMap.get 0 c.grp.r.mtail k)
    tileOn c o = true → ls ≠ 0 →
    (Issues s c 0x210 o → c.grp.cnt.get .qmu < 63 →
      becomes (.qmma o) (qmmaElem c o) fun t => Counted s t c .qmu fun id => id = s.fab.nextId)
    ∧ (Issues s c 0x212 o → becomes (.qzero o) (fun _ _ => ⟨0, 0⟩) fun _ => True)
    ∧ (Issues s c 0x213 o → becomes (.qfold o) (fun _ x => ⟨fold64 x, 0⟩) fun _ => True)
    ∧ (Issues s c 0x211 o →
      Answers (.qmov o) s fun t => Holds t c ((List.range 8).map (o.d.toNat + ·)) fun op =>
        op.id = s.fab.nextId ∧ op.dest = .rows o.d.toNat 8
        ∧ ∀ j, j < 8 → ∀ l ∈ lanesOf ls, FMap.get 0 op.vals (32 * j + l) = BitVec.ofNat 64 (qmovCode c o l j))

/-- COPY and COPYR queue a descriptor on the channel they name, COPY's counter rises, and the bytes are added to the group's
stream on the channel (R214, R217, R289, R459 to R462). -/
def Obligations.Copies : Prop :=
  ∀ (s : State) (c : Cur) (o : Op),
    let core := c.blk.core
    let ch := o.pf 0 3
    let len := uniNat c o.c
    let base := (receiver s c o).2
    let queues (i : Instr) (red : Option (AtomOp × Ty)) : Prop :=
      (s.chanOf core ch).length < 16 →
      Answers i s fun t =>
        Counted s t c .copy (fun id => id = s.fab.nextId) ∧ regsAfter t c = c.grp.r
        ∧ (t.chanOf core ch).length = (s.chanOf core ch).length + 1
        ∧ (InGroup t c fun g => FMap.get 0 g.queued ch = FMap.get 0 c.grp.queued ch + BitVec.ofNat 32 len)
        ∧ ∃ d, (t.chanOf core ch).getLast? = some d ∧ d.op = s.fab.nextId ∧ d.blk = c.run.blk ∧ d.gid = c.run.gid
            ∧ d.kind = copyKind o ∧ d.src = copySrc c o
            ∧ d.dst = (if copyKind o = .spill then copyDst c o else copyDst c o + BitVec.ofNat 64 base) ∧ d.len = len
            ∧ d.rblk = (receiver s c o).1 ∧ d.mirror = (mirrorOff c o).map (· + base)
            ∧ d.bar = (barrierOff c o).map (· + base) ∧ d.red = red ∧ d.done = 0 ∧ d.mark = FMap.get 0 c.grp.queued ch
    (EngineReady s c 0x218 o (copyFaults false s c o) → queues (.copy o) none)
    ∧ (EngineReady s c 0x219 o (copyFaults true s c o) → queues (.copyr o) (some (copyRop o, o.ty)))

/-- NEST and MPATH queue their operation and NEST counts it; LBUF begins the loop at its body, or with no trip passes it
(R350, R463 to R466, R469). -/
def Obligations.NestLoopAndMergePath : Prop :=
  ∀ (s : State) (c : Cur) (o : Op),
    let n := s.fab.nextId
    (EngineReady s c 0x220 o (nestFaults c o) →
      Answers (.nest o) s fun t => Counted s t c .nest (fun id => id = n) ∧ regsAfter t c = c.grp.r
        ∧ t.cores.nests.getLast? = some {
            op := n, blk := c.run.blk, gid := c.run.gid, k := o.kEng.toNat, ty := o.ty, d := (laneVal c o.d 0).toNat
            a := (laneVal c o.a 0).toNat, b := (laneVal c o.b 0).toNat, p := o.payload })
    ∧ (∀ body w, s.readBody c (lbufSel o) (lbufLen o) 0 (c.path.pc + 32) = .ok body w →
      (lbufTrips o = 0 → Steps s c 0x221 o (c.path.pc + 32 + BitVec.ofNat 64 (8 * w)) →
        Answers (.lbuf o) s fun t => GoesTo t c (c.path.pc + 32 + BitVec.ofNat 64 (8 * w)))
      ∧ (lbufTrips o ≠ 0 → Steps s c 0x221 o (c.path.pc + 32) →
        Answers (.lbuf o) s fun t => GoesTo t c (c.path.pc + 32) ∧ ∃ p, slotAfter t c c.run.slotB = some p
          ∧ p.loop = some {
              pc := c.path.pc, trips := lbufTrips o, trip := 0, place := 0, body := body, stride := laneVal c o.a 0
              sel := lbufSel o }))
    ∧ (EngineReady s c 0x228 o (mpathFaults c o) →
      Answers (.mpath o) s fun t => ∃ x, t.cores.mpaths.getLast? = some x ∧ Counted s t c .nest (fun id => id = x.2.op)
        ∧ regsAfter t c = c.grp.r ∧ x.1 = c.blk.core / 64 ∧ x.2.core = c.blk.core ∧ x.2.blk = c.run.blk
        ∧ x.2.gid = c.run.gid ∧ x.2.out = pairVal c o.d 0 ∧ x.2.rows = pairVal c o.a 0
        ∧ x.2.n = (laneVal c o.b 0).toNat ∧ x.2.p = (laneVal c o.c 0).toNat ∧ x.2.pos = 0 ∧ x.2.sent = 0)

/-- BMAP expands a bitmap tile: element (i, j) is the next stored value where its bit is set and zero elsewhere; BPACK makes
the tile of a dense one: a bit for every value that is not zero, their number, and the values in order (R224, R225, R470 to
R472). -/
def Obligations.BitmapTiles : Prop :=
  ∀ (s : State) (c : Cur) (o : Op),
    let tile := (laneVal c o.a 0).toNat
    let row (i : Nat) : Nat := (laneVal c o.b 0).toNat + i * (laneVal c o.c 0).toNat
    let key (off : Nat) : Nat := spaceKey (scratchSpace c.blk.core) (c.blk.ext + off)
    let map (u : State) : Nat := u.fab.mem.num (key tile) 128
    let value (u : State) (k : Nat) : Nat := packedAt u.fab.mem o.ty (key (tile + 192)) k
    let dense (u : State) (i j : Nat) : Nat := packedAt u.fab.mem o.ty (key (row i)) j
    s.traceOff →
    (EngineReady s c 0x229 o (bmapEarly c o) → bmapFaults s c o = [] → packBytes o.ty 32 ≤ (laneVal c o.c 0).toNat →
      Answers (.bmap o) s fun t => regsAfter t c = c.grp.r ∧ ∀ i j, i < 32 → j < 32 →
        dense t i j = if (map s).testBit (32 * i + j) then value s (bmCount (map s) (32 * i + j)) else 0)
    ∧ (EngineReady s c 0x22A o (bpackFaults c o) → bpackBad s c o = [] →
      Answers (.bpack o) s fun t => regsAfter t c = c.grp.r
        ∧ t.fab.mem.num (key (tile + 128)) 2 = bmCount (map t) 1024
        ∧ ∀ i j, i < 32 → j < 32 → (map t).testBit (32 * i + j) = decide (dense s i j ≠ 0)
            ∧ (dense s i j ≠ 0 → value t (bmCount (map t) (32 * i + j)) = dense s i j))

/-! ### Launches and HITCH -/

/-- LAUNCH, once its release has come, hands the record's address, the job and the priority to the package relay and parks;
LWAIT and LWAIT.POLL read their word, and LCANCEL cancels the named launches of its job and goes on (R474 to R477). That both LWAIT
forms park, with the read on its way, until its answer comes is the model's choice, log entry 50 (R476 parks the plain form after a
read with DONE 0). LCANCEL is stated where one launch stands at this package's pod relay and none is requested. -/
def Obligations.Launches : Prop :=
  ∀ (s : State) (c : Cur) (o : Op),
    let va := pairVal c o.a 0
    pathGuard c o = .all →
    (Issues s c 0x280 o → va.toNat % 128 = 0 → Released s c →
      Answers (.launch o) s fun t => ParkedOn t c (.launch s.lau.nextReq) ∧ TurnOver t c
        ∧ ∃ r, t.lau.reqs = s.lau.reqs ++ [r] ∧ r.id = s.lau.nextReq ∧ r.issuer = .group c.run.blk c.run.gid ∧ r.va = va
            ∧ r.job = recJob c.blk.lrec ∧ r.primax = recPrio c.blk.lrec ∧ r.status = none)
    ∧ (Issues s c 0x281 o → va.toNat % 64 = 0 → vaLegal va = true →
      Answers (.lwait o) s fun t => ∃ r ∈ t.fab.reqs, ParkedOn t c (.lwait r.id s.clk.ref)
        ∧ r.who = .watch c.run.blk c.run.gid ∧ r.kind = .load ∧ r.parts = [{ lane := 0, va := s.resolve va, size := 8 }])
    ∧ (∀ p, Steps s c 0x282 o (fallThrough c o) → s.lau.pods = [p] → s.lau.reqs = [] → p.state = .committed →
      Answers (.lcancel o) s fun t => GoesTo t c (fallThrough c o)
        ∧ t.lau.pods = [if cancelHits o.mod.toNat (lcancelIdent s c o) (some (recJob c.blk.lrec)) p.recVa p.lrec
            then { p with state := .cancelling, canc := true } else p])

/-- HITCH parks the group until its partner stands in a HITCH that names it, with the same count and the other role; then the
donor's top registers become the recipient's next ones (R174 to R176, R478). -/
def Obligations.HitchExchange : Prop :=
  ∀ (s : State) (c : Cur) (o : Op) (q : Group),
    let me := c.run.gid
    let p := (o.imm16.extractLsb' 0 4).toNat
    let k := 8 * (o.imm16.extractLsb' 8 8).toNat
    let donor : Bool := o.mod == 0
    Issues s c 0x288 o → hitchBad c o = false → blockGroup? c.blk p = some q →
    ((∀ g ∈ c.blk.groups, hitchOf g = none) →
      Answers (.hitch o) s fun t => ParkedOn t c (.hitch p k donor) ∧ TurnOver t c ∧ regsAfter t c = c.grp.r)
    ∧ (hitchOf q = some (me, k, !donor) → (∀ g ∈ c.blk.groups, g.gid ≠ p → hitchOf g = none)
        → (c.blk.groups.filter fun g => g.gid == me || g.gid == p).length = 2
        → pendLive c.grp = false → pendLive q = false → c.grp.cands = [] → q.cands = []
        → (let d := if donor then c.grp else q
           let r := if donor then q else c.grp
           k + 8 ≤ d.w ∧ r.w + k ≤ 128 ∧ (hitchPair k d r).2.segs.length ≤ 4 ∧ ∀ e ∈ r.r.v, e.1 < 32 * r.w) →
      Answers (.hitch o) s fun t =>
        let d := if donor then c.grp else q
        let r := if donor then q else c.grp
        ∃ d' r', t.group? c.run.blk d.gid = some d' ∧ t.group? c.run.blk r.gid = some r'
          ∧ d'.w = d.w - k ∧ r'.w = r.w + k
          ∧ (∀ n l, n < k → l < 32 → FMap.get 0 r'.r.v (32 * (r.w + n) + l) = FMap.get 0 d.r.v (32 * (d.w - k + n) + l)))

/-! ### Frames -/

/-- The lane-wise instructions write the active lanes of their destination, the instructions with a predicate destination those
of that predicate, and the tile-predicate instructions their tile predicate or pair; they leave everything else alone, whatever
they answer. -/
def Obligations.RegisterFrames : Prop :=
  ∀ (s t : State) (c : Cur) (o : Op) (i : Instr) (opc : BitVec 10),
    i.parts = some (opc, o) → s.current = some c → exec i s = .next t →
    (opc ∈ laneOpcodes → LaneFrame s t c o (laneWide opc o))
    ∧ (opc ∈ predOpcodes → PredFrame s t c o)
    ∧ (opc ∈ ([0x230, 0x231, 0x232, 0x233] : List (BitVec 10)) → TileFrame s t c o)
    ∧ (opc = 0x234 → if isUni o.d = true then LaneFrame s t c o true else TileFrame s t c o)

/-- Loads, global stores, atomics, prefetches and the array, copy, NEST and MPATH forms leave every register and all memory
outside the path's stack as they were: what they do, they do later. So do the control and waiting instructions that push no frame,
make no PAD check and write no object. The others change in memory: the frames they push, the gathered bits of the page they check a
PAD on or read a body from, their barrier object and the stacks of the groups whose waits they end, or the tile they write; WAITMEM
and ARWT write their uniform register, the quarter units their `m` registers. LAUNCH, EXIT and BRK change no register and no memory
outside the stacks. -/
def Obligations.AccessFrames : Prop :=
  ∀ (s t : State) (c : Cur) (o : Op) (i : Instr) (opc : BitVec 10),
    i.parts = some (opc, o) → s.current = some c → exec i s = .next t →
    let sameRegs : Prop := ∀ u j, t.groupRegs u j = s.groupRegs u j
    let others : Prop := ∀ u j, ¬(u = c.run.blk ∧ j = c.run.gid) → t.groupRegs u j = s.groupRegs u j
    let object : Nat → Prop := inScr c.blk (laneVal c o.a 0).toNat 8
    let fills (u : State) (pcs : List DWord) : State :=
      pcs.foldl (fun u pc => u.fetchFill c.run.blk c.run.gid c.blk.core c.run.slotB pc) u
    let fetched (pushed : Nat → Prop) (pcs : List DWord) : Prop :=
      SameRest s t ∧ sameRegs ∧ (s.traceOff → t.dev = s.dev ∧ ∀ k, ¬(inStack c k ∨ pushed k) →
        t.fab.mem.byte k = s.fab.mem.byte k ∨ t.fab.mem.byte k = (fills s pcs).fab.mem.byte k)
    (opc ∈ ([0x000, 0x001, 0x004, 0x007, 0x008, 0x00B, 0x011, 0x013, 0x028, 0x029, 0x02A, 0x1A0, 0x1A3, 0x1A6, 0x1A9, 0x200, 0x201,
        0x202, 0x203, 0x204, 0x205, 0x206, 0x207, 0x211, 0x218, 0x219, 0x220, 0x228, 0x281, 0x291] : List (BitVec 10))
      ∨ opc ∈ ([0x180, 0x182, 0x184, 0x185, 0x186, 0x190, 0x191, 0x192, 0x193, 0x194, 0x195, 0x196, 0x197, 0x198] :
        List (BitVec 10))
      ∨ (opc ∈ ([0x181, 0x183] : List (BitVec 10)) ∧ inScratch o = false) →
      QuietFrame s t c)
    ∧ (opc ∈ ([0x002, 0x00A, 0x010, 0x012] : List (BitVec 10)) → MemFrame s t (fun k => inStack c k ∨ inPushed c 1 k) ∧ sameRegs)
    ∧ (opc = 0x005 → MemFrame s t (fun k => inStack c k ∨ inPushed c 2 k) ∧ sameRegs)
    ∧ (opc = 0x003 → fetched (fun _ => False) [pairVal c o.a ((lowest c.path.mask).getD 0)])
    ∧ (opc = 0x006 → fetched (inPushed c 2) ((calliPads s c o).map fun x => x.1))
    ∧ (opc = 0x221 → ∃ n, fetched (fun _ => False) ((List.range n).map fun j => c.path.pc + 32 + BitVec.ofNat 64 (8 * j)))
    ∧ (∀ pc k, ¬ inCompanion s pc k → (fills s [pc]).fab.mem.byte k = s.fab.mem.byte k)
    ∧ (opc = 0x1A1 → MemFrame s t (fun k => inStack c k ∨ object k) ∧ sameRegs)
    ∧ (opc = 0x1A2 → MemFrame s t (fun k => inStacks s k ∨ object k) ∧ sameRegs)
    ∧ (opc = 0x1A4 → isUni o.d = true →
      MemFrame s t (fun k => inStacks s k ∨ object k) ∧ others ∧ WritesOnly s c o false (regsAfter t c))
    ∧ (opc = 0x1A5 → MemFrame s t (inStacks s) ∧ sameRegs)
    ∧ (opc = 0x1A7 → isUni o.d = true → LaneFrame s t c o o.ty.is64)
    ∧ (opc ∈ ([0x210, 0x212, 0x213] : List (BitVec 10)) → MemFrame s t (inStack c) ∧ others
      ∧ { regsAfter t c with macc := c.grp.r.macc, mtail := c.grp.r.mtail, muse := c.grp.r.muse } = c.grp.r)
    ∧ (opc = 0x229 → sameRegs ∧ MemFrame s t fun k => inStack c k
      ∨ ∃ j, j < 32 ∧ inScr c.blk ((laneVal c o.b 0).toNat + j * (laneVal c o.c 0).toNat) (packBytes o.ty 32) k)
    ∧ (opc = 0x22A → sameRegs ∧ MemFrame s t fun k => inStack c k
      ∨ inScr c.blk (laneVal c o.a 0).toNat ((192 + packBytes o.ty 1024 + 63) / 64 * 64) k)
    ∧ (opc ∈ ([0x009, 0x02B, 0x280] : List (BitVec 10)) →
      sameRegs ∧ (s.traceOff → ∀ k, ¬ inStacks s k → t.fab.mem.byte k = s.fab.mem.byte k))

/-! ### Events of the package: power, clocks, heat -/

/-- Rails, clocks, cadence, limits, sensors and supplies (R41 to R57, R86): a write that its guards let through and that its
conditions allow sets its field; what the machine notices sets what the rule says.
Where the spec is silent the model's own choices hold: log entries 2, 15, 62, 63, 86, 97 to 99. -/
def Obligations.PowerEvents : Prop :=
  ∀ s : State,
    let n := s.inp.n
    let v := s.inp.v
    let t7 := v.toNat % 128
    let vcl := s.field .pwrVcl n 0 7
    let tail (lo : Nat) : Nat := if s.field .pwrVtail n lo 7 = vcl then t7 else s.field .pwrVtail n lo 7
    let code (lo : Nat) : Nat := v.toNat / 2 ^ lo % 128
    let f := v.toNat % 64
    let refused (t : State) (r : RegName) : Prop := t.field .pwrCstat n 2 1 = 1 ∧ t.reg r n = s.reg r n
    (WriteOpen s .pwrVcl n → s.clusterIdle n = true → t7 ≤ 70 → (∀ lo ∈ tailBits, tailOk t7 (tail lo) = true) →
      Answers .pwrVclWrite s fun t =>
        if (Config.vfMin n (s.field .clkClf n 0 6)).toNat ≤ t7 then
          t.field .pwrVcl n 0 7 = t7 ∧ t.field .pwrVcl n 16 7 = s.field .pwrVcl n 16 7
            ∧ ∀ lo ∈ tailBits, t.field .pwrVtail n lo 7 = tail lo
        else refused t .pwrVcl)
    ∧ (WriteOpen s .pwrVcl n → s.clusterIdle n = false → Answers .pwrVclWrite s fun t => refused t .pwrVcl)
    ∧ (WriteOpen s .pwrVtail n → s.clusterIdle n = true → (∀ lo ∈ tailBits, tailOk vcl (code lo) = true) →
      Answers .pwrVtailWrite s fun t => ∀ lo ∈ tailBits, t.field .pwrVtail n lo 7 = code lo)
    ∧ ((s.powerOf n).slewing = true → (s.powerOf n).rails = s.railTargets n →
      Answers .regulatorSlewDone s fun t => t.field .pwrVcl n 31 1 = 0 ∧ (t.powerOf n).slewing = false)
    ∧ (WriteOpen s .clkClf n → s.clusterIdle n = true → 18 ≤ f → f ≤ 44 →
      Answers .clkClfWrite s fun t =>
        if (Config.vfMin n f).toNat ≤ s.field .pwrVcl n 16 7 then
          t.field .clkClf n 0 6 = f ∧ t.field .clkClf n 31 1 = 0 ∧ (t.powerOf n).relock = true
            ∧ (t.powerOf n).lockAt ≤ s.clk.ref + 2000
        else refused t .clkClf)
    ∧ ((s.powerOf n).relock = true →
      Answers .pllLock s fun t => t.field .clkClf n 31 1 = 1 ∧ (t.powerOf n).relock = false)
    ∧ (WriteOpen s .pwrCstat n →
      Answers .pwrCstatHoldWrite s fun t => t.field .pwrCstat n 0 1 = v.toNat % 2
        ∧ t.field .pwrCstat n 2 1 = if v.getLsbD 2 then 0 else s.field .pwrCstat n 2 1)
    ∧ (WriteOpen s .cxaCad n → 1 ≤ v.toNat % 32 → v.toNat % 32 ≤ 16 →
      Answers .cxaCadWrite s fun t => t.field .cxaCad n 0 5 = v.toNat % 32)
    ∧ (WriteOpen s .pwrPlim n → 100 ≤ v.toNat % 2048 → v.toNat % 2048 ≤ 1200 →
      Answers .pwrPlimWrite s fun t => t.reg .pwrPlim n = BitVec.ofNat 64 (v.toNat % 2048))
    ∧ (n < 4 → Answers .powerLimiterTick s fun t => ∀ cl ∈ clustersOf n,
        let lim := s.field .pwrPlim n 0 11
        let old := s.field .cxaCad cl 8 5
        t.field .cxaCad cl 8 5 =
          if s.clusterBusy cl = false then old
          else if lim < s.inp.m then min 16 (old + 1)
          else if s.inp.m * 100 ≤ lim * 95 then max 1 (old - 1) else old)
    ∧ (n < 64 → Answers .supplyDroop s fun t => t.field .cxaCad n 8 5 = 16)
    ∧ (WriteOpen s .clkGtctl 0 → v.getLsbD 0 = true → Answers .gtickStart s fun t => t.clk.run = true)
    ∧ (∀ rs, s.inp.msg = .readings rs → (∃ r ∈ rs, 115 ≤ r.celsius) →
      Answers .sensorSample s fun t => t.clk.tripped = true ∧ t.agenda = [])
    ∧ (∀ r, s.inp.msg = .readings [r] → r.celsius < 115 →
      Answers .sensorSample s fun t =>
        FMap.get 0 t.th.temps (sensorKey r.sensor) = r.celsius + 1 ∧ t.clk.tripped = s.clk.tripped)
    ∧ (∀ a d, s.inp.msg = .bandwidth a d →
      Answers .bandwidthInterval s fun t => ∀ j, j < 8 →
        (j ∈ t.th.short ↔ s.isShort j a = true)
        ∧ t.reg .hbmShort j = s.reg .hbmShort j
            + BitVec.ofNat 64 ((List.range 12).map fun st => s.shortfall j st (a.getD st 256) ((d.getD j []).getD st 0)).sum)
    ∧ (n < 4 → Answers .vsrSupplyChange s fun t => t.field .pwrRstat n 1 1 = (if s.inp.on then 0 else 1)
        ∧ (s.inp.on = false → t.vsrGood n = false))
    ∧ (Answers .referenceClockChange s fun t => ∀ d, d < 4 → t.field .clkRefstat d 0 1 = s.inp.on.toNat)
    ∧ (n < 4 → s.fw.boot = .firmware → s.fw.down = false → s.pollFails n v.toNat = true →
      Answers .bringUpFailure s fun t =>
        t.bootPhase = 15 ∧ t.field .fwcBstat 0 20 8 = v.toNat % 256 ∧ n ∈ t.th.dark)
    ∧ (s.broughtUp = true → Answers .firmwareReady s fun t => t.bootPhase = 3)

/-- HBM training, the control ports, the CXL ports and the boot ROM (R16 to R22, R61 to R74).
Where the spec is silent the model's own choices hold: log entries 57, 65, 66, 83, 100, 101, 103 to 105. -/
def Obligations.BringUpEvents : Prop :=
  ∀ s : State,
    let n := s.inp.n
    let v := s.inp.v
    let trains (i : Instr) (mode : Nat) : Prop :=
      WriteOpen s .hbmTctl n → Answers i s fun t =>
        (n, mode, s.clk.ref) ∈ t.fw.training ∧ t.field .hbmTstat n 31 1 = 1 ∧ t.field .hbmTstat n 30 1 = 0
    let head := s.fab.mem.bytes (spaceKey ctlSpace 0) 256
    let image := s.fab.mem.bytes (spaceKey ctlSpace 0 + 256) (if headRange head then 0 else headLen head)
    (WriteOpen s .hbmTctl n → hbmMode (v.toNat / 16 % 16) = true → v.getLsbD 1 = false →
      Answers .hbmStackReset s fun t => t.field .hbmTstat n 28 4 = 0 ∧ ∀ x ∈ t.fw.training, x.1 ≠ n)
    ∧ trains .hbmCaTraining 1 ∧ trains .hbmLaneRepair 2 ∧ trains .hbmReadTraining 3 ∧ trains .hbmWriteTraining 4
    ∧ trains .hbmVrefSweep 5
    ∧ (WriteOpen s .hbmTctl n → v.toNat % 16 = 8 → Answers .hbmOperational s fun t => t.field .hbmTstat n 29 1 = 1)
    ∧ (WriteOpen s .hbmTctl n → hbmMode (v.toNat % 16) = false →
      Answers .hbmOperational s fun t => t.field .hbmTstat n 27 1 = 1 ∧ t.reg .hbmTctl n = s.reg .hbmTctl n)
    ∧ (∀ mode since, s.fw.training.find? (fun x => x.1 == n) = some (n, mode, since) →
      Answers .hbmTrainingStepDone s fun t => t.field .hbmTstat n 31 1 = 0 ∧ t.field .hbmTstat n 30 1 = s.inp.on.toNat
        ∧ (∀ x ∈ t.fw.training, x.1 ≠ n) ∧ (mode = 2 → t.field .hbmTstat n 0 16 = s.inp.m % 65536))
    ∧ (WriteOpen s .uciPctl n → PortIs s n (fun p => p.ltsm = 0) →
      Answers .uciePortEnable s fun t => PortIs t n (fun q => q.ltsm = 1 ∧ q.stage = 1 ∧ q.down = false) ∧ t.field .uciPctl n 0 1 = 1)
    ∧ (WriteOpen s .uciPctl n → PortIs s n (fun p => p.ltsm ≠ 0) →
      Answers .uciePortReset s fun t => PortIs t n (fun q => q.ltsm = 0) ∧ t.field .uciPctl n 0 1 = 0)
    ∧ (s.portUp n = true →
      Answers .ucieLinkDown s fun t => PortIs t n (fun q => q.ltsm = 0 ∧ q.down = true)
        ∧ ∀ k, k < 16 → s.owns (portParty n) k = true → t.semOwner k = 0 ∧ t.field .fwcSem k 3 1 = 1)
    ∧ (s.inp.on = true → n < 2 → Answers .ucieSidebandMessage s fun t => t.reg .uciSbdrop n = satInc (s.reg .uciSbdrop n))
    ∧ (n < 2 → v.toNat ∉ hostOpcodes → Answers .ucieUnknownMessage s fun t => t.reg .uciBadop n = satInc (s.reg .uciBadop n))
    ∧ (n < 4 → s.inp.on = true →
      Answers .cxlExpanderTraining s fun t => FMap.get 0 t.lnk.cxl n = min s.inp.m (512 * 2 ^ 30))
    ∧ (n < 4 → s.inp.on = false → Answers .cxlExpanderTraining s fun t => t.lnk.cxlLog = s.lnk.cxlLog ++ [n])
    ∧ (∀ r due e k, s.req? n = some r → r.phase = .cxl due e k → s.inp.on = true →
      Answers .cxlResponse s fun t => t.req? n = some { r with phase := .failed statUncorr 0 })
    ∧ (∀ r due e k, s.req? n = some r → r.phase = .cxl due e k → s.inp.on = false → (∀ b ∈ s.fab.bad ++ s.fab.cbad, b < k ∨ k + 64 ≤ b)
        → r.kind = .load → r.acq = none → r.rel = none →
      Answers .cxlResponse s fun t => ∃ q, t.req? n = some q ∧ q.phase = .answered ∧ q.vals =
        r.parts.map fun p => BitVec.ofNat 64 (s.fab.mem.num (k + (p.va.toNat - r.line.toNat)) p.size))
    ∧ (s.req? n = none → Answers .cxlResponse s fun t => t.reg .cxlLate 0 = satInc (s.reg .cxlLate 0))
    ∧ (∀ r due e k, s.req? n = some r → r.phase = .cxl due e k → due ≠ 0 → due ≤ s.clk.ref → s.standsStill r.core = false →
      Answers .cxlRequestTimeout s fun t => t.req? n = some { r with phase := .failed statTimeout 0 })
    ∧ (Answers .powerOnReset s fun t =>
        t.fw.boot = .rom ∧ t.field .fwcBstat 0 16 4 = 2 ∧ t.cores.blocks = [] ∧ t.fw.revoked = s.fw.revoked
        ∧ t.fw.svn = s.fw.svn ∧ (∀ p ∈ t.lnk.ucie, p.ltsm = 1) ∧ FMap.get 0 t.fw.meas 0 = Config.romDigest
        ∧ ∀ k, spaceKey flashSpace 0 ≤ k → k < spaceKey (flashSpace + 1) 0 → t.fab.mem.byte k = s.fab.mem.byte k)
    ∧ (PortIs s n (fun p => p.ltsm = 1) → v.extractLsb' 0 2 ≠ 0 → s.fw.boot ≠ .rom →
      Answers .ucieTrainingDone s fun t => PortIs t n fun q => q.ltsm = 2 ∧ q.mods = v.extractLsb' 0 2)
    ∧ (PortIs s n (fun p => p.ltsm = 1) → v.extractLsb' 0 2 = 0 → s.fw.boot = .rom → s.fw.down = false → s.field .fwcBstat 0 16 4 = 2
        → (∀ k, k ≠ n → ∀ p, s.lnk.ucie[k]? = some p → p.ltsm = 0) →
      Answers .ucieTrainingDone s fun t => t.fw.boot = .failed ∧ t.bootPhase = 15 ∧ t.field .fwcBstat 0 20 8 = 8)
    ∧ (s.fw.boot = .hostWait → s.fw.down = false → v.getLsbD 0 = true →
      Answers .bootGo s fun t =>
        match s.imageError false head image with
        | some e => t.fw.boot = .hostWait ∧ t.field .fwcBstat 0 20 8 = e % 256
        | none => t.fw.boot = .firmware ∧ t.fw.entry = headEntry head ∧ t.bootPhase = 1 ∧ t.fw.secret = false
            ∧ t.fw.service = 0x3F ∧ ∀ k, k < 6 → FMap.get 0 t.fw.entries (k + 1) = Config.serviceEntry image k)
    ∧ (∀ slot, s.owns s.inp.who 6 = true → s.bootPhase = 3 → s.fw.down = false → s.inp.msg = .fuse (.revoke slot) → slot < 4 →
      Answers .fuseProgramming s fun t => t.fw.revoked.getLsbD slot = true)
    ∧ (∀ bit, s.owns s.inp.who 6 = true → s.bootPhase = 3 → s.fw.down = false → s.inp.msg = .fuse (.svn bit) → bit < 64 →
      Answers .fuseProgramming s fun t => t.fw.svn.getLsbD bit = true)

/-- The Coupler's ports: training, retraining, flits both ways, and the alignment of GTICK (R23 to R37, R47, R48, R73).
Where the spec is silent the model's own choices hold: log entries 14, 91 to 96, 105. -/
def Obligations.CouplerEvents : Prop :=
  ∀ s : State,
    let k := s.inp.n
    let v := s.inp.v
    let p := s.cplr k
    let lanes := v.extractLsb' 0 8
    let flit := s.inp.bytes
    let h := flitHead flit
    (WriteOpen s .cplrPctl k → p.state = .disabled →
      Answers .cplrPortEnable s fun t => (t.cplr k).state = .detect ∧ (t.cplr k).since = s.clk.ref ∧ t.field .cplrPctl k 0 1 = 1)
    ∧ (WriteOpen s .cplrPctl k → Answers .cplrPortDisable s fun t => (t.cplr k).state = .disabled ∧ (t.cplr k).replay = [])
    ∧ (WriteOpen s .cplrPctl k →
      Answers .cplrLoopback s fun t => (t.cplr k).loop = s.inp.on ∧ t.field .cplrPctl k 1 1 = s.inp.on.toNat)
    ∧ (WriteOpen s .cplrVlthr k → p.state = .disabled
        → (∀ i, i < 4 → 2 ≤ v.toNat / 2 ^ (8 * i) % 256 ∧ v.toNat / 2 ^ (8 * i) % 256 ≤ 80) →
      Answers .cplrVlthrWrite s fun t => t.reg .cplrVlthr k = v &&& 0xFFFFFFFF)
    ∧ (k < 18 → p.state = .detect → 4 ≤ ((List.range 8).filter fun i => lanes.getLsbD i).length →
      Answers .cplrReceiverDetect s fun t => (t.cplr k).state = .poll ∧ (t.cplr k).lanes = lanes)
    ∧ (k < 18 → p.state = .detect → p.since + 100000 ≤ s.clk.ref →
      Answers .cplrDetectTimeout s fun t => (t.cplr k).state = .disabled ∧ t.field .cplrPstat k 0 1 = 1)
    ∧ (k < 18 → p.state = .poll → Answers .cplrBitLock s fun t => (t.cplr k).state = .align)
    ∧ (k < 18 → p.state = .align → Answers .cplrDeskew s fun t => (t.cplr k).state = .equal)
    ∧ (k < 18 → p.state = .equal → widthCode lanes ≠ 0 →
      Answers .cplrEqualised s fun t => (t.cplr k).state = .config ∧ (t.cplr k).width = widthCode lanes)
    ∧ (s.retraining k 0 = true → widthCode lanes ≠ 0 →
      Answers .cplrEqualised s fun t =>
        (t.cplr k).state = .retrain ∧ (t.cplr k).passed = 1 ∧ (t.cplr k).width = widthCode lanes)
    ∧ (k < 18 → p.state = .config → p.loop = false → s.inp.m < 288 →
      Answers .cplrIdentityExchange s fun t =>
        if s.planeCheck k s.inp.m then
          (t.cplr k).state = .active ∧ (t.cplr k).num = some s.inp.m ∧ (s.livePlanes = [] → t.lnk.pkg = some s.inp.m)
        else (t.cplr k).state = .disabled ∧ (t.cplr k).num = some s.inp.m ∧ t.field .cplrPstat k 1 1 = 1)
    ∧ (s.retraining k 1 = true → p.loop = false → s.inp.m < 288 → s.planeCheck k s.inp.m = true →
      Answers .cplrIdentityExchange s fun t => (t.cplr k).state = .retrain ∧ (t.cplr k).passed = 2)
    ∧ (k < 18 → p.state = .active →
      Answers .cplrLossOfLock s fun t =>
        (t.cplr k).state = .retrain ∧ t.field .cplrPstat k 8 8 = min 255 (s.field .cplrPstat k 8 8 + 1))
    ∧ (s.retraining k 2 = true →
      Answers .cplrRetrainDone s fun t =>
        (t.cplr k).state = .active ∧ (t.cplr k).resend = p.replay.head?.map fun x => x.1)
    ∧ (k < 18 → retrainOver p s.clk.ref = true → Answers .cplrRetrainTimeout s fun t => (t.cplr k).state = .disabled)
    ∧ (k < 18 → p.state = .active →
      Answers .idleFlitSend s fun t => ∃ f, t.sent = s.sent ++ [.flit k f] ∧ f.length = 256
        ∧ f = flitBytes (if p.fresh then 0 else headerNow p 0 0 0 0) [])
    ∧ (k < 18 → p.state = .active → p.fresh = true ∨ (p.resend = none ∧ laneOpen p (v.toNat % 4) = false) →
      Answers .dataFlitSend s fun t => t.sent = s.sent ++ [.flit k (flitBytes (if p.fresh then 0 else headerNow p 0 0 0 0) [])])
    ∧ (k < 18 → p.state = .active → p.fresh = false → p.resend = none → p.stopIn.getLsbD (v.toNat % 4) = false → p.replay.length < 512
        → (s.pick k (v.toNat % 4) 15 s.lnk.queue).1 ≠ [] →
      Answers .dataFlitSend s fun t => ∃ f, .flit k f ∈ t.sent ∧ (t.cplr k).replay = p.replay ++ [(p.seq, f)]
        ∧ (t.cplr k).seq = (p.seq + 1) % 4096)
    ∧ (∀ x xs, k < 18 → p.state = .active → p.fresh = false → p.resend = some x.1 → p.replay = x :: xs →
      Answers .dataFlitSend s fun t => (∃ f, t.sent = s.sent ++ [.flit k f])
        ∧ (t.cplr k).resend = xs.head?.map (fun y => y.1) ∧ (t.cplr k).replay = p.replay)
    ∧ (k < 18 → p.state = .active → flitSound flit = false → Answers .flitReceive s fun t => (t.cplr k).waiting = true)
    ∧ (k < 18 → p.state = .active → flitSound flit = true → (h.extractLsb' 28 4).toNat = 1 → h.getLsbD 38 = false
        → flitSeq h = p.expect → (FMap.get [] p.rx (flitVl h)).length < 128 →
      Answers .flitReceive s fun t => (t.cplr k).expect = (p.expect + 1) % 4096 ∧ (t.cplr k).good = some p.expect
        ∧ (t.cplr k).waiting = false ∧ FMap.get [] (t.cplr k).rx (flitVl h) = FMap.get [] p.rx (flitVl h) ++ [flit])
    ∧ (s.clk.master = true → s.livePlanes ≠ [] →
      Answers .gtickAlignSend s fun t => ∀ q ∈ Config.podMembers, q ≠ s.own →
        ∃ m, (2, q, m) ∈ t.lnk.queue ∧ m.relay = some (.gtick s.clk.gt))
    ∧ (k < s.own → k ≤ s.clk.mpkg → s.livePlanes ≠ [] →
      Answers .gtickAlignReceive s fun t =>
        t.clk.master = false ∧ t.clk.mpkg = k
        ∧ (t.clk.sync = true ↔ ((s.clk.gt : Int) - ((v.toNat + s.inp.m / 2 : Nat) : Int)).natAbs ≤ 2))

/-- The debug unit, the semaphores, the watchdogs and the plain registers (R7, R60, R64, R66 to R68, R277, R300 to R309).
Where the spec is silent the model's own choices hold: log entries 5, 15, 64, 87, 102. -/
def Obligations.RegisterEvents : Prop :=
  ∀ s : State,
    let n := s.inp.n
    let v := s.inp.v
    let r := s.inp.reg
    let range : RegName := if s.inp.on then .dbgLchi else .dbgLclo
    (WriteOpen s .evcSel n → selOk v = true →
      Answers .eventCounterSelect s fun t => t.reg .evcSel n = v &&& 0xFFFFFFFF ∧ FMap.get 0 t.dbg.evc n = 0)
    ∧ (WriteOpen s .evcSel n → selOk v = false → Answers .eventCounterSelect s fun t => t.field .evcStat 0 0 1 = 1)
    ∧ (n < 256 → s.inp.m < 16 → WriteOpen s range (32 * n + s.inp.m) →
      Answers .laneCycleRangeWrite s fun t => t.reg range (32 * n + s.inp.m) = v
        ∧ ∀ k, k < 4 → FMap.get 0 t.dbg.lanes (128 * n + 4 * s.inp.m + k) = 0)
    ∧ (WriteOpen s .fidInj n → v.getLsbD 31 = true →
      Answers .fidInject s fun t => t.field .fidInj n 0 8 = v.toNat % 256 ∧ t.field .fidInj n 30 1 = 1 ∧ (t.cluster n).armed = true)
    ∧ (WriteOpen s .dbgStopc 0 → Answers .stopArm s fun t => t.field .dbgStopc 0 0 2 = v.toNat % 4)
    ∧ (WriteOpen s .dbgStopt 0 →
      Answers .stopTargetWrite s fun t => t.reg .dbgStopt 0 = v ∧ (v.toNat < s.clk.gt → t.field .dbgStopc 0 31 1 = 1))
    ∧ (s.inp.on = true → Answers .stopArmMsg s fun t => (t.reg .dbgStopt 0).toNat = min (s.reg .dbgStopt 0).toNat v.toNat)
    ∧ (s.inp.on = false → Answers .stopArmMsg s fun t => t.reg .dbgStopt 0 = v ∧ (t.reg .dbgStopc 0).getLsbD 0 = true)
    ∧ ((s.reg .dbgStopc 0).getLsbD 0 = true → s.reg .dbgStopt 0 = BitVec.ofNat 64 s.clk.gt →
      Answers .stopFire s fun t => t.clk.stopped = true ∧ t.agenda = [])
    ∧ (∀ h, s.inp.msg = .hit h → s.inp.m < 8 → (s.reg .dbgWstat s.inp.m).getLsbD 63 = false →
      Answers .watchHitReport s fun t => t.field .dbgWstat s.inp.m 63 1 = 1 ∧ t.reg .dbgWhpc s.inp.m = h.pc
        ∧ t.reg .dbgWhid s.inp.m = h.hid ∧ t.reg .dbgWhgt s.inp.m = h.gtick ∧ t.reg .dbgWhd s.inp.m = h.value
        ∧ t.field .dbgWstat s.inp.m 32 16 = min 65535 (s.field .dbgWstat s.inp.m 32 16 + 1))
    ∧ (∀ x rest, s.dbg.trace = x :: rest → x.1 + traceWait ≤ s.clk.ref →
      Answers .traceRecordDrop s fun t => t.dbg.trace = rest
        ∧ (t.reg .dbgTrlost 0).toNat = min (2 ^ 32 - 1) ((s.reg .dbgTrlost 0).toNat + 1))
    ∧ (n < 16 → s.semOwner n = 0 → s.mayAcquire s.inp.who = true → (∀ ps, s.inp.msg ≠ .writers ps) →
      Answers .semaphoreAcquire s fun t => t.semOwner n = partyCode s.inp.who)
    ∧ (n < 16 → s.semOwner n = 0 → s.inp.msg = .writers [.portA, .portB] → 3 ≤ s.bootPhase
        → s.portUp 0 = true → s.portUp 1 = true →
      Answers .semaphoreAcquire s fun t =>
        t.semOwner n = (if FMap.get 0 s.fw.semLast n % 3 = 1 then 2 else 1) ∧ FMap.get 0 t.fw.semLast n = t.semOwner n)
    ∧ (Answers .semaphoreRelease s fun t => ∀ k, k < 16 →
        t.semOwner k = if v.getLsbD k = true ∧ s.owns s.inp.who k = true then 0 else s.semOwner k)
    ∧ (n < regCount r → laneKey r n = none → Answers .registerReadClear s fun t => t.reg r n = s.reg r n &&& ~~~(rcMask r))
    ∧ (∀ k, n < regCount r → laneKey r n = some k → Answers .registerReadClear s fun t => FMap.get 0 t.dbg.lanes k = 0)
    ∧ (WriteOpen s r n → r ∈ ([.cxlReqto, .cplrE2eto, .queQuant, .xltPfto, .dspStallto, .dspRsvto, .dspLead, .xltHvec, .fwcElvec,
          .dbgTrbase, .dbgTrsz, .dbgTrctl] : List RegName) →
      Answers .registerWrite s fun t => t.reg r n = (s.reg r n &&& ~~~(rwMask r)) ||| (v &&& rwMask r))
    ∧ (r = .pwrTable → WriteOpen s r n →
      Answers .registerWrite s fun t => t.regRead r n = if v.getLsbD 31 then v &&& 0x801F7F3F else 0)
    ∧ (∀ g, n < regCount r → firmOnly r = false → guardOfReg r = some g → s.owns s.inp.who g = false
        → regThere r n = true →
      Answers .registerWrite s fun t => t.reg r n = s.reg r n ∧ t.field .fwcSemerr 0 1 1 = 1)
    ∧ (WriteOpen s .fwcWdog n →
      Answers .fwcWdogWrite s fun t =>
        FMap.get 0 t.fw.wdog n = if v.toNat % 2 ^ 32 = 0 then 0 else s.clk.ref + v.toNat % 2 ^ 32)
    ∧ (1 ≤ n → n ≤ 6 → s.wdogDue n = true → Answers .serviceWatchdogExpiry s fun t => FMap.get 0 t.fw.wdog n = 0
        ∧ FMap.get {} t.fw.cores n = { pc := BitVec.ofNat 64 (FMap.get 0 s.fw.entries n) } ∧ .control n ∈ t.sent)
    ∧ (s.wdogDue 0 = true →
      Answers .controlWatchdogExpiry s fun t => t.fw.down = true ∧ t.bootPhase = 15 ∧ t.field .fwcBstat 0 14 1 = 1)
    ∧ (WriteOpen s .fwcMextgo 0 → v.toNat < 8 →
      Answers .measurementExtend s fun t => FMap.get 0 t.fw.meas v.toNat =
        measOf (sha512 (measBytes (FMap.get 0 s.fw.meas v.toNat) ++ measBytes s.fw.mext)))

/-! ### Events of the fabric -/

/-- A request at its home, on its way out, and answered: what a home does with it is what its checks say, and what its
initiator gets is what became of it (R33, R101, R110 to R113, R118, R183, R185).
Where the spec is silent the model's own choices hold: log entries 24, 40, 88, 90, 92. -/
def Obligations.HomeEvents : Prop :=
  ∀ (s : State) (r : Req),
    let n := s.inp.n
    let home := homeOf r.line
    let becomes (i : Instr) (q : Req) : Prop := Answers i s fun t => t.req? n = some q
    let place (e : DWord) (size : Nat) (p : Part) : Nat := targetKey home e size p.va
    let sound (e : DWord) (size : Nat) : Prop :=
      ∀ b ∈ s.fab.bad ++ s.fab.cbad, b < targetKey home e size r.line ∨ targetKey home e size r.line + 64 ≤ b
    s.req? n = some r → s.isHalting = false → r.merge = 0 →
    (∀ key e size die addr, s.mayReach r = true → r.scr = false → s.check home r.kind r.line = .ok key e size die addr
        → vaRgn r.line ≤ 4 → sound e size → r.acq = none →
      (r.kind = .load → r.rel = none → becomes .homeAccess { r with
        phase := .answered, vals := r.parts.map fun p => BitVec.ofNat 64 (s.fab.mem.num (place e size p) p.size) })
      ∧ (r.kind = .store → isPeer r = false → Answers .homeAccess s fun t =>
          t.req? n = some { r with phase := .answered, vals := r.parts.map fun _ => 0 }
          ∧ (s.traceOff → ∀ k, t.fab.mem.byte k = byteAfter (place e size) s.fab.mem.byte r.parts k))
      ∧ (∀ p, r.kind = .atom → isPeer r = false → r.parts = [p] → Answers .homeAccess s fun t =>
          let old := s.fab.mem.num (place e size p) p.size
          t.req? n = some { r with phase := .answered, vals := [BitVec.ofNat 64 old] }
          ∧ (s.traceOff → t.fab.mem.num (place e size p) p.size =
              atomNew r.aop r.ty old (p.data.toNat % 2 ^ (8 * p.size)) (p.cmp.toNat % 2 ^ (8 * p.size)) % 2 ^ (8 * p.size))))
    ∧ (s.mayReach r = true → r.scr = true → r.kind = .load → r.acq = none → r.rel = none → r.fill = false →
      becomes .homeAccess { r with
        phase := .answered
        vals := r.parts.map fun p => BitVec.ofNat 64 (s.fab.mem.num (spaceKey (scratchSpace r.core) p.va.toNat) p.size) })
    ∧ (∀ cause, s.mayReach r = true → r.scr = false → s.check home r.kind r.line = .absent cause → r.kind ≠ .prefetch →
      (defers r = false → (s.parkedAt home).length < 4096 → r.came = none →
          Answers .homeAccess s fun t => ∃ k, t.req? n = some { r with phase := .parked s.clk.ref, came := some (s.clk.ref, k) })
      ∧ (defers r = true → becomes .homeAccess { r with phase := .deferred }))
    ∧ (∀ st cause, s.mayReach r = true → r.scr = false → s.check home r.kind r.line = .fail st cause → r.kind ≠ .prefetch →
      becomes .homeAccess { r with phase := .failed st cause })
    ∧ (s.mayLeave r = true → s.livePlanes = [] → becomes .homeAccess { r with phase := .failed statLinkdown 0 })
    ∧ (s.mayLeave r = true → s.livePlanes ≠ [] → vaPkg r.line ∉ Config.podMembers →
      becomes .homeAccess { r with phase := .failed statNoroute 0 })
    ∧ (∀ tag, s.mayLeave r = true → s.livePlanes ≠ [] → vaPkg r.line ∈ Config.podMembers → s.tagsFor 1 = true → r.kind = .load
        → r.held = [] → s.freeTag = some tag →
      Answers .homeAccess s fun t => ∃ a ∈ t.lnk.away, a.tag = tag ∧ a.id = r.id ∧ a.pkg = vaPkg r.line
        ∧ a.due = s.clk.ref + s.e2eto)
    ∧ (∀ core ch, s.inp.who ≠ .portA → r.phase = .answered → returnsData r = true → r.kind ≠ .prefetch → (∀ p ∈ s.fab.proms, p.req ≠ n)
        → r.who = .channel core ch →
      Answers .accessRsp s fun t => r ∈ t.fab.got ∧ t.req? n = none)
    ∧ (∀ b g op grp o, s.inp.who ≠ .portA → r.phase = .answered → r.kind = .load → (∀ p ∈ s.fab.proms, p.req ≠ n) → r.who = .group b g op
        → s.group? b g = some grp → grp.ops.find? (fun x => x.id == op) = some o → o.dest ≠ .none →
      Answers .accessRsp s fun t => t.req? n = none
        ∧ ∃ h, t.group? b g = some h ∧ h.ops.find? (fun x => x.id == op) = some (opAnswer o r []))
    ∧ (∀ b g op grp o, s.inp.who ≠ .portA → r.phase = .answered → r.kind = .store → (∀ p ∈ s.fab.proms, p.req ≠ n) → r.who = .group b g op
        → s.group? b g = some grp → grp.ops.find? (fun x => x.id == op) = some o → o.dest = .none → o.left = 1 →
      Answers .accessAck s fun t => t.req? n = none ∧ ∃ h, t.group? b g = some h ∧ ∀ x ∈ h.ops, x.id ≠ op)
    ∧ (∀ st cause core ch, s.inp.who ≠ .portA → r.phase = .failed st cause → r.kind ≠ .prefetch → r.who = .channel core ch →
      Answers .accessErr s fun t => r ∈ t.fab.got ∧ t.req? n = none)
    ∧ (∀ st cause b g op grp o, s.inp.who ≠ .portA → r.phase = .failed st cause → 0 < st → st < 7 → r.kind = .store → r.slot = none → r.who = .group b g op
        → s.group? b g = some grp → grp.ops.find? (fun x => x.id == op) = some o → o.kind = .store →
      Answers .accessErr s fun t => ∃ h, t.group? b g = some h
        ∧ ∃ k ∈ h.cands, k.code = 0x20 + st ∧ k.prec = 2 ∧ k.site = o.site ∧ k.lanes = maskOf (r.parts.map fun p => p.lane))
    ∧ (∀ a ∈ s.lnk.away, r.phase = .away → a.id = n → awayDue s.clk.ref a = true
        → (∀ q ∈ s.fab.reqs, q.id = n → s.standsStill q.core = false) →
      Answers .e2eTimeout s fun t => t.req? n = some { r with phase := .failed statTimeout 0 } ∧ ∀ x ∈ t.lnk.away, x.id = n → x.out = true)
    ∧ (∀ b g op k, r.phase = .deferred → r.who = .group b g op → s.freeSlot r.core = some k →
      Answers .deferReceive s fun t => t.req? n = none
        ∧ ∃ e ∈ t.fab.side, e.slot = k ∧ e.core = r.core ∧ e.req.id = n ∧ e.since = s.clk.ref)
    ∧ (∀ since, r.phase = .parked since → s.pftoOver r.core since = true →
      becomes .parkTimeout { r with phase := .failed statParkto 0 })

/-- Replay, time-outs of the side log, the TLB, the epoch, the siding, the depot, promotion, and the homes' registers (R96,
R106, R108, R112, R116 to R122, R192, R222, R287).
Where the spec is silent the model's own choices hold: log entries 33, 37, 38, 40, 88. -/
def Obligations.FabricEvents : Prop :=
  ∀ s : State,
    let n := s.inp.n
    let m := s.inp.m
    let v := s.inp.v
    let page : DWord := BitVec.ofNat 64 s.inp.k
    let refused (t : State) (home : Nat) (r : RegName) : Prop := t.field .xltStat home 31 1 = 1 ∧ t.reg r 0 = s.reg r 0
    (∀ w, s.fab.wakes.find? (fun w => w.home == m && w.page == page && w.cores.contains n) = some w →
      Answers .sideLogReplay s fun t => ∀ e ∈ s.fab.side, e.core = n → e.handed = false → e.home = w.home
        → inPage w.page w.size e.page = true →
        e ∉ t.fab.side ∧ ∃ q ∈ t.fab.reqs, q = { e.req with phase := .flying, sent := s.clk.ref })
    ∧ (∀ w, s.fab.wakes.find? (fun w => w.home == m && w.page == page) = some w → w.cores = [] → (∀ x ∈ w.marks, x.1 = n)
        → (∀ x ∈ w.marks, ∀ id ∈ x.2, ∀ q ∈ s.fab.reqs, q.id = id → reqDone q = true) →
      Answers .replayDoneMarker s fun t => (∀ x ∈ t.fab.wakes, ¬(x.home = w.home ∧ x.page = w.page))
        ∧ (∀ q key e size die addr, s.isOwn w.page = true → s.isHalting = false
            → (s.fab.side.all fun x => !x.handed) = true → s.req? q.id = some q → q.merge = 0
            → (s.parkedAt w.home).filter (fun x => inPage w.page w.size (s.resolve x.line)) = [q]
            → s.check w.home q.kind q.line = .ok key e size die addr → vaRgn q.line ≤ 4 →
            ∃ x, t.req? q.id = some x ∧ reqDone x = true))
    ∧ (∀ e b g op grp o, s.fab.side.find? (fun e => e.core == n && e.slot == m && s.pftoOver e.core e.since) = some e
        → e.req.who = .group b g op → e.req.slot.isSome = true → s.group? b g = some grp
        → grp.ops.find? (fun x => x.id == op) = some o →
      Answers .sideLogTimeout s fun t => (∀ x ∈ t.fab.side, ¬(x.core = e.core ∧ x.req.id = e.req.id))
        ∧ ∃ h, t.group? b g = some h ∧ ∃ k ∈ h.cands, k.code = codeSldiscard ∧ k.site = o.site)
    ∧ (∀ run x c, s.cores.runs.find? (fun r => r.blk == n && r.gid == m) = some run → run.stall = some x
        → run.full.isSome = true → s.curOf run.blk run.gid run.slotB = some c → s.pftoOver run.core x = true → sideFull s c = true →
      Answers .sideLogFullTimeout s fun t => ∃ h, t.group? n m = some h ∧ h.dead = true ∧ ∃ k ∈ h.cands, k.code = codeParkto)
    ∧ (∀ e, s.inp.on = false → s.fab.tlb.filter (fun e => e.home == n) = [e] →
      Answers .tlbWritebackTimer s fun t => (∀ x ∈ t.fab.tlb, x.home = n → x.bits = 0)
        ∧ t.fab.mem.num (spaceKey e.die (e.addr + 4096)) 8 =
            (BitVec.ofNat 64 (s.fab.mem.num (spaceKey e.die (e.addr + 4096)) 8) ||| companionBits e.bits).toNat)
    ∧ (s.fab.epoch < s.clk.ref / 1024 → Answers .epochAdvance s fun t => t.fab.epoch = s.fab.epoch + 1)
    ∧ (Answers .sidingRelease s fun t => ∀ x, x ∈ t.fab.siding ↔
        x ∈ s.fab.siding ∧ ¬(spaceKey x.1 x.2.1 = n ∧ s.stampDone x.2.2.2 = true))
    ∧ (Answers .shootdownInvalidate s fun t =>
        (∀ l ∈ t.fab.l1, ¬(v.toNat < l.line.toNat + 64 ∧ l.line.toNat < v.toNat + m * 65536))
        ∧ ∀ x ∈ t.fab.tlb, ¬(x.page.toNat < v.toNat + m * 65536 ∧ v.toNat < x.page.toNat + x.size))
    ∧ (Answers .depotSend s fun t => ∀ q ∈ t.fab.reqs, q.core = n → q.line.toNat = m → q.phase ≠ .depot)
    ∧ (∀ p ∈ s.fab.proms, p.core = n → p.id = m → p.waits = none →
      Answers .promoteReceive s fun t => (∀ q ∈ t.fab.proms, q.id = m → q.waits ≠ none)
        ∧ ∀ q ∈ t.fab.reqs, q.core = n → q.phase ≠ .depot)
    ∧ (∀ p ids, s.fab.proms.find? (fun p => p.id == n) = some p → p.waits = some ids → ids.all s.performed = true →
      Answers .promoteAck s fun t => ∀ q ∈ t.fab.proms, q.id ≠ n)
    ∧ (isRoot s.inp.reg = true → WriteOpen s s.inp.reg n →
      Answers .xltRootWrite s fun t =>
        if s.portsQuiet then t.reg s.inp.reg n = v &&& 0x8003FFFFFFFFF000
        else t.field .xltStat (rootHome s.inp.reg n) 31 1 = 1 ∧ t.reg s.inp.reg n = s.reg s.inp.reg n)
    ∧ (WriteOpen s .xltHring 0 → Answers .xltHringWrite s fun t =>
        if s.ringOk v then t.reg .xltHring 0 = v &&& 0xFFFFFFFFFFFFFF00 else refused t 4 .xltHring)
    ∧ (WriteOpen s .xltHhead 0 → Answers .xltHheadWrite s fun t => t.field .xltHhead 0 0 32 = v.toNat % 2 ^ 32)
    ∧ (WriteOpen s .fwcElog 0 → Answers .fwcElogWrite s fun t =>
        if s.ringOk v then t.reg .fwcElog 0 = v &&& 0xFFFFFFFFFFFFFF00 else refused t 4 .fwcElog)
    ∧ (WriteOpen s .fwcElhead 0 → Answers .fwcElheadWrite s fun t => t.field .fwcElhead 0 0 32 = v.toNat % 2 ^ 32)

/-! ### Events of the queues, the host and the commands -/

/-- Launch ports and the host's messages (R7, R17, R18, R61, R75 to R81).
Where the spec is silent the model's own choices hold: log entries 29, 66, 69 to 71, 80, 89. -/
def Obligations.QueueAndHostEvents : Prop :=
  ∀ s : State,
    let n := s.inp.n
    let v := s.inp.v
    let p := s.lport n
    let base := v &&& 0xFFFFFFFFFFFFF000
    let which : RegName := if s.inp.on then .queCbase else .queBase
    let sz := (v.extractLsb' 16 4).toNat
    let tag := n * 4096 + s.inp.m % 4096
    let answers (t : State) (P : Packet → Prop) : Prop := ∃ pk, Out.host n pk ∈ t.sent ∧ P pk
    (WriteOpen s .queCtl n → s.bindable n = true → szOk sz = true →
      Answers .queCtlWrite s fun t =>
        if sz = 0 then (t.lport n).state = .unbound ∧ ∀ c ∈ t.que.cmds, c.port = n → c.started = true
        else if p.state = .unbound then
          t.lport n = { ctlFields v p with state := .idle, head := 0, wakeA := 0, wakeB := 0, cc := 0 }
        else t.lport n = { ctlFields v p with fetch := none })
    ∧ (WriteOpen s .queCtl n → s.bindable n = false ∨ szOk sz = false →
      Answers .queCtlWrite s fun t => t.field .queIstat n 4 1 = 1 ∧ t.lport n = p)
    ∧ (WriteOpen s which n → s.bindable n = true → ringBaseOk base = true →
      Answers .queBaseWrite s fun t => if s.inp.on then (t.lport n).cbase = base else (t.lport n).base = base)
    ∧ (WriteOpen s which n → s.bindable n = false ∨ ringBaseOk base = false →
      Answers .queBaseWrite s fun t => t.field .queIstat n 4 1 = 1 ∧ t.lport n = p)
    ∧ (WriteOpen s .queGo n → v.toNat % 2 ^ 32 = 1 → p.state = .paused ∨ p.state = .faulted →
      Answers .queueGo s fun t => (t.lport n).state = .running)
    ∧ (p.qcnt = 1 → p.state = .running →
      Answers .quantumExpiry s fun t => (t.lport n).state = .paused ∧ t.field .queIstat n 2 1 = 1)
    ∧ (n < 32 → p.state = .idle → p.fetch = none → s.cmdsOf n = [] → tailOf p ≠ p.head
        → (tailOf p - p.head).toNat ≤ 2 ^ p.sz.toNat →
      Answers .queueRead s fun t => (t.lport n).state = .running
        ∧ ∃ q ∈ t.fab.reqs, (t.lport n).fetch = some q.id ∧ q.kind = .load ∧ q.line = lineOf (s.resolve (entryVa p)))
    ∧ (∀ q bs, n < 32 → p.state = .running → p.fetch = some q → s.unitAns q = .ok bs → (∀ c ∈ s.cmdsOf n, c.status = none) →
      Answers .queueRead s fun t => (t.lport n).head = p.head + 1
        ∧ ∃ c ∈ t.que.cmds, c.id = s.que.nextId ∧ c.port = n ∧ c.count = p.head ∧ c.bytes = bs ∧ c.started = false)
    ∧ (n < 32 → p.state = .running → p.fetch = none → (∀ c ∈ s.cmdsOf n, c.status = none)
        → 2 ^ p.sz.toNat < (tailOf p - p.head).toNat →
      Answers .queueRead s fun t => (t.lport n).state = .faulted ∧ t.field .queIstat n 5 1 = 1)
    ∧ (∀ c q bs, n < 32 → (s.cmdsOf n).find? (fun c => c.status.isSome && c.req.isSome) = some c → c.req = some q
        → s.unitAns q = .ok bs →
      Answers .queueRead s fun t => (t.lport n).cc = p.cc + 1)
    ∧ (∀ c, (s.cmdsOf n).find? (fun c => !c.started) = some c → s.cmd? c.id = some c → p.state = .running → c.status = none
        → (c.bytes.getD 1 0).getLsbD 0 = false →
      Answers .commandStart s fun t => ∃ d ∈ t.que.cmds, d.id = c.id ∧ d.started = true
        ∧ d.status = (s.cmdCheck c).map (BitVec.ofNat 8))
    ∧ (∀ r i, s.portUp n = true → s.inp.msg = .target (.reg r i) →
      Answers .hostRd s fun t => answers t fun pk => pk.data = bytesLE 16 (s.regRead r i).toNat
        ∧ pk.hdr = header s.own s.own opcRsp 1 (s.inp.m % 4096) 0 (hostSrc n).toNat (regAddr r i))
    ∧ (∀ va, s.portUp n = true → s.inp.msg = .target (.mem va) → vaLegal va = true → s.inp.k ≠ 0 →
      Answers .hostRd s fun t =>
        ∃ q ∈ t.fab.reqs, q.who = .unit 3 tag ∧ q.kind = .load ∧ q.line = lineOf (s.resolve va) ∧ q.addr = va)
    ∧ (∀ r i, s.portUp n = true → s.hostBusy n = false → s.inp.msg = .target (.reg r i) →
      Answers .hostWr s fun t =>
        t.dev = (s.regWrite (portParty n) r i (BitVec.ofNat 64 (natOfBytes (s.inp.bytes.take 8)))).dev
        ∧ answers t fun pk => pk.data = [])
    ∧ (∀ va, s.portUp n = true → s.hostBusy n = false → s.inp.msg = .target (.mem va) →
      Answers .hostWr s fun t =>
        if s.fw.boot = .hostWait then
          t.fab.mem.bytes (spaceKey ctlSpace (va.toNat % 2 ^ 22)) s.inp.bytes.length = s.inp.bytes
        else vaLegal va = true → s.inp.bytes ≠ [] →
          ∃ q ∈ t.fab.reqs, q.who = .unit 4 tag ∧ q.kind = .store ∧ q.line = lineOf (s.resolve va))
    ∧ (s.portUp n = true → s.inp.m < 32 → s.hostBusy n = false →
      Answers .hostWake s fun t =>
        if n = 0 then (t.lport s.inp.m).wakeA = v.setWidth 32 else (t.lport s.inp.m).wakeB = v.setWidth 32)

/-- Commands of a ring: the steps of each, and the status it ends with (R65, R80 to R86, R89, R107, R108, R121, R122, R148,
R150, R301).
Where the spec is silent the model's own choices hold: log entries 59, 72 to 79, 81. -/
def Obligations.CommandEvents : Prop :=
  ∀ s : State,
    let n := s.inp.n
    let ends (t : State) (c : Cmd) (st : Nat) (value : DWord) : Prop :=
      ∃ d ∈ t.que.cmds, d.id = c.id ∧ d.status = some (BitVec.ofNat 8 st) ∧ d.value = value
    let stands (t : State) (c : Cmd) (step : Nat) : Prop := ∃ d ∈ t.que.cmds, d.id = c.id ∧ d.step = step
    let got (c : Cmd) (bs : List Byte) : Prop := ∃ q, c.req = some q ∧ s.unitAns q = .ok bs
    let sum (f : LaunchReq → Nat) (c : Cmd) : Nat := sumBy f (s.runsOf c)
    let mask (c : Cmd) : BitVec 4 := BitVec.ofNat 4 (cmdNum c 8 1)
    let va (c : Cmd) : DWord := BitVec.ofNat 64 (cmdNum c 8 8)
    let rng (c : Cmd) : DWord × Nat := s.rangeOf (va c) (cmdNum c 16 4)
    let span (c : Cmd) : DWord × Nat := s.spanOf (rng c).1 (rng c).2
    let cancJob (c : Cmd) : Option Nat := if cmdNum c 8 1 = 0 then some (cmdNum c 4 3) else none
    let cancelled (c : Cmd) : Nat → Option Nat := s.cancelResult (cmdNum c 8 1) (s.cancelIdent c) (cancJob c)
    (∀ c, s.running? n 1 = some c → c.runs = [] →
      Answers .yelenoLaunch s fun t => ∃ r ∈ t.lau.reqs, r.id = s.lau.nextReq ∧ r.issuer = .cmd c.port c.id ∧ r.va = va c
        ∧ r.job = cmdNum c 4 3)
    ∧ (∀ c x r, s.running? n 1 = some c → c.runs = [x] → s.launchReq? x = some r → r.result.isSome = true →
      Answers .yelenoLaunch s fun t =>
        ends t c (launchCode r) (BitVec.ofNat 64 (if launchCode r = 0x14 then launchFaults r else launchNever r)))
    ∧ (∀ c bs, s.running? n 2 = some c → c.step = 1 → c.idx < cmdNum c 16 4 → got c bs →
      Answers .graph s fun t => ∃ r ∈ t.lau.reqs, r.id = s.lau.nextReq ∧ r.va = BitVec.ofNat 64 (natOfBytes bs)
        ∧ r.graph = if cmdNum c 20 4 = 0 then none else some (cmdNum c 20 4))
    ∧ (∀ c, s.running? n 2 = some c → c.step = 2 → (∀ r ∈ s.runsOf c, r.result.isSome = true)
        → cmdNum c 20 4 = 0 ∨ s.graphDone (cmdNum c 20 4) = true →
      Answers .graph s fun t => ends t c (s.graphCode c)
        (BitVec.ofNat 64 (if s.graphCode c = 0x14 then sum launchFaults c else sum launchNever c)))
    ∧ (∀ c bs, s.running? n 3 = some c → got c bs → cmdNum c 16 8 ≤ natOfBytes bs →
      Answers .waitCmd s fun t => ends t c 0x00 (BitVec.ofNat 64 (natOfBytes bs)))
    ∧ (∀ c, s.running? n 3 = some c → cmdNum c 24 4 ≠ 0 → c.since + cmdNum c 24 4 ≤ s.clk.ref →
      Answers .waitLimitExpiry s fun t => ends t c 0x03 (BitVec.ofNat 64 (natOfBytes c.data)))
    ∧ (∀ c, s.running? n 4 = some c → c.step = 0 →
      Answers .cancel s fun t => (c.id, cmdNum c 8 1, s.cancelIdent c) ∈ t.que.cancels
        ∧ ∀ p ∈ t.lau.pods,
            cancelHits (cmdNum c 8 1) (s.cancelIdent c) (cancJob c) p.recVa p.lrec = true →
            p.state ∈ ([.cancelling, .done, .ended] : List PodState))
    ∧ (∀ c, s.running? n 4 = some c → c.step ≠ 0 → (∀ x ∈ c.runs, (cancelled c x).isSome = true) →
      Answers .cancel s fun t => ends t c 0x00 (BitVec.ofNat 64 (sumBy (fun x => (cancelled c x).getD 0) c.runs)))
    ∧ (∀ c, s.running? n 5 = some c → vaLegal (s.resolve (va c)) = false →
      Answers .mapCmd s fun t => ends t c 0x10 0)
    ∧ (∀ c, s.running? n 5 = some c →
      let e := BitVec.ofNat 64 (cmdNum c 16 8)
      let size := entrySize e
      let base : DWord := BitVec.ofNat 64 ((s.resolve (va c)).toNat / size * size)
      vaLegal (s.resolve (va c)) = true → s.isOwn (s.resolve (va c)) = true → vaLegal base = true → s.isOwn base = true
        → e.getLsbD 63 = true → cmdNum c 32 4 = 1 →
      (c.step = 0 → Answers .mapCmd s fun t => if s.rooted base then stands t c 1 else ends t c 0x10 0)
      ∧ (c.step = 1 → c.idx = 0 → vaRgn base ≤ 3 → s.leavesIn base (size / 65536) = [] → s.fab.siding.length ≤ 4096
          → (∀ h ∈ homesOf base, s.sided (frameOf h (entryOf e 0) size) = false) →
        Answers .mapCmd s fun t => stands t c 3 ∧ ∃ die a, entryAt t.fab.mem die a = entryOf e 0
          ∧ entryAt t.fab.mem die (a + 4096) = BitVec.ofNat 64 (cmdNum c 24 8))
      ∧ (c.step = 3 → s.wakesIn base.toNat size = false → Answers .mapCmd s fun t => ends t c 0x00 0))
    ∧ (∀ c l, s.running? n 6 = some c → vaLegal (va c) = true → c.step = 0 → s.leavesIn (rng c).1 (rng c).2 = [l] →
      Answers .unmapCmd s fun t => stands t c 1 ∧ entryAt t.fab.mem l.die l.addr = l.e &&& 0x7FFFFFFFFFFFFFFF)
    ∧ (∀ c, s.running? n 6 = some c → vaLegal (va c) = true → c.step = 2 → c.frames.length + s.fab.siding.length ≤ 4096 →
      Answers .unmapCmd s fun t => ends t c 0x00 0 ∧ ∀ f ∈ c.frames, (f.1, f.2.1, f.2.2, c.acc) ∈ t.fab.siding)
    ∧ (∀ c, s.running? n 7 = some c → vaLegal (va c) = true →
      let u := s.flushTlb false (tlbIn (rng c).1.toNat (65536 * (rng c).2))
      Answers .harvest s fun t => ends t c 0x00 (BitVec.ofNat 64 ((List.range (rng c).2).filter fun i =>
          let p := (rng c).1 + BitVec.ofNat 64 (65536 * i)
          u.leafFirst p i && u.dirtyAt p).length)
        ∧ ∀ e ∈ t.fab.tlb, tlbIn (rng c).1.toNat (65536 * (rng c).2) e = true → e.bits = 0)
    ∧ (∀ c, s.running? n 8 = some c → vaLegal (va c) = true → c.step = 0 →
      Answers .shootdown s fun t => stands t c 1
        ∧ (∀ e ∈ t.fab.tlb, tlbIn (span c).1.toNat (span c).2 e = false)
        ∧ ∀ l ∈ t.fab.l1, ¬((span c).1.toNat < l.line.toNat + 64 ∧ l.line.toNat < (span c).1.toNat + (span c).2))
    ∧ (∀ c, s.running? n 8 = some c → vaLegal (va c) = true → c.step ≠ 0 → c.acc = 0 → (∀ id ∈ c.waits, s.performed id = true) →
      Answers .shootdown s fun t => ends t c 0x00 0)
    ∧ (∀ c, s.running? n 9 = some c → c.step = 0 → s.wloadHeld c (mask c) (cmdNum c 12 4) (cmdNum c 24 8) = false →
      Answers .wload s fun t => stands t c 1 ∧ (c.id, mask c, cmdNum c 12 4, cmdNum c 24 8) ∈ t.que.wloads)
    ∧ (∀ c bs, s.running? n 9 = some c → c.step ≠ 0 → c.idx < cmdNum c 24 8 → got c bs
        → cmdNum c 12 4 + c.idx + bs.length ≤ 2 ^ 30 →
      Answers .wload s fun t => ∀ d, d < 4 → (mask c).getLsbD d = true →
        t.fab.mem.bytes (spaceKey (wsSpace d) (cmdNum c 12 4 + c.idx)) bs.length = bs)
    ∧ (∀ c, s.running? n 9 = some c → c.step ≠ 0 → cmdNum c 24 8 ≤ c.idx →
      Answers .wload s fun t => ends t c 0x00 0 ∧ ∀ w ∈ t.que.wloads, w.1 ≠ c.id)
    ∧ (∀ c, s.running? n 10 = some c → cmdNum c 9 1 = 1 → c.step = 0 →
      Answers .quiesceHold s fun t => stands t c 1 ∧ ∀ d ∈ maskDies (mask c), d ∈ t.lau.holds)
    ∧ (∀ c, s.running? n 10 = some c → cmdNum c 9 1 = 1 → c.step ≠ 0
        → (∀ b ∈ s.cores.blocks, b.core / 64 ∉ maskDies (mask c)) →
      Answers .quiesceHold s fun t => ends t c 0x00 0)
    ∧ (∀ c, s.running? n 10 = some c → cmdNum c 9 1 = 0 →
      Answers .quiesceRelease s fun t => ends t c 0x00 0 ∧ ∀ d ∈ t.lau.holds, d ∉ maskDies (mask c))
    ∧ (∀ c, s.running? n 11 = some c → c.step = 0 →
      Answers .partitionCmd s fun t =>
        if s.partBad c then ends t c 0x10 0
        else stands t c 1
          ∧ (cmdNum c 8 1, (if BitVec.ofNat 4 (cmdNum c 9 1) = 0 then noJob else cmdNum c 4 3), BitVec.ofNat 4 (cmdNum c 9 1),
              partShares c) ∈ t.lau.parts)
    ∧ (∀ c, s.running? n 11 = some c → c.step ≠ 0
        → (∀ b ∈ s.cores.blocks, ¬(recJob b.lrec = c.acc ∧ (BitVec.ofNat 4 c.idx).getLsbD (b.core / 64) = true)) →
      Answers .partitionCmd s fun t => ends t c 0x00 0)
    ∧ (∀ c, s.running? n 12 = some c → c.step = 0 →
      Answers .readCounters s fun t => ∃ d ∈ t.que.cmds, d.id = c.id ∧ d.step = 1
        ∧ d.data = (List.range (cmdNum c 18 2)).flatMap fun i => bytesLE 8 (FMap.get 0 s.dbg.evc (cmdNum c 16 2 + i)).toNat)
    ∧ (∀ c, s.running? n 12 = some c → c.step ≠ 0 → c.idx < c.data.length → c.req = none
        → vaLegal (BitVec.ofNat 64 (cmdNum c 8 8 + c.idx)) = true →
      Answers .readCounters s fun t => ∃ q ∈ t.fab.reqs, q.who = .unit 7 c.id ∧ q.kind = .store
        ∧ q.line = lineOf (s.resolve (BitVec.ofNat 64 (cmdNum c 8 8 + c.idx))))
    ∧ (∀ c, s.running? n 12 = some c → c.step ≠ 0 → c.data.length ≤ c.idx →
      Answers .readCounters s fun t => ends t c 0x00 0)
    ∧ (∀ c, s.running? n 13 = some c → c.step = 1 → s.fw.boot = .firmware → s.fw.down = false →
      Answers .attest s fun t =>
        if cmdNum c 32 4 < (s.spdmAnswer c.data).length then ends t c 0x10 0
        else ∃ d ∈ t.que.cmds, d.id = c.id ∧ d.step = 2 ∧ d.data = s.spdmAnswer c.data)
    ∧ (∀ c, s.running? n 13 = some c → c.step = 2 → c.data.length ≤ c.idx →
      Answers .attest s fun t => ends t c (if c.data.getD 1 0 = 0x7F then 0x16 else 0x00) (BitVec.ofNat 64 c.data.length))
    ∧ (n < 4 → s.inp.m < 64 → WriteOpen s .dspLmap (64 * n + s.inp.m) →
      let k := 64 * n + s.inp.m
      let x : DWord := s.inp.v &&& 0x8000033F
      Answers .dspLmapWrite s fun t => t.reg .dspLmap k =
        if s.portsQuiet = true ∧ s.cores.blocks = []
            ∧ ¬(x.getLsbD 31 = true ∧ (Config.coreAbsent (x.extractLsb' 8 2).toNat (x.extractLsb' 0 6).toNat = true
                  ∨ s.lmapTwice k x = true)) then x
        else s.reg .dspLmap k)

/-! ### Events of launches, blocks and engines -/

/-- Launches at the relays and walker contexts: from the record to DONE (R125, R128 to R140, R147 to R151, R474).
Where the spec is silent the model's own choices hold: log entries 14, 51, 52, 82, 106. -/
def Obligations.LaunchEvents : Prop :=
  ∀ s : State,
    let n := s.inp.n
    let m := s.inp.m
    let key := s.inp.key
    let podIs (t : State) (seq : Nat) (P : PodLaunch → Prop) : Prop := ∃ q, t.pod? seq = some q ∧ P q
    let pkgIs (t : State) (k : LaunchId) (P : PkgLaunch → Prop) : Prop := ∃ q, t.pkgLaunch? k = some q ∧ P q
    let ctxIs (t : State) (core : Nat) (P : Ctx → Prop) : Prop := ∃ x, t.ctx? core key = some x ∧ P x
    let thief := s.physical (n / 64 % 4) (n % 64)
    let asking : Bool := key.pod == s.own && match s.pod? key.seq with | some p => p.asks.any fun a => a.1 == n | none => false
    let gone (t : State) (k : LaunchId) : Prop := t.pkgLaunch? k = none ∧ ∀ x ∈ t.lau.ctxs, x.key ≠ k
    (∀ r, s.inp.bytes.length ≠ 128 → s.launchReq? n = some r → r.pod = none → r.status = none → r.bytes.length < 128
        → r.req = none → vaLegal r.va = true → r.va.toNat % 128 = 0 →
      Answers .launchRequest s fun t => ∃ q ∈ t.fab.reqs, q.who = .unit 1 n ∧ q.kind = .load
        ∧ q.line = lineOf (s.resolve (r.va + BitVec.ofNat 64 r.bytes.length)))
    ∧ (∀ r, s.inp.bytes.length ≠ 128 → s.launchReq? n = some r → r.pod = none → r.status = none → 128 ≤ r.bytes.length
        → s.earlierOpen r = false →
      let lr := recOfReq r
      let open_ := recBad lr = false ∧ s.classValid lr = true
      Answers .launchRequest s fun t =>
        (¬ open_ → ∃ q, t.launchReq? n = some q ∧ q.status = some .badrec ∧ q.result = some (0, 0, false))
        ∧ (open_ → recJob lr ≠ r.job ∨ r.primax < recPrio lr ∨ recDmask lr &&& ~~~r.dies ≠ 0 →
            ∃ q, t.launchReq? n = some q ∧ q.status = some .perm)
        ∧ (open_ → recJob lr = r.job → recPrio lr ≤ r.primax → recDmask lr &&& ~~~r.dies = 0
            → s.cancelNames lr = true ∨ (∃ x ∈ r.cancels, cancelHits x.1 x.2.1 x.2.2 (s.resolve r.va) lr = true) →
            ∃ q, t.launchReq? n = some q ∧ q.status = some .cancelled ∧ q.result = some (recTiles lr, 0, false))
        ∧ (open_ → recJob lr = r.job → recPrio lr ≤ r.primax → recDmask lr &&& ~~~r.dies = 0 → s.cancelNames lr = false
            → (∀ x ∈ r.cancels, cancelHits x.1 x.2.1 x.2.2 (s.resolve r.va) lr = false)
            → (joinIdents s.lau.idents (identsOf lr)).isSome = true → (recPkgs s.own lr).headD s.own = s.own →
            ∃ p ∈ t.lau.pods, p.seq = s.lau.nextSeq ∧ p.lrec = lr ∧ p.recVa = s.resolve r.va ∧ p.state = .waiting))
    ∧ (s.inp.bytes.length = 128 →
      Answers .launchRequest s fun t => ∃ p ∈ t.lau.pods, p.seq = s.lau.nextSeq ∧ p.lrec = recOfBytes s.inp.bytes
        ∧ p.home = m ∧ p.state = .waiting)
    ∧ (∀ p, s.inp.on = false → s.pod? n = some p → p.state = .waiting →
      Answers .reserveStart s fun t => podIs t n fun q =>
        q.state = (if s.cancelNames p.lrec then .ended
          else if s.wloadConflict p.lrec.wsmask then .waiting else if p.clear = some [] then .zeroing else .waiting)
        ∧ (s.cancelNames p.lrec = false → s.wloadConflict p.lrec.wsmask = false → p.clear = none → p.lrec.wsmask = 0 →
            q.clear = some []))
    ∧ (∀ p ks, s.inp.on = true → s.pod? n = some p → p.clear = some ks →
      Answers .reserveStart s fun t => podIs t n fun q => q.state = p.state ∧ q.clear = some (ks.filter fun k => k != m))
    ∧ (∀ p, s.inp.on = false → s.pod? n = some p → p.state = .zeroing → p.req = none → (podPkgs p).length < p.line →
      Answers .reserveStart s fun t => podIs t n fun q => q.state = .reserving ∧ q.start = s.clk.ref
        ∧ q.rsvto = (s.reg .dspRsvto 0).toNat)
    ∧ (∀ a p, s.inp.msg = .answer a → a.key.pod = s.own → s.pod? a.key.seq = some p → p.state = .reserving
        → a.pkg ∈ podPkgs p → (∀ b ∈ p.answers, b.pkg ≠ a.pkg) → p.answers.length + 1 = (podPkgs p).length →
      Answers .packageAnswer s fun t => podIs t a.key.seq fun q =>
        match worstNo (p.answers ++ [a]) with
        | some _ => q.state = .ended
        | none => q.state = .committed ∧ q.s = s.startTick p)
    ∧ (∀ mask, s.inp.msg = .banks mask →
      Answers .packageReserve s fun t => (key, mask, !s.wloadConflict mask) ∈ t.lau.clears)
    ∧ (∀ r, s.inp.msg = .reserve r → s.pkgLaunch? r.key = none →
      Answers .packageReserve s fun t => pkgIs t r.key fun q => q.lrec = r.record ∧ q.rsvto = r.rsvto ∧ q.s = none
        ∧ ∀ d, d ∈ q.dies.map (fun x => x.die) ↔ d < 4 ∧ (s.launchDies r.record).getLsbD d = true)
    ∧ (∀ p, s.pkgLaunch? key = some p → (∃ d ∈ p.dies, d.die = n ∧ d.answer = none) → n ∉ s.lau.holds →
      let cores := s.eligible n p.lrec
      let ok := cores.all fun c => (s.ctxsOf c).length < 8
      Answers .dieReserve s fun t =>
        (pkgIs t key fun q => ∀ d ∈ q.dies, d.die = n → d.answer = some (if ok then some cores.length else none))
        ∧ (ok = true → ∀ c ∈ cores, ∃ x ∈ t.lau.ctxs, x.core = c ∧ x.key = key ∧ x.state = .reserved))
    ∧ (∀ p, s.pkgLaunch? key = some p → p.answer = none → (∀ d ∈ p.dies, d.answer ≠ none) →
      Answers .dieAnswer s fun t => pkgIs t key fun q => ∃ a, q.answer = some (a, s.clk.ref)
        ∧ a.key = key ∧ a.pkg = s.own ∧ a.no = worstNo (s.pkgNos p))
    ∧ (∀ p d, s.inp.msg = .level .die → s.pkgLaunch? key = some p → d ∈ p.dies → d.die = n → d.answer = none
        → d.asked + p.rsvto / 4 ≤ s.clk.ref →
      Answers .reserveTimeout s fun t => pkgIs t key fun q => ∀ d ∈ q.dies, d.die = n → d.answer = some none)
    ∧ (∀ p, s.inp.msg = .level .package → key.pod = s.own → s.pod? key.seq = some p → p.state = .reserving
        → p.start + p.rsvto / 2 ≤ s.clk.ref → n ∈ podPkgs p → (∀ b ∈ p.answers, b.pkg ≠ n) →
      Answers .reserveTimeout s fun t => podIs t key.seq fun q => { key := key, pkg := n, cores := 0, no := some .nogang } ∈ q.answers)
    ∧ (∀ p k, s.inp.msg = .level .pod → key.pod = s.own → s.pod? key.seq = some p → p.state = .reserving
        → p.start + p.rsvto ≤ s.clk.ref → podPkgs p = [k] → p.answers = [] →
      Answers .reserveTimeout s fun t => podIs t key.seq fun q => q.state = .ended)
    ∧ (∀ c p, s.inp.msg = .commit c → s.pkgLaunch? c.key = some p → p.s = none → s.clk.gt ≤ c.s + 4000 →
      Answers .commitMsg s fun t => (pkgIs t c.key fun q => q.s = some c.s ∧ q.lo = c.lo ∧ q.hi = c.hi)
        ∧ ∀ x ∈ t.lau.ctxs, x.key = c.key → (∃ d ∈ p.dies, x.core ∈ s.eligible d.die p.lrec) → x.state = .armed)
    ∧ (∀ c p, s.inp.msg = .commit c → s.pkgLaunch? c.key = some p → p.s = none → c.s + 4000 < s.clk.gt →
      Answers .commitMsg s fun t => gone t c.key)
    ∧ (∀ p, s.pkgLaunch? key = some p → p.s = none → Answers .rollbackMsg s fun t => gone t key)
    ∧ (∀ p a x, s.pkgLaunch? key = some p → p.s = none → p.answer = some (a, x) → a.no = none → x + p.rsvto ≤ s.clk.ref →
      Answers .relayHoldTimeout s fun t => gone t key)
    ∧ (∀ c x, s.ctx? n key = some c → s.startOf key = some x → c.state = .armed → x ≤ s.clk.gt →
      Answers .walkerStart s fun t => ctxIs t n fun q =>
        q.state = (if c.next < c.last ∨ c.requeue ≠ [] then .active else .hungry) ∧ q.next = c.next ∧ q.last = c.last)
    ∧ (∀ c, n / 256 = s.own → asking = false → s.ctx? thief key = some c →
      (m < s.inp.k → c.state ≠ .closing → c.last ≤ c.next →
        Answers .rangeReceive s fun t => ctxIs t thief fun q =>
          q.state = .active ∧ q.next = m ∧ q.last = s.inp.k ∧ q.asked = false)
      ∧ (∀ p, m < s.inp.k → c.state = .closing → s.pkgLaunch? key = some p →
        Answers .rangeReceive s fun t => pkgIs t key fun q => (FMap.get noTiles q.counts (thief / 64)).never
          = (FMap.get noTiles p.counts (thief / 64)).never + (s.inp.k - m))
      ∧ (s.inp.k ≤ m →
        Answers .rangeReceive s fun t => ctxIs t thief fun q =>
          q.ask = s.clk.ref + 1000 ∧ q.state = c.state ∧ q.asked = false))
    ∧ (∀ x lo hi keep, s.inp.on = true → key.pod ≠ s.own → s.pickVictim key 0 256 = some x → splitOf x s.clk.ref = some (lo, hi, keep) →
      Answers .split s fun t => ∃ q, (2, key.pod, q) ∈ t.lnk.queue ∧ q.relay = some (.range m key lo hi))
    ∧ (∀ c h, s.inp.on = false → h.asked = false → h.last ≤ h.next → n < 256 → m < 256 → n ≠ m → s.ctx? n key = some c → s.ctx? m key = some h → h.state = .hungry
        → c.state = .active ∨ c.state = .armed → c.next + 2 ≤ c.last →
      let mid := c.next + (c.last - c.next + 1) / 2
      Answers .split s fun t => (ctxIs t n fun q => q.state = c.state ∧ q.next = c.next ∧ q.last = mid)
        ∧ ctxIs t m fun q => q.state = .active ∧ q.next = mid ∧ q.last = c.last)
    ∧ (∀ c x, s.ctx? n key = some c → c.stall = some x → c.state = .active → c.next < c.last
        → x + (s.reg .dspStallto 0).toNat % 2 ^ 32 ≤ s.clk.ref →
      Answers .stallTimeout s fun t => ctxIs t n fun q => q.state = .surrendering ∧ q.next = c.next ∧ q.last = c.last)
    ∧ (∀ p, s.pkgLaunch? key = some p → s.countsDue p n = true →
      Answers .tileCountReport s fun t => pkgIs t key fun q =>
        FMap.get noTiles q.told n = FMap.get noTiles p.counts n ∧ FMap.get 0 q.toldAt n = s.clk.ref)
    ∧ (∀ c p, s.inp.msg = .counts c → key.pod = s.own → s.pod? key.seq = some p → podRunning p = true
        → (∀ x ∈ p.counts, countSum x.2 ≤ countSum c) →
      Answers .tileCountUpdate s fun t => podIs t key.seq fun q => (n, c) ∈ q.counts)
    ∧ (∀ c, s.inp.msg = .counts c → key.pod ≠ s.own → Answers .tileCountUpdate s fun t => gone t key)
    ∧ (∀ p, s.inp.on = false → s.pod? n = some p → podRunning p = true → countSum (podCounts p) = recTiles p.lrec → p.fin = none →
      Answers .launchDoneWrite s fun t => (podIs t n fun q => q.fin = some s.otherPkgs ∧ q.state = p.state)
        ∧ ∀ e ∈ t.fab.tlb, e.bits = 0)
    ∧ (∀ p q u, s.inp.on = false → s.pod? n = some p → p.state = .done → p.req = some q → s.unitAns q = .ok u →
        s.own ∈ podPkgs p →
      Answers .launchDoneWrite s fun t => gone t (s.keyOf p.seq))
    ∧ (∀ p, s.inp.on = false → s.pod? n = some p → podRunning p = true → countSum (podCounts p) = recTiles p.lrec
        → p.fin = some [] → vaLegal p.lrec.cblk = true →
      Answers .launchDoneWrite s fun t => (podIs t n fun q => q.state = .done)
        ∧ ∃ r ∈ t.fab.reqs, r.kind = .store ∧ r.rel = some 5 ∧ r.line = lineOf (s.resolve p.lrec.cblk))
    ∧ (∀ r p, s.inp.msg = .fault r → key.pod = s.own → s.pod? key.seq = some p → podRunning p = true →
      Answers .faultSummary s fun t => podIs t key.seq fun q => q.nfaults = p.nfaults + 1 ∧ ∃ x, (n, x) ∈ q.faults)
    ∧ (∀ r p, s.inp.msg = .fault r → key.pod ≠ s.own → s.pkgLaunch? key = some p →
      Answers .faultSummary s fun t => pkgIs t key fun q => q.first = some (p.first.getD r))
    ∧ (∀ p, key.pod = s.own → s.pod? key.seq = some p → p.state = .committed →
      Answers .launchlostReport s fun t => podIs t key.seq fun q => q.nfaults = p.nfaults + 1 ∧ q.state = .cancelling ∧ q.canc = true)
    ∧ (∀ g k id r st, s.inp.on = false → s.group? n m = some g → g.park = some k → k.cond = .launch id
        → s.launchReq? id = some r → r.status = some st →
      Answers .launchStatusReturn s fun t => ∃ h, t.group? n m = some h
        ∧ FMap.get 0 h.r.s (k.op.d.toNat - 0xA0) = BitVec.ofNat 32 (statusCode st)
        ∧ ∀ j, h.park = some j → j.cond ≠ .launch id)

/-- Blocks on their cores: placement, asking for work, the ends of blocks, save, flush and migration (R54, R128, R129, R131,
R147, R151, R154, R157, R178, R181, R189).
Where the spec is silent the model's own choices hold: log entries 53 to 56, 58, 60, 107. -/
def Obligations.BlockEvents : Prop :=
  ∀ s : State,
    let n := s.inp.n
    let key := s.inp.key
    let leaves (t : State) (b : Block) (P : PkgLaunch → Prop) : Prop :=
      t.block? n = none ∧ ∃ q, t.pkgLaunch? b.key = some q ∧ P q
    let tally (p : PkgLaunch) (b : Block) : TileCounts := FMap.get noTiles p.counts (b.core / 64)
    (∀ p rest c x, s.issuers n = p :: rest → s.coreOpen n p.lrec = true → s.savedFor n p.key = [] → s.ctx? n p.key = some c
        → s.fit n p.lrec (fun _ => true) = .ok x →
      let tile := match c.requeue with | y :: _ => y | [] => c.next
      Answers .placementAttempt s fun t => ∃ b ∈ t.cores.blocks, b.uid = s.cores.nextUid ∧ b.core = n ∧ b.key = p.key
        ∧ b.tile = tile ∧ b.ext = x.ext ∧ b.accts = x.accts)
    ∧ (∀ c p x, s.ctx? n key = some c → s.pkgLaunch? key = some p → s.coreOpen n p.lrec = true
        → s.fit n p.lrec (fun _ => true) = .ok x → c.state = .hungry → c.asked = false → c.ask ≤ s.clk.ref →
      Answers .workReaskTimer s fun t => ∃ q, t.ctx? n key = some q ∧ q.ask = s.clk.ref + 1000)
    ∧ (∀ b p, s.block? n = some b → (∀ g ∈ b.groups, g.exited = true ∧ g.dead = false) → s.quiet b false = true
        → hasErrors b = false → s.pkgLaunch? b.key = some p →
      Answers .blockRetire s fun t => leaves t b fun q => (tally q b).retired = (tally p b).retired + 1)
    ∧ (∀ b p, s.block? n = some b → b.stop = some .fault → s.allStopped b = true → s.quiet b false = true
        → hasErrors b = false → s.pkgLaunch? b.key = some p →
      Answers .faultBlockEnd s fun t => leaves t b fun q => (tally q b).retired = (tally p b).retired + 1)
    ∧ (∀ b p, s.block? n = some b → b.stop = some .cancel → s.allStopped b = true → s.quiet b false = true
        → hasErrors b = false → s.isGated (clusterOf b.core) = false → s.pkgLaunch? b.key = some p →
      Answers .cancelledBlockRemove s fun t => leaves t b fun q =>
        (tally q b).cancelled = (tally p b).cancelled + 1 ∧ q.cancd = p.cancd ++ [b.tile])
    ∧ (∀ p, s.inp.on = true → s.pkgLaunch? key = some p → p.canc = false → p.s.isSome = true →
      Answers .cancelMsg s fun t => (∃ q, t.pkgLaunch? key = some q ∧ q.canc = true)
        ∧ (∀ x ∈ t.lau.ctxs, x.key = key → x.state = .reserved ∨ (x.state = .closing))
        ∧ ∀ v ∈ t.cores.saved, v.block.key ≠ key)
    ∧ (∀ p, s.inp.on = false → key.pod = s.own → s.pod? key.seq = some p → p.state = .committed →
      Answers .cancelMsg s fun t => ∃ q, t.pod? key.seq = some q ∧ q.state = .cancelling ∧ q.canc = true)
    ∧ (∀ b c, s.block? n = some b → b.stop = some .flush → s.allStopped b = true → s.quiet b true = true
        → s.isGated (clusterOf b.core) = false → hasErrors b = false → s.ctx? b.core b.key = some c →
      Answers .preemptionStopComplete s fun t => t.block? n = none
        ∧ ∃ x, t.ctx? b.core b.key = some x ∧ b.tile ∈ x.requeue)
    ∧ (∀ b k u, s.block? n = some b → b.stop = some .save → s.allStopped b = true → s.quiet b true = true
        → s.isGated (clusterOf b.core) = false → hasErrors b = false
        → (∀ g ∈ b.groups, ∀ j, g.park = some j → ∀ i, j.cond ≠ .barClu i) → s.poolFind (imgUnits b) = some k
        → s.placeable b.lrec = true →
      let va := s.resolve (s.reg .dspSpbase 0) + BitVec.ofNat 64 (65536 * k)
      let b' : Block := { b with groups := b.groups.map fun g => { g with park := none, stopped := false, pend := [] } }
      s.writeImage b' ((s.startOf b.key).getD 0) va = .ok u →
      Answers .preemptionStopComplete s fun t => t.block? n = none ∧ ∃ x ∈ t.cores.saved, x.slot = va ∧ x.block = b')
    ∧ (∀ w, s.th.wants.find? (fun w => w.1 == n) = some w → w.2 ≤ s.clk.ref →
      Answers .migrationRetry s fun t =>
        if s.hasGroups n = false then ∀ x ∈ t.th.wants, x.1 ≠ n
        else match (if s.isMoving n || s.isGated (clusterOf n) then none else s.migrationTarget n) with
          | none => (n, s.clk.ref + 1000) ∈ t.th.wants
          | some y => (n, y, 1) ∈ t.th.moves ∧ ∀ x ∈ t.th.wants, x.1 ≠ n)
    ∧ (∀ x, s.th.moves.find? (fun x => x.1 == n) = some x → s.isGated (clusterOf n) = false
        → s.isGated (clusterOf x.2.1) = false → n ≠ x.2.1 → (∀ b ∈ s.blocksOn n, s.movable b = true) →
      if s.takesFrom n x.2.1 = false then s.migrationTarget n = none →
        Answers .migrationTransfer s fun t => (n, s.clk.ref + 1000) ∈ t.th.wants ∧ (∀ y ∈ t.th.moves, y.1 ≠ n)
          ∧ ∀ b ∈ t.cores.blocks, b.core = n → b.stop ≠ some .migrate
      else Answers .migrationTransfer s fun t => (∀ b ∈ t.cores.blocks, b.core ≠ n)
        ∧ (∀ b ∈ s.blocksOn n, ∃ d ∈ t.cores.blocks, d.uid = b.uid ∧ d.core = x.2.1)
        ∧ ∀ y ∈ t.th.moves, y.1 ≠ n)

/-- Runs, waits and the completions of the engines (R160 to R171, R183, R212, R214 to R218, R227, R253, R268 to R270, R289,
R290, R390, R441, R464, R476); what a load, an atomic or a drain leaves in registers (R162, R233, R420, R424, R427), what a
granted array operation does to planes, accumulators and scratch (R254 to R261, R266, R267, R452 to R455), what NEST writes
(R463, R464), and the reads and the output of the merge-path unit (R227, R469).
Where the spec is silent the model's own choices hold: log entries 2, 11, 25, 32, 39, 45, 87; that the unit reads the last row
pointer first is log entry 25's choice, and where no i meets R227 the entry is a free value (log entry 26). -/
def Obligations.EngineEvents : Prop :=
  ∀ s : State,
    let n := s.inp.n
    let m := s.inp.m
    let groupIs (t : State) (u g : Nat) (P : Group → Prop) : Prop := ∃ h, t.group? u g = some h ∧ P h
    let only (k : EngClass) (u g op : Nat) : Prop := groupIs s u g fun h => ∃ e, h.engs = [e] ∧ e.id = op ∧ e.cls = k
    let falls (t : State) (k : EngClass) (u g : Nat) : Prop :=
      ∃ h, s.group? u g = some h ∧ groupIs t u g fun h' => h'.engs = [] ∧ h'.cnt.get k = h.cnt.get k - 1
    (∀ x, (∀ r ∈ s.cores.runs, ¬(r.core = n ∧ r.part = m)) → firstBy bidBefore (s.bidders n m) = some x →
      Answers .runGrant s fun t => ∃ r ∈ t.cores.runs, r.core = n ∧ r.part = m ∧ r.blk = x.blk.uid ∧ r.gid = x.grp.gid
        ∧ r.slotB = x.slotB ∧ r.count = 0
        ∧ groupIs t x.blk.uid x.grp.gid fun h => h.lastRun = if x.path.begun then x.grp.lastRun else s.cores.runSeq + 1)
    ∧ (∀ b g, s.block? n = some b → blockGroup? b m = some g → (s.readyGroup b g).isSome = true → g.lastRef + 1024 ≤ s.clk.ref →
      Answers .groupDue s fun t => groupIs t n m fun h => h.due = true)
    ∧ (∀ g o, s.group? n m = some g → g.ops.find? (fun o => o.id == s.inp.k) = some o → o.left = 0 → o.errs = []
        → hitchOf g = none →
      o.LanesOk →
      Answers .longResultReturn s fun t => groupIs t n m fun h => LongWritten o g.r h.r ∧ LongKeeps o g.r h.r
        ∧ (∀ x ∈ h.ops, x.id ≠ s.inp.k) ∧ ∀ x ∈ h.pend, x.2 ≠ s.inp.k)
    ∧ (∀ g k x, s.group? n m = some g → g.park = some k → k.cond = .sleep x → x ≤ s.clk.ref →
      Answers .sleepExpiry s fun t => groupIs t n m fun h => ∀ j, h.park = some j → j.cond = .drain)
    ∧ (∀ d ds b, s.haltedChan n m = false → s.chanOf n m = d :: ds → d.failed = [] → d.done < d.len → d.kind = .neighbour → s.sourceBad n d = false
        → d.mirror = none → d.bar = none → s.block? d.rblk = some b →
      Answers .copyBeatDeliver s fun t => (∃ e es, t.chanOf n m = e :: es
            ∧ e.done = d.done + (s.copySource d d.done (beatLen d)).length)
        ∧ t.fab.mem.bytes (scrKey b (d.dst.toNat + d.done)) (s.copySource d d.done (beatLen d)).length
            = s.copySource d d.done (beatLen d))
    ∧ (∀ d ds, s.haltedChan n m = false → s.chanOf n m = d :: ds → d.failed = [] → d.done < d.len → d.kind = .fetch → d.req = none → d.data = []
        → vaLegal (d.src + BitVec.ofNat 64 d.done) = true →
      Answers .copyBeatDeliver s fun t => ∃ q ∈ t.fab.reqs, q.who = .channel n m ∧ q.kind = .copyRd
        ∧ q.line = lineOf (s.resolve (d.src + BitVec.ofNat 64 d.done)))
    ∧ (∀ d, s.chanOf n m = [d] → d.failed = [] → d.done = d.len → 0 < d.len → only .copy d.blk d.gid d.op →
      Answers .copyDescriptorComplete s fun t => t.chanOf n m = [] ∧ falls t .copy d.blk d.gid)
    ∧ (∀ e op prio b, portOp (s.cluster n) s.inp.port = none → s.block? e.blk = some b
        → choose (match s.inp.port with | .load => (s.cluster n).last.1 | .stream => (s.cluster n).last.2)
            (s.readyHeads n s.inp.port) = some (e, op, prio) →
      Answers .bookingGrant s fun t => portOp (t.cluster n) s.inp.port = some op
        ∧ (s.arrayBad n b op = none → op.row0 + op.n ≤ 256 → op.cb0 + op.ncb ≤ 8 →
            GrantLeaves s b op (s.cluster n) (t.cluster n) ∧ GrantDrains s t b op (t.cluster n)))
    ∧ (∀ op, portOp (s.cluster n) s.inp.port = some op → (s.inp.port = .load → s.loadWaits n = false)
        → only .arr op.blk op.gid op.op →
      Answers .arrayOpComplete s fun t => portOp (t.cluster n) s.inp.port = none ∧ falls t .arr op.blk op.gid
        ∧ (∀ e ∈ (t.cluster n).book, ∀ o ∈ e.ops, o.op ≠ op.op)
        ∧ ∀ fold lop g l, op.kind = .mdrainReg fold lop → s.group? op.blk op.gid = some g →
            g.ops.find? (fun o => o.id == lop) = some l → l.errs = [] → l.LanesOk →
            groupIs t op.blk op.gid fun h => LongWritten l g.r h.r ∧ LongKeeps l g.r h.r)
    ∧ (∀ core ch d ds b, s.haltedChan core ch = false → s.bankBusy n m = false → s.cores.chans = [((core, ch), d :: ds)] → core / 64 = n → d.kind = .weight
        → d.failed = [] → d.done < d.len → s.sourceBad core d = false
        → s.wsFree (core / 64) (d.src.toNat + d.done) (beatLen d) = true → s.block? d.rblk = some b →
      Answers .wsWindowEnd s fun t => ∃ e es, t.chanOf core ch = e :: es ∧ e.done = d.done + beatLen d)
    ∧ (∀ q e, s.cores.qmus.find? (fun q => q.blk == n && q.gid == m) = some q → q.eng = some e → only .qmu n m e →
      Answers .qmuOpComplete s fun t => t.cores.qmus = s.cores.qmus.erase q ∧ falls t .qmu n m)
    ∧ (∀ x b, s.cores.nests.find? (fun x => x.blk == n && x.gid == m) = some x → s.block? n = some b → only .nest n m x.op →
      Answers .nestComplete s fun t => (∀ y ∈ t.cores.nests, y.op ≠ x.op) ∧ falls t .nest n m
        ∧ (groupIs s n m (fun h => h.park = none) → s.nestFail b x = none → s.traceOff →
            NestRun b x s.fab.mem (nestCount x.p) t.fab.mem))
    ∧ (∀ q, s.mpathHead n = some q → q.req = none → mpathRuns q.n q.p = false → only .nest q.blk q.gid q.op →
      Answers .mpathComplete s fun t => falls t .nest q.blk q.gid ∧ (∀ y ∈ t.cores.mpaths, y.2.op ≠ q.op)
        ∧ ∀ r ∈ t.fab.reqs, r.who = .mpath n → r ∈ s.fab.reqs)
    ∧ (∀ q, s.mpathHead n = some q → q.req = none → mpathRuns q.n q.p = true → q.failed = [] → q.z = none
        → vaLegal (q.rows + BitVec.ofNat 64 (4 * q.n)) = true →
      Answers .mpathComplete s fun t => ∃ r ∈ t.fab.reqs, r.who = .mpath (q.core / 64) ∧ r.kind = .load
        ∧ r.line = lineOf (s.resolve (q.rows + BitVec.ofNat 64 (4 * q.n))))
    ∧ (∀ q id r, s.mpathHead n = some q → q.req = some id → s.got? id = some r → r.phase = .answered → mpathRuns q.n q.p = true →
        q.failed = [] → q.sent ≤ q.p →
      (q.z = none → Answers .mpathComplete s fun t => ∃ q', t.mpathHead n = some q' ∧ q'.op = q.op
        ∧ q'.z = some (r.vals.getD 0 0).toNat)
      ∧ ∀ z, q.z = some z → q.pos ≤ q.n → (∀ v ∈ r.vals, v.toNat < 2 ^ 32) → MpathSplits q z →
        Answers .mpathComplete s fun t => ∃ q', t.mpathHead n = some q' ∧ q'.op = q.op ∧ q'.z = some z
          ∧ q'.ptrs = q.ptrs ++ r.vals.map (fun v => v.setWidth 32) ∧ MpathSplits q' z)
    ∧ (∀ q z, s.mpathHead n = some q → q.req = none → q.z = some z → mpathRuns q.n q.p = true → q.failed = [] →
      (q.pos ≤ q.n → vaLegal (q.rows + BitVec.ofNat 64 (4 * q.pos)) = true →
        Answers .mpathComplete s fun t =>
          MpathAsks s t q .load (q.rows + BitVec.ofNat 64 (4 * q.pos)) 4 (q.n + 1 - q.pos) fun _ => 0)
      ∧ (q.pos = q.n + 1 → q.sent ≤ q.p → MpathSplits q z → (s.sideOf q.core).length < 256 →
        vaLegal (q.out + BitVec.ofNat 64 (8 * q.sent)) = true →
        Answers .mpathComplete s fun t => ∃ out,
          MpathAsks s t q .store (q.out + BitVec.ofNat 64 (8 * q.sent)) 8 (q.p + 1 - q.sent) out
          ∧ ∀ k i, q.sent + k ≤ q.p → IsSplit q z (q.n + 1) (q.sent + k) i →
            out k = i + 2 ^ 32 * (((q.sent + k) * (q.n + z) / q.p - i) % 2 ^ 32)))
    ∧ (∀ q id r z, s.mpathHead n = some q → q.req = some id → s.got? id = some r → r.phase = .answered → q.z = some z →
        q.failed = [] → q.n < q.pos → q.p < q.sent + r.parts.length → only .nest q.blk q.gid q.op →
      Answers .mpathComplete s fun t => falls t .nest q.blk q.gid ∧ ∀ y ∈ t.cores.mpaths, y.2.op ≠ q.op)
    ∧ (∀ g k c req since r, s.group? n m = some g → g.park = some k → s.curOf n m k.slotB = some c → k.cond = .word req since
        → inScratch k.op = false → req ≠ 0 → s.got? req = some r → r.phase = .answered
        → waitHolds c k.op (r.vals.getD 0 0).toNat = true →
      Answers .memoryWaitRecheck s fun t => groupIs t n m fun h =>
        h.r.uni k.op.ty.is64 (k.op.d.toNat - 0xA0)
          = (r.vals.getD 0 0).toNat % 2 ^ (if k.op.ty.is64 then 64 else 32)
        ∧ ∀ j, h.park = some j → j.cond = .drain)
    ∧ (∀ g k c req since r, s.group? n m = some g → g.park = some k → s.curOf n m k.slotB = some c → k.cond = .lwait req since
        → req ≠ 0 → s.got? req = some r → r.phase = .answered → 2 ^ 63 ≤ (r.vals.getD 0 0).toNat → hasImprecise g = false →
      Answers .memoryWaitRecheck s fun t => groupIs t n m fun h =>
        FMap.get 0 h.r.s (k.op.d.toNat - 0xA0) = BitVec.ofNat 32 (r.vals.getD 0 0).toNat
        ∧ FMap.get 0 h.r.s (k.op.d.toNat - 0xA0 + 1) = BitVec.ofNat 32 ((r.vals.getD 0 0).toNat / 2 ^ 32)
        ∧ ∀ j, h.park = some j → j.cond = .drain)

/-! ### Encodings and steps -/

/-- Every well-formed instruction that has words decodes from its own words, whatever follows them (R339 to R348, R362,
R363). -/
def Obligations.DecodeEncode : Prop :=
  ∀ (i : Instr) (rest : List DWord),
    i.hasWords = true → i.wf = true → decodeWords (encode i ++ rest) = .ok (i, rest)

/-- Whatever decodes is a well-formed instruction, and, but for NOP, whose other fields mean nothing, the words are the ones
it encodes to: no other words mean it, and no bit of them is dropped (R363, R364). -/
def Obligations.DecodedWords : Prop :=
  ∀ (ws rest : List DWord) (i : Instr),
    decodeWords ws = .ok (i, rest) →
      i.hasWords = true ∧ i.wf = true ∧ rest.length < ws.length
      ∧ ((∀ o, i ≠ .nop o) → encode i ++ rest = ws)

/-- The words the spec works through decode to what it says they mean, and the variants it refuses are refused in the word
it names (chapters 15 to 23). -/
def Obligations.EncodingWords : Prop :=
  let op : Op :=
    { seam := 0, gp := 7, gi := false, ty := .none, d := 0, a := 0, b := 0, c := 0, mod := 0, ext := .one }
  let addWord : DWord := 0x1201860204000B00
  let means (ws : List DWord) (i : Instr) : Prop := decodeWords ws = .ok (i, [])
  let refused (ws : List DWord) (word : BitVec 2) : Prop :=
    ∃ e, decodeWords ws = .error e ∧ e.word = word
  means [addWord] (.add { op with seam := 1, gp := 3, ty := .i32, d := 1, a := 2, c := 5, mod := 0x100 })
  ∧ means [0x4217840808000101, 0xFC10100003FFF400]
      (.sha { op with ty := .i16, d := 4, a := 4, mod := 0x101, ext := .face true true 4 4 0 0 0xFFFD })
  ∧ means [0x2603961104008000] (.ld { op with seam := 2, ty := .f32, d := 8, a := 0x82, c := 0x40 })
  ∧ means [0x2603961104008050] (.ld { op with seam := 2, ty := .f32, d := 8, a := 0x82, c := 0x40, mod := 0x050 })
  ∧ means [0x02A387C204060002] (.cmp { op with ty := .i32, d := 0xE1, a := 2, b := 3, mod := 2 })
  ∧ means [0x02ABA80200807100] (.mov { op with ty := .e4m3x4, d := 1, b := 0x40, c := 0x38, mod := 0x100 })
  ∧ means [0x06408E0151460001] (.aadd { op with gp := 1, ty := .n32, a := 0xA8, b := 0xA3, mod := 1 })
  ∧ means [0x1697800150000081] (.barClu { op with seam := 1, a := 0xA8, mod := 0x081 })
  ∧ means [0x48638159F155560A, 0xF00000000000001B]
      (.copy { op with d := 0xAC, a := 0xF8, b := 0xAA, c := 0xAB, mod := 0x00A, ext := .extn false 0 0 0x1B })
  ∧ means [0x1A03815148000000] (.launch { op with seam := 1, d := 0xA8, a := 0xA4 })
  ∧ means [0x002B80014C002200] (.loop { op with a := 0xA6, c := 0x11 })
  ∧ means [0x504F8001C8000000, 0xFC03940000000000]
      (.mnext { op with seam := 1, a := 0xE4, ext := .face true true 0 0xE5 0 0 0 })
  ∧ refused [addWord ^^^ (0xF <<< 41)] 0
  ∧ refused [addWord ^^^ (0x0D <<< 50)] 0
  ∧ refused [0x4217840808000101, 0xFC10100003FFF401] 1
  ∧ refused [0x4217840808000101, 0xF410100003FFF400] 0
  ∧ refused [0xFC10100003FFF400] 0
  ∧ refused [0x2603961104008060] 0
  ∧ refused [0x26039611FC008000] 0

/-- A step takes the first turn of the agenda: an event with its operands, an error of a memory, an access of a firmware core, or
for a partition's run the instruction its words decode to (R341, R363), or its loop body's next (R466), with ILLEGAL where there is none; a turn whose
cluster has no clock waits for it (R55), a state without a run is left as it is, and an empty agenda is filled (the agenda is
the model's, log entry 2). -/
def Obligations.StepRunsDecoded : Prop :=
  ∀ (s : State) (rest : List Turn),
    let runs (t : Turn) : Prop := s.agenda = t :: rest ∧ s.mustWait t = false
    (∀ x, s.agenda = x :: rest → s.mustWait x = true → step s = .next { s with agenda := rest, frozen := s.frozen ++ [x] })
    ∧ (∀ i x, runs (.event i x) → step s = exec i { s with agenda := rest, inp := x })
    ∧ (∀ x, runs (.upset x) → step s = .next (State.upset { s with agenda := rest } x))
    ∧ (∀ x, runs (.firm x) → step s = .next (State.fwAccess { s with agenda := rest } x))
    ∧ (s.agenda = [] → step s = .next s.auto)
    ∧ ∀ (core part : Nat), runs (.issue core part) →
      let u : State := { s with agenda := rest, cores := { s.cores with cur := some (core, part) } }
      let illegal (c : Cur) (aux : Word) : FaultInfo := { code := codeIllegal, lanes := c.path.mask, aux := aux }
      (u.current = none → step s = .next { s with agenda := rest })
      ∧ ∀ c, u.current = some c →
        (c.path.loop = none → ∀ ws, u.fetchInstr c c.path.pc = .words ws →
          (∀ i left, decodeWords ws = .ok (i, left) → step s = exec i (u.fetchFills c ws.length c.path.pc))
          ∧ (∀ e, decodeWords ws = .error e → step s = .next (raise c (illegal c (e.word.setWidth 32)) u)))
        ∧ (c.path.loop = none → ∀ code stat aux, u.fetchInstr c c.path.pc = .fail code stat aux →
          step s = .next (fetchFault c c.path.pc code stat aux u))
        ∧ (c.path.loop = none → ∀ line, u.fetchInstr c c.path.pc = .wait line → step s = .next (u.fetchSend c line))
        ∧ (∀ lb i, c.path.loop = some lb → loopInstr lb = some i → step s = exec i u)
        ∧ (∀ lb, c.path.loop = some lb → loopInstr lb = none → step s = .next (raise c (illegal c 0) u))

/-- What reset leaves: the values the chapters give the device registers, no bytes held apart from zeros, no block and no
launch, every port down, and power-on reset as the first turn. Memory that reads as zero is the model's choice (log
entry 4), the agenda the model's own (log entry 2). -/
def Obligations.ResetState : Prop :=
  let s := State.reset
  (∀ i, s.reg .pwrVcl i = 0x140014 ∧ s.reg .pwrVtail i = 0x141414 ∧ s.reg .clkClf i = 0x12 ∧ s.reg .pwrCstat i = 1
    ∧ s.reg .cxaCad i = 0x10101 ∧ s.reg .pwrPlim i = 0x320 ∧ s.reg .cxlReqto i = 0xC350
    ∧ s.reg .cplrVlthr i = 0x40404040 ∧ s.reg .cplrE2eto i = 0xE4E1C0 ∧ s.reg .xltPfto i = 0x989680
    ∧ s.reg .dspStallto i = 20000 ∧ s.reg .dspRsvto i = 100000 ∧ s.reg .dspLead i = 50000
    ∧ s.reg .queCtl i = 0 ∧ s.reg .dbgTrctl i = 0 ∧ s.reg .dbgWctl i = 0 ∧ s.reg .fidInj i = 0)
  ∧ (∀ a, s.fab.mem.byte a = Memory.unlisted) ∧ s.fab.mem.wf
  ∧ s.cores.blocks = [] ∧ s.cores.runs = [] ∧ s.cores.cur = none
  ∧ s.clk.gt = 0 ∧ s.clk.run = false
  ∧ (∀ port, s.portUp port = false)
  ∧ s.agenda = [.event .powerOnReset {}]

/-- Every step keeps memory in its canonical form: keys strictly rising, and no entry that equals what an unlisted key
reads as, so that equal memories are equal data. -/
def Obligations.StepKeepsMemory : Prop :=
  ∀ (s t : State), s.fab.mem.wf → step s = .next t → t.fab.mem.wf
end

