-- ==== Sys2Proof/Laws/FMap.lean ====
section
/-! SUPPORT. Laws of sparse storage: a read after a write, every other key unchanged, and the canonical form kept by
every operation on memory. -/

namespace Sys2Proof

variable {α : Type}

/-! ### One key -/

theorem FMap.get_put_same (d : α) (m : FMap α) (k : Nat) (x : α) : FMap.get d (FMap.put m k x) k = x := by
  induction m with
  | nil => simp [FMap.put, FMap.get]
  | cons e t ih =>
    obtain ⟨a, y⟩ := e
    simp only [FMap.put]
    split
    · simp [FMap.get]
    · split
      · simp [FMap.get]
      · simp [FMap.get, *]

theorem FMap.get_put_ne (d : α) (m : FMap α) {k j : Nat} (h : j ≠ k) (x : α) :
    FMap.get d (FMap.put m k x) j = FMap.get d m j := by
  induction m with
  | nil => simp [FMap.put, FMap.get, Ne.symm h]
  | cons e t ih =>
    obtain ⟨a, y⟩ := e
    simp only [FMap.put]
    split
    · simp [FMap.get, Ne.symm h]
    · split
      · subst_vars; simp [FMap.get, Ne.symm h]
      · simp [FMap.get, ih]

theorem FMap.get_del_same (d : α) (m : FMap α) (k : Nat) : FMap.get d (FMap.del m k) k = d := by
  induction m with
  | nil => simp [FMap.del, FMap.get]
  | cons e t ih =>
    obtain ⟨a, y⟩ := e
    simp only [FMap.del]
    split
    · exact ih
    · simp [FMap.get, *]

theorem FMap.get_del_ne (d : α) (m : FMap α) {k j : Nat} (h : j ≠ k) :
    FMap.get d (FMap.del m k) j = FMap.get d m j := by
  induction m with
  | nil => simp [FMap.del]
  | cons e t ih =>
    obtain ⟨a, y⟩ := e
    simp only [FMap.del]
    split
    · subst_vars; simp [FMap.get, Ne.symm h, ih]
    · simp [FMap.get, ih]

variable [DecidableEq α]

/-- A read after a write of the same key. -/
@[simp] theorem FMap.get_set_same (d : α) (m : FMap α) (k : Nat) (x : α) : FMap.get d (FMap.set d m k x) k = x := by
  unfold FMap.set
  split
  · subst_vars; exact FMap.get_del_same x m k
  · exact FMap.get_put_same d m k x

/-- A write leaves every other key alone. -/
theorem FMap.get_set_ne (d : α) (m : FMap α) {k j : Nat} (h : j ≠ k) (x : α) :
    FMap.get d (FMap.set d m k x) j = FMap.get d m j := by
  unfold FMap.set
  split
  · exact FMap.get_del_ne d m h
  · exact FMap.get_put_ne d m h x

/-- Both laws in one. -/
theorem FMap.get_set (d : α) (m : FMap α) (k j : Nat) (x : α) :
    FMap.get d (FMap.set d m k x) j = if j = k then x else FMap.get d m j := by
  split
  · subst_vars; simp
  · exact FMap.get_set_ne d m ‹_› x

/-! ### The canonical form -/

theorem FMap.wfFrom_mono (d : α) (m : FMap α) {lo lo' : Nat} (h : lo' ≤ lo) (hm : FMap.wfFrom d lo m = true) :
    FMap.wfFrom d lo' m = true := by
  cases m with
  | nil => rfl
  | cons e t =>
    obtain ⟨a, y⟩ := e
    simp only [FMap.wfFrom, Bool.and_eq_true, decide_eq_true_eq] at hm ⊢
    exact ⟨⟨by omega, hm.1.2⟩, hm.2⟩

theorem FMap.wfFrom_put (d : α) (m : FMap α) {k : Nat} {x : α} (hx : x ≠ d) :
    ∀ lo, lo ≤ k → FMap.wfFrom d lo m = true → FMap.wfFrom d lo (FMap.put m k x) = true := by
  induction m with
  | nil => intro lo h _; simp [FMap.put, FMap.wfFrom, h, hx]
  | cons e t ih =>
    obtain ⟨a, y⟩ := e
    intro lo h hm
    simp only [FMap.wfFrom, Bool.and_eq_true, decide_eq_true_eq] at hm
    simp only [FMap.put]
    split
    · simp only [FMap.wfFrom, Bool.and_eq_true, decide_eq_true_eq]
      exact ⟨⟨h, hx⟩, ⟨by omega, hm.1.2⟩, hm.2⟩
    · split
      · subst_vars
        simp only [FMap.wfFrom, Bool.and_eq_true, decide_eq_true_eq]
        exact ⟨⟨h, hx⟩, hm.2⟩
      · simp only [FMap.wfFrom, Bool.and_eq_true, decide_eq_true_eq]
        exact ⟨hm.1, ih (a + 1) (by omega) hm.2⟩

theorem FMap.wfFrom_del (d : α) (m : FMap α) (k : Nat) :
    ∀ lo, FMap.wfFrom d lo m = true → FMap.wfFrom d lo (FMap.del m k) = true := by
  induction m with
  | nil => intro lo _; rfl
  | cons e t ih =>
    obtain ⟨a, y⟩ := e
    intro lo hm
    simp only [FMap.wfFrom, Bool.and_eq_true, decide_eq_true_eq] at hm
    simp only [FMap.del]
    split
    · exact FMap.wfFrom_mono d _ (by omega) (ih (a + 1) hm.2)
    · simp only [FMap.wfFrom, Bool.and_eq_true, decide_eq_true_eq]
      exact ⟨hm.1, ih (a + 1) hm.2⟩

/-- A write keeps the canonical form. -/
theorem FMap.wf_set (d : α) (m : FMap α) (k : Nat) (x : α) (h : FMap.wf d m = true) :
    FMap.wf d (FMap.set d m k x) = true := by
  unfold FMap.set
  split
  · exact FMap.wfFrom_del d m k 0 h
  · exact FMap.wfFrom_put d m ‹_› 0 (Nat.zero_le _) h

/-- In the canonical form the order of two writes to different keys does not show in any read. -/
theorem FMap.get_set_comm (d : α) (m : FMap α) {i j : Nat} (h : i ≠ j) (x y : α) (k : Nat) :
    FMap.get d (FMap.set d (FMap.set d m i x) j y) k = FMap.get d (FMap.set d (FMap.set d m j y) i x) k := by
  simp only [FMap.get_set]
  by_cases h1 : k = i <;> by_cases h2 : k = j <;> simp_all

/-! ### Memory -/

@[simp] theorem Memory.byte_setByte_same (m : Memory) (k : Nat) (b : Byte) : (m.setByte k b).byte k = b :=
  FMap.get_set_same _ _ _ _

theorem Memory.byte_setByte_ne (m : Memory) {k j : Nat} (h : j ≠ k) (b : Byte) : (m.setByte k b).byte j = m.byte j :=
  FMap.get_set_ne _ _ h _

/-- Every byte outside the stored ones reads as before. -/
theorem Memory.byte_setBytes_out (m : Memory) (k : Nat) (bs : List Byte) (j : Nat) (h : j < k ∨ k + bs.length ≤ j) :
    (m.setBytes k bs).byte j = m.byte j := by
  induction bs generalizing m k with
  | nil => rfl
  | cons b bs ih =>
    simp only [List.length_cons] at h
    rw [Memory.setBytes, ih _ _ (by omega), Memory.byte_setByte_ne _ (by omega)]

/-- Every stored byte reads as it was stored. -/
theorem Memory.byte_setBytes_in (m : Memory) (k : Nat) (bs : List Byte) (i : Nat) (h : i < bs.length) :
    (m.setBytes k bs).byte (k + i) = bs[i] := by
  induction bs generalizing m k i with
  | nil => simp at h
  | cons b bs ih =>
    rw [Memory.setBytes]
    cases i with
    | zero => rw [Memory.byte_setBytes_out _ _ _ _ (by omega)]; simp
    | succ i =>
      have := ih (m.setByte k b) (k + 1) i (by simpa using h)
      rw [show k + 1 + i = k + (i + 1) by omega] at this
      simpa using this

theorem bytesLE_length (n x : Nat) : (bytesLE n x).length = n := by
  induction n generalizing x with
  | zero => rfl
  | succ n ih => simp [bytesLE, ih]

/-- The number little-endian bytes of a number stand for is the number, cut to their width. -/
theorem natOfBytes_bytesLE (n x : Nat) : natOfBytes (bytesLE n x) = x % 2 ^ (8 * n) := by
  induction n generalizing x with
  | zero => simp [bytesLE, natOfBytes, Nat.mod_one]
  | succ n ih =>
    simp only [bytesLE, natOfBytes, ih, BitVec.toNat_ofNat]
    rw [show 8 * (n + 1) = 8 + 8 * n by omega, Nat.pow_add, Nat.mod_mul]

/-- Bytes outside a stored number read as before. -/
theorem Memory.byte_setNum_out (m : Memory) (k n x j : Nat) (h : j < k ∨ k + n ≤ j) :
    (m.setNum k n x).byte j = m.byte j :=
  Memory.byte_setBytes_out _ _ _ _ (by rw [bytesLE_length]; exact h)

theorem Memory.bytes_eq_of_byte {m m' : Memory} (k n : Nat) (h : ∀ j, k ≤ j → j < k + n → m'.byte j = m.byte j) :
    m'.bytes k n = m.bytes k n := by
  induction n generalizing k with
  | zero => rfl
  | succ n ih =>
    simp only [Memory.bytes]
    rw [h k (by omega) (by omega), ih (k + 1) fun j h1 h2 => h j (by omega) (by omega)]

/-- The bytes of a stored list read back. -/
theorem Memory.bytes_setBytes_same (m : Memory) (k : Nat) (bs : List Byte) :
    (m.setBytes k bs).bytes k bs.length = bs := by
  induction bs generalizing m k with
  | nil => rfl
  | cons b bs ih =>
    simp only [List.length_cons, Memory.bytes, Memory.setBytes]
    rw [ih, Memory.byte_setBytes_out _ _ _ _ (by omega)]
    simp

/-- A number is read back as it was stored. -/
theorem Memory.num_setNum_same (m : Memory) (k n x : Nat) : (m.setNum k n x).num k n = x % 2 ^ (8 * n) := by
  have h := Memory.bytes_setBytes_same m k (bytesLE n x)
  rw [bytesLE_length] at h
  rw [Memory.num, Memory.setNum, h, natOfBytes_bytesLE]

/-- A number elsewhere reads as before. -/
theorem Memory.num_setNum_out (m : Memory) (k n x j l : Nat) (h : j + l ≤ k ∨ k + n ≤ j) :
    (m.setNum k n x).num j l = m.num j l := by
  unfold Memory.num
  rw [Memory.bytes_eq_of_byte]
  intro i h1 h2
  exact Memory.byte_setNum_out _ _ _ _ _ (by omega)

/-- The empty memory is in the canonical form. -/
theorem Memory.wf_empty : Memory.wf [] := rfl

theorem Memory.wf_setByte (m : Memory) (k : Nat) (b : Byte) (h : m.wf) : (m.setByte k b).wf := FMap.wf_set _ _ _ _ h

/-- Storing bytes keeps the canonical form. -/
theorem Memory.wf_setBytes (m : Memory) (k : Nat) (bs : List Byte) (h : m.wf) : (m.setBytes k bs).wf := by
  induction bs generalizing m k with
  | nil => exact h
  | cons b bs ih => exact ih _ _ (Memory.wf_setByte m k b h)

/-- Storing a number keeps the canonical form. -/
theorem Memory.wf_setNum (m : Memory) (k n x : Nat) (h : m.wf) : (m.setNum k n x).wf := Memory.wf_setBytes _ _ _ h

/-! ### Memories in the canonical form are equal when they read alike -/

theorem FMap.get_of_lt {β : Type} [DecidableEq β] (d : β) (m : FMap β) :
    ∀ lo, FMap.wfFrom d lo m = true → ∀ k, k < lo → FMap.get d m k = d := by
  induction m with
  | nil => intro _ _ _ _; rfl
  | cons e t ih =>
    obtain ⟨a, y⟩ := e
    intro lo hm k hk
    simp only [FMap.wfFrom, Bool.and_eq_true, decide_eq_true_eq] at hm
    have : ¬a = k := by omega
    simp only [FMap.get, this, if_false]
    exact ih (a + 1) hm.2 k (by omega)

theorem FMap.ext_from {β : Type} [DecidableEq β] (d : β) (m : FMap β) :
    ∀ (m' : FMap β) lo, FMap.wfFrom d lo m = true → FMap.wfFrom d lo m' = true →
      (∀ k, FMap.get d m k = FMap.get d m' k) → m = m' := by
  induction m with
  | nil =>
    intro m' lo _ h' hk
    cases m' with
    | nil => rfl
    | cons e t =>
      obtain ⟨a, y⟩ := e
      simp only [FMap.wfFrom, Bool.and_eq_true, decide_eq_true_eq] at h'
      exact absurd (by simpa [FMap.get] using (hk a).symm) h'.1.2
  | cons e t ih =>
    obtain ⟨a, y⟩ := e
    intro m' lo h h' hk
    simp only [FMap.wfFrom, Bool.and_eq_true, decide_eq_true_eq] at h
    cases m' with
    | nil => exact absurd (by simpa [FMap.get] using hk a) h.1.2
    | cons e' t' =>
      obtain ⟨b, z⟩ := e'
      simp only [FMap.wfFrom, Bool.and_eq_true, decide_eq_true_eq] at h'
      have hab : a = b := by
        rcases Nat.lt_trichotomy a b with hl | hl | hl
        · have := hk a
          have hb : ¬b = a := by omega
          simp only [FMap.get, if_true, hb, if_false] at this
          exact absurd (this.trans (FMap.get_of_lt d t' (b + 1) h'.2 a (by omega))) h.1.2
        · exact hl
        · have := hk b
          have hb : ¬a = b := by omega
          simp only [FMap.get, if_true, hb, if_false] at this
          exact absurd (this.symm.trans (FMap.get_of_lt d t (a + 1) h.2 b (by omega))) h'.1.2
      subst hab
      have hyz : y = z := by simpa [FMap.get] using hk a
      subst hyz
      congr 1
      refine ih t' (a + 1) h.2 h'.2 fun k => ?_
      by_cases hka : a = k
      · subst hka
        rw [FMap.get_of_lt d t (a + 1) h.2 a (by omega), FMap.get_of_lt d t' (a + 1) h'.2 a (by omega)]
      · simpa [FMap.get, hka] using hk k

/-- Equal memories are equal data. -/
theorem Memory.ext {m m' : Memory} (h : m.wf) (h' : m'.wf) (hk : ∀ k, m.byte k = m'.byte k) : m = m' :=
  FMap.ext_from _ m m' 0 h h' hk

end Sys2Proof
end

