-- ==== Sys2Proof/Laws/State.lean ====
section
/-! SUPPORT. What each update of the state leaves alone: one lemma for each field and update. -/

namespace Sys2Proof.Machine
open Sys2Proof

/-! ### setReg -/

@[simp] theorem State.setReg_agenda (s : State) (r : RegName) (i : Nat) (v : DWord) : (s.setReg r i v).agenda = s.agenda := rfl
@[simp] theorem State.setReg_outside (s : State) (r : RegName) (i : Nat) (v : DWord) : (s.setReg r i v).outside = s.outside := rfl
@[simp] theorem State.setReg_inp (s : State) (r : RegName) (i : Nat) (v : DWord) : (s.setReg r i v).inp = s.inp := rfl
@[simp] theorem State.setReg_free (s : State) (r : RegName) (i : Nat) (v : DWord) : (s.setReg r i v).free = s.free := rfl
@[simp] theorem State.setReg_clk (s : State) (r : RegName) (i : Nat) (v : DWord) : (s.setReg r i v).clk = s.clk := rfl
@[simp] theorem State.setReg_fab (s : State) (r : RegName) (i : Nat) (v : DWord) : (s.setReg r i v).fab = s.fab := rfl
@[simp] theorem State.setReg_cores (s : State) (r : RegName) (i : Nat) (v : DWord) : (s.setReg r i v).cores = s.cores := rfl
@[simp] theorem State.setReg_lau (s : State) (r : RegName) (i : Nat) (v : DWord) : (s.setReg r i v).lau = s.lau := rfl
@[simp] theorem State.setReg_que (s : State) (r : RegName) (i : Nat) (v : DWord) : (s.setReg r i v).que = s.que := rfl
@[simp] theorem State.setReg_lnk (s : State) (r : RegName) (i : Nat) (v : DWord) : (s.setReg r i v).lnk = s.lnk := rfl
@[simp] theorem State.setReg_th (s : State) (r : RegName) (i : Nat) (v : DWord) : (s.setReg r i v).th = s.th := rfl
@[simp] theorem State.setReg_fw (s : State) (r : RegName) (i : Nat) (v : DWord) : (s.setReg r i v).fw = s.fw := rfl
@[simp] theorem State.setReg_dbg (s : State) (r : RegName) (i : Nat) (v : DWord) : (s.setReg r i v).dbg = s.dbg := rfl
@[simp] theorem State.setReg_sent (s : State) (r : RegName) (i : Nat) (v : DWord) : (s.setReg r i v).sent = s.sent := rfl

/-! ### setField -/

@[simp] theorem State.setField_agenda (s : State) (r : RegName) (i lo w x : Nat) : (s.setField r i lo w x).agenda = s.agenda := rfl
@[simp] theorem State.setField_outside (s : State) (r : RegName) (i lo w x : Nat) : (s.setField r i lo w x).outside = s.outside := rfl
@[simp] theorem State.setField_inp (s : State) (r : RegName) (i lo w x : Nat) : (s.setField r i lo w x).inp = s.inp := rfl
@[simp] theorem State.setField_free (s : State) (r : RegName) (i lo w x : Nat) : (s.setField r i lo w x).free = s.free := rfl
@[simp] theorem State.setField_clk (s : State) (r : RegName) (i lo w x : Nat) : (s.setField r i lo w x).clk = s.clk := rfl
@[simp] theorem State.setField_fab (s : State) (r : RegName) (i lo w x : Nat) : (s.setField r i lo w x).fab = s.fab := rfl
@[simp] theorem State.setField_cores (s : State) (r : RegName) (i lo w x : Nat) : (s.setField r i lo w x).cores = s.cores := rfl
@[simp] theorem State.setField_lau (s : State) (r : RegName) (i lo w x : Nat) : (s.setField r i lo w x).lau = s.lau := rfl
@[simp] theorem State.setField_que (s : State) (r : RegName) (i lo w x : Nat) : (s.setField r i lo w x).que = s.que := rfl
@[simp] theorem State.setField_lnk (s : State) (r : RegName) (i lo w x : Nat) : (s.setField r i lo w x).lnk = s.lnk := rfl
@[simp] theorem State.setField_th (s : State) (r : RegName) (i lo w x : Nat) : (s.setField r i lo w x).th = s.th := rfl
@[simp] theorem State.setField_fw (s : State) (r : RegName) (i lo w x : Nat) : (s.setField r i lo w x).fw = s.fw := rfl
@[simp] theorem State.setField_dbg (s : State) (r : RegName) (i lo w x : Nat) : (s.setField r i lo w x).dbg = s.dbg := rfl
@[simp] theorem State.setField_sent (s : State) (r : RegName) (i lo w x : Nat) : (s.setField r i lo w x).sent = s.sent := rfl

/-! ### modUcie -/

@[simp] theorem State.modUcie_agenda (s : State) (port : Nat) (f : UciePort → UciePort) : (s.modUcie port f).agenda = s.agenda := rfl
@[simp] theorem State.modUcie_outside (s : State) (port : Nat) (f : UciePort → UciePort) : (s.modUcie port f).outside = s.outside := rfl
@[simp] theorem State.modUcie_inp (s : State) (port : Nat) (f : UciePort → UciePort) : (s.modUcie port f).inp = s.inp := rfl
@[simp] theorem State.modUcie_free (s : State) (port : Nat) (f : UciePort → UciePort) : (s.modUcie port f).free = s.free := rfl
@[simp] theorem State.modUcie_clk (s : State) (port : Nat) (f : UciePort → UciePort) : (s.modUcie port f).clk = s.clk := rfl
@[simp] theorem State.modUcie_dev (s : State) (port : Nat) (f : UciePort → UciePort) : (s.modUcie port f).dev = s.dev := rfl
@[simp] theorem State.modUcie_fab (s : State) (port : Nat) (f : UciePort → UciePort) : (s.modUcie port f).fab = s.fab := rfl
@[simp] theorem State.modUcie_cores (s : State) (port : Nat) (f : UciePort → UciePort) : (s.modUcie port f).cores = s.cores := rfl
@[simp] theorem State.modUcie_lau (s : State) (port : Nat) (f : UciePort → UciePort) : (s.modUcie port f).lau = s.lau := rfl
@[simp] theorem State.modUcie_que (s : State) (port : Nat) (f : UciePort → UciePort) : (s.modUcie port f).que = s.que := rfl
@[simp] theorem State.modUcie_th (s : State) (port : Nat) (f : UciePort → UciePort) : (s.modUcie port f).th = s.th := rfl
@[simp] theorem State.modUcie_fw (s : State) (port : Nat) (f : UciePort → UciePort) : (s.modUcie port f).fw = s.fw := rfl
@[simp] theorem State.modUcie_dbg (s : State) (port : Nat) (f : UciePort → UciePort) : (s.modUcie port f).dbg = s.dbg := rfl
@[simp] theorem State.modUcie_sent (s : State) (port : Nat) (f : UciePort → UciePort) : (s.modUcie port f).sent = s.sent := rfl

/-! ### modBlock -/

@[simp] theorem State.modBlock_agenda (s : State) (uid : Nat) (f : Block → Block) : (s.modBlock uid f).agenda = s.agenda := rfl
@[simp] theorem State.modBlock_outside (s : State) (uid : Nat) (f : Block → Block) : (s.modBlock uid f).outside = s.outside := rfl
@[simp] theorem State.modBlock_inp (s : State) (uid : Nat) (f : Block → Block) : (s.modBlock uid f).inp = s.inp := rfl
@[simp] theorem State.modBlock_free (s : State) (uid : Nat) (f : Block → Block) : (s.modBlock uid f).free = s.free := rfl
@[simp] theorem State.modBlock_clk (s : State) (uid : Nat) (f : Block → Block) : (s.modBlock uid f).clk = s.clk := rfl
@[simp] theorem State.modBlock_dev (s : State) (uid : Nat) (f : Block → Block) : (s.modBlock uid f).dev = s.dev := rfl
@[simp] theorem State.modBlock_fab (s : State) (uid : Nat) (f : Block → Block) : (s.modBlock uid f).fab = s.fab := rfl
@[simp] theorem State.modBlock_lau (s : State) (uid : Nat) (f : Block → Block) : (s.modBlock uid f).lau = s.lau := rfl
@[simp] theorem State.modBlock_que (s : State) (uid : Nat) (f : Block → Block) : (s.modBlock uid f).que = s.que := rfl
@[simp] theorem State.modBlock_lnk (s : State) (uid : Nat) (f : Block → Block) : (s.modBlock uid f).lnk = s.lnk := rfl
@[simp] theorem State.modBlock_th (s : State) (uid : Nat) (f : Block → Block) : (s.modBlock uid f).th = s.th := rfl
@[simp] theorem State.modBlock_fw (s : State) (uid : Nat) (f : Block → Block) : (s.modBlock uid f).fw = s.fw := rfl
@[simp] theorem State.modBlock_dbg (s : State) (uid : Nat) (f : Block → Block) : (s.modBlock uid f).dbg = s.dbg := rfl
@[simp] theorem State.modBlock_sent (s : State) (uid : Nat) (f : Block → Block) : (s.modBlock uid f).sent = s.sent := rfl

/-! ### modGroup -/

@[simp] theorem State.modGroup_agenda (s : State) (uid gid : Nat) (f : Group → Group) : (s.modGroup uid gid f).agenda = s.agenda := rfl
@[simp] theorem State.modGroup_outside (s : State) (uid gid : Nat) (f : Group → Group) : (s.modGroup uid gid f).outside = s.outside := rfl
@[simp] theorem State.modGroup_inp (s : State) (uid gid : Nat) (f : Group → Group) : (s.modGroup uid gid f).inp = s.inp := rfl
@[simp] theorem State.modGroup_free (s : State) (uid gid : Nat) (f : Group → Group) : (s.modGroup uid gid f).free = s.free := rfl
@[simp] theorem State.modGroup_clk (s : State) (uid gid : Nat) (f : Group → Group) : (s.modGroup uid gid f).clk = s.clk := rfl
@[simp] theorem State.modGroup_dev (s : State) (uid gid : Nat) (f : Group → Group) : (s.modGroup uid gid f).dev = s.dev := rfl
@[simp] theorem State.modGroup_fab (s : State) (uid gid : Nat) (f : Group → Group) : (s.modGroup uid gid f).fab = s.fab := rfl
@[simp] theorem State.modGroup_lau (s : State) (uid gid : Nat) (f : Group → Group) : (s.modGroup uid gid f).lau = s.lau := rfl
@[simp] theorem State.modGroup_que (s : State) (uid gid : Nat) (f : Group → Group) : (s.modGroup uid gid f).que = s.que := rfl
@[simp] theorem State.modGroup_lnk (s : State) (uid gid : Nat) (f : Group → Group) : (s.modGroup uid gid f).lnk = s.lnk := rfl
@[simp] theorem State.modGroup_th (s : State) (uid gid : Nat) (f : Group → Group) : (s.modGroup uid gid f).th = s.th := rfl
@[simp] theorem State.modGroup_fw (s : State) (uid gid : Nat) (f : Group → Group) : (s.modGroup uid gid f).fw = s.fw := rfl
@[simp] theorem State.modGroup_dbg (s : State) (uid gid : Nat) (f : Group → Group) : (s.modGroup uid gid f).dbg = s.dbg := rfl
@[simp] theorem State.modGroup_sent (s : State) (uid gid : Nat) (f : Group → Group) : (s.modGroup uid gid f).sent = s.sent := rfl

/-! ### modCur -/

@[simp] theorem State.modCur_agenda (s : State) (c : Cur) (f : Group → Group) : (s.modCur c f).agenda = s.agenda := rfl
@[simp] theorem State.modCur_outside (s : State) (c : Cur) (f : Group → Group) : (s.modCur c f).outside = s.outside := rfl
@[simp] theorem State.modCur_inp (s : State) (c : Cur) (f : Group → Group) : (s.modCur c f).inp = s.inp := rfl
@[simp] theorem State.modCur_free (s : State) (c : Cur) (f : Group → Group) : (s.modCur c f).free = s.free := rfl
@[simp] theorem State.modCur_clk (s : State) (c : Cur) (f : Group → Group) : (s.modCur c f).clk = s.clk := rfl
@[simp] theorem State.modCur_dev (s : State) (c : Cur) (f : Group → Group) : (s.modCur c f).dev = s.dev := rfl
@[simp] theorem State.modCur_fab (s : State) (c : Cur) (f : Group → Group) : (s.modCur c f).fab = s.fab := rfl
@[simp] theorem State.modCur_lau (s : State) (c : Cur) (f : Group → Group) : (s.modCur c f).lau = s.lau := rfl
@[simp] theorem State.modCur_que (s : State) (c : Cur) (f : Group → Group) : (s.modCur c f).que = s.que := rfl
@[simp] theorem State.modCur_lnk (s : State) (c : Cur) (f : Group → Group) : (s.modCur c f).lnk = s.lnk := rfl
@[simp] theorem State.modCur_th (s : State) (c : Cur) (f : Group → Group) : (s.modCur c f).th = s.th := rfl
@[simp] theorem State.modCur_fw (s : State) (c : Cur) (f : Group → Group) : (s.modCur c f).fw = s.fw := rfl
@[simp] theorem State.modCur_dbg (s : State) (c : Cur) (f : Group → Group) : (s.modCur c f).dbg = s.dbg := rfl
@[simp] theorem State.modCur_sent (s : State) (c : Cur) (f : Group → Group) : (s.modCur c f).sent = s.sent := rfl

/-! ### modPath -/

@[simp] theorem State.modPath_agenda (s : State) (c : Cur) (f : Path → Path) : (s.modPath c f).agenda = s.agenda := rfl
@[simp] theorem State.modPath_outside (s : State) (c : Cur) (f : Path → Path) : (s.modPath c f).outside = s.outside := rfl
@[simp] theorem State.modPath_inp (s : State) (c : Cur) (f : Path → Path) : (s.modPath c f).inp = s.inp := rfl
@[simp] theorem State.modPath_free (s : State) (c : Cur) (f : Path → Path) : (s.modPath c f).free = s.free := rfl
@[simp] theorem State.modPath_clk (s : State) (c : Cur) (f : Path → Path) : (s.modPath c f).clk = s.clk := rfl
@[simp] theorem State.modPath_dev (s : State) (c : Cur) (f : Path → Path) : (s.modPath c f).dev = s.dev := rfl
@[simp] theorem State.modPath_fab (s : State) (c : Cur) (f : Path → Path) : (s.modPath c f).fab = s.fab := rfl
@[simp] theorem State.modPath_lau (s : State) (c : Cur) (f : Path → Path) : (s.modPath c f).lau = s.lau := rfl
@[simp] theorem State.modPath_que (s : State) (c : Cur) (f : Path → Path) : (s.modPath c f).que = s.que := rfl
@[simp] theorem State.modPath_lnk (s : State) (c : Cur) (f : Path → Path) : (s.modPath c f).lnk = s.lnk := rfl
@[simp] theorem State.modPath_th (s : State) (c : Cur) (f : Path → Path) : (s.modPath c f).th = s.th := rfl
@[simp] theorem State.modPath_fw (s : State) (c : Cur) (f : Path → Path) : (s.modPath c f).fw = s.fw := rfl
@[simp] theorem State.modPath_dbg (s : State) (c : Cur) (f : Path → Path) : (s.modPath c f).dbg = s.dbg := rfl
@[simp] theorem State.modPath_sent (s : State) (c : Cur) (f : Path → Path) : (s.modPath c f).sent = s.sent := rfl

/-! ### endTurn -/

@[simp] theorem State.endTurn_agenda (s : State) (core part : Nat) : (s.endTurn core part).agenda = s.agenda := rfl
@[simp] theorem State.endTurn_outside (s : State) (core part : Nat) : (s.endTurn core part).outside = s.outside := rfl
@[simp] theorem State.endTurn_inp (s : State) (core part : Nat) : (s.endTurn core part).inp = s.inp := rfl
@[simp] theorem State.endTurn_free (s : State) (core part : Nat) : (s.endTurn core part).free = s.free := rfl
@[simp] theorem State.endTurn_clk (s : State) (core part : Nat) : (s.endTurn core part).clk = s.clk := rfl
@[simp] theorem State.endTurn_dev (s : State) (core part : Nat) : (s.endTurn core part).dev = s.dev := rfl
@[simp] theorem State.endTurn_fab (s : State) (core part : Nat) : (s.endTurn core part).fab = s.fab := rfl
@[simp] theorem State.endTurn_lau (s : State) (core part : Nat) : (s.endTurn core part).lau = s.lau := rfl
@[simp] theorem State.endTurn_que (s : State) (core part : Nat) : (s.endTurn core part).que = s.que := rfl
@[simp] theorem State.endTurn_lnk (s : State) (core part : Nat) : (s.endTurn core part).lnk = s.lnk := rfl
@[simp] theorem State.endTurn_th (s : State) (core part : Nat) : (s.endTurn core part).th = s.th := rfl
@[simp] theorem State.endTurn_fw (s : State) (core part : Nat) : (s.endTurn core part).fw = s.fw := rfl
@[simp] theorem State.endTurn_dbg (s : State) (core part : Nat) : (s.endTurn core part).dbg = s.dbg := rfl
@[simp] theorem State.endTurn_sent (s : State) (core part : Nat) : (s.endTurn core part).sent = s.sent := rfl

/-! ### setFrame -/

@[simp] theorem State.setFrame_agenda (s : State) (b : Block) (gid f off n x : Nat) : (s.setFrame b gid f off n x).agenda = s.agenda := rfl
@[simp] theorem State.setFrame_outside (s : State) (b : Block) (gid f off n x : Nat) : (s.setFrame b gid f off n x).outside = s.outside := rfl
@[simp] theorem State.setFrame_inp (s : State) (b : Block) (gid f off n x : Nat) : (s.setFrame b gid f off n x).inp = s.inp := rfl
@[simp] theorem State.setFrame_free (s : State) (b : Block) (gid f off n x : Nat) : (s.setFrame b gid f off n x).free = s.free := rfl
@[simp] theorem State.setFrame_clk (s : State) (b : Block) (gid f off n x : Nat) : (s.setFrame b gid f off n x).clk = s.clk := rfl
@[simp] theorem State.setFrame_dev (s : State) (b : Block) (gid f off n x : Nat) : (s.setFrame b gid f off n x).dev = s.dev := rfl
@[simp] theorem State.setFrame_cores (s : State) (b : Block) (gid f off n x : Nat) : (s.setFrame b gid f off n x).cores = s.cores := rfl
@[simp] theorem State.setFrame_lau (s : State) (b : Block) (gid f off n x : Nat) : (s.setFrame b gid f off n x).lau = s.lau := rfl
@[simp] theorem State.setFrame_que (s : State) (b : Block) (gid f off n x : Nat) : (s.setFrame b gid f off n x).que = s.que := rfl
@[simp] theorem State.setFrame_lnk (s : State) (b : Block) (gid f off n x : Nat) : (s.setFrame b gid f off n x).lnk = s.lnk := rfl
@[simp] theorem State.setFrame_th (s : State) (b : Block) (gid f off n x : Nat) : (s.setFrame b gid f off n x).th = s.th := rfl
@[simp] theorem State.setFrame_fw (s : State) (b : Block) (gid f off n x : Nat) : (s.setFrame b gid f off n x).fw = s.fw := rfl
@[simp] theorem State.setFrame_dbg (s : State) (b : Block) (gid f off n x : Nat) : (s.setFrame b gid f off n x).dbg = s.dbg := rfl
@[simp] theorem State.setFrame_sent (s : State) (b : Block) (gid f off n x : Nat) : (s.setFrame b gid f off n x).sent = s.sent := rfl

/-! ### countCore -/

@[simp] theorem State.countCore_agenda (s : State) (src core : Nat) : (s.countCore src core).agenda = s.agenda := rfl
@[simp] theorem State.countCore_outside (s : State) (src core : Nat) : (s.countCore src core).outside = s.outside := rfl
@[simp] theorem State.countCore_inp (s : State) (src core : Nat) : (s.countCore src core).inp = s.inp := rfl
@[simp] theorem State.countCore_free (s : State) (src core : Nat) : (s.countCore src core).free = s.free := rfl
@[simp] theorem State.countCore_clk (s : State) (src core : Nat) : (s.countCore src core).clk = s.clk := rfl
@[simp] theorem State.countCore_dev (s : State) (src core : Nat) : (s.countCore src core).dev = s.dev := rfl
@[simp] theorem State.countCore_fab (s : State) (src core : Nat) : (s.countCore src core).fab = s.fab := rfl
@[simp] theorem State.countCore_cores (s : State) (src core : Nat) : (s.countCore src core).cores = s.cores := rfl
@[simp] theorem State.countCore_lau (s : State) (src core : Nat) : (s.countCore src core).lau = s.lau := rfl
@[simp] theorem State.countCore_que (s : State) (src core : Nat) : (s.countCore src core).que = s.que := rfl
@[simp] theorem State.countCore_lnk (s : State) (src core : Nat) : (s.countCore src core).lnk = s.lnk := rfl
@[simp] theorem State.countCore_th (s : State) (src core : Nat) : (s.countCore src core).th = s.th := rfl
@[simp] theorem State.countCore_fw (s : State) (src core : Nat) : (s.countCore src core).fw = s.fw := rfl
@[simp] theorem State.countCore_sent (s : State) (src core : Nat) : (s.countCore src core).sent = s.sent := rfl

/-! ### countLanes -/

@[simp] theorem State.countLanes_agenda (s : State) (c : Cur) (o : Op) : (s.countLanes c o).agenda = s.agenda := rfl
@[simp] theorem State.countLanes_outside (s : State) (c : Cur) (o : Op) : (s.countLanes c o).outside = s.outside := rfl
@[simp] theorem State.countLanes_inp (s : State) (c : Cur) (o : Op) : (s.countLanes c o).inp = s.inp := rfl
@[simp] theorem State.countLanes_free (s : State) (c : Cur) (o : Op) : (s.countLanes c o).free = s.free := rfl
@[simp] theorem State.countLanes_clk (s : State) (c : Cur) (o : Op) : (s.countLanes c o).clk = s.clk := rfl
@[simp] theorem State.countLanes_dev (s : State) (c : Cur) (o : Op) : (s.countLanes c o).dev = s.dev := rfl
@[simp] theorem State.countLanes_fab (s : State) (c : Cur) (o : Op) : (s.countLanes c o).fab = s.fab := rfl
@[simp] theorem State.countLanes_cores (s : State) (c : Cur) (o : Op) : (s.countLanes c o).cores = s.cores := rfl
@[simp] theorem State.countLanes_lau (s : State) (c : Cur) (o : Op) : (s.countLanes c o).lau = s.lau := rfl
@[simp] theorem State.countLanes_que (s : State) (c : Cur) (o : Op) : (s.countLanes c o).que = s.que := rfl
@[simp] theorem State.countLanes_lnk (s : State) (c : Cur) (o : Op) : (s.countLanes c o).lnk = s.lnk := rfl
@[simp] theorem State.countLanes_th (s : State) (c : Cur) (o : Op) : (s.countLanes c o).th = s.th := rfl
@[simp] theorem State.countLanes_fw (s : State) (c : Cur) (o : Op) : (s.countLanes c o).fw = s.fw := rfl
@[simp] theorem State.countLanes_sent (s : State) (c : Cur) (o : Op) : (s.countLanes c o).sent = s.sent := rfl

/-! ### fetchForget -/

@[simp] theorem State.fetchForget_agenda (s : State) (uid gid : Nat) (slotB : Bool) : (s.fetchForget uid gid slotB).agenda = s.agenda := rfl
@[simp] theorem State.fetchForget_outside (s : State) (uid gid : Nat) (slotB : Bool) : (s.fetchForget uid gid slotB).outside = s.outside := rfl
@[simp] theorem State.fetchForget_inp (s : State) (uid gid : Nat) (slotB : Bool) : (s.fetchForget uid gid slotB).inp = s.inp := rfl
@[simp] theorem State.fetchForget_free (s : State) (uid gid : Nat) (slotB : Bool) : (s.fetchForget uid gid slotB).free = s.free := rfl
@[simp] theorem State.fetchForget_clk (s : State) (uid gid : Nat) (slotB : Bool) : (s.fetchForget uid gid slotB).clk = s.clk := rfl
@[simp] theorem State.fetchForget_dev (s : State) (uid gid : Nat) (slotB : Bool) : (s.fetchForget uid gid slotB).dev = s.dev := rfl
@[simp] theorem State.fetchForget_cores (s : State) (uid gid : Nat) (slotB : Bool) : (s.fetchForget uid gid slotB).cores = s.cores := rfl
@[simp] theorem State.fetchForget_lau (s : State) (uid gid : Nat) (slotB : Bool) : (s.fetchForget uid gid slotB).lau = s.lau := rfl
@[simp] theorem State.fetchForget_que (s : State) (uid gid : Nat) (slotB : Bool) : (s.fetchForget uid gid slotB).que = s.que := rfl
@[simp] theorem State.fetchForget_lnk (s : State) (uid gid : Nat) (slotB : Bool) : (s.fetchForget uid gid slotB).lnk = s.lnk := rfl
@[simp] theorem State.fetchForget_th (s : State) (uid gid : Nat) (slotB : Bool) : (s.fetchForget uid gid slotB).th = s.th := rfl
@[simp] theorem State.fetchForget_fw (s : State) (uid gid : Nat) (slotB : Bool) : (s.fetchForget uid gid slotB).fw = s.fw := rfl
@[simp] theorem State.fetchForget_dbg (s : State) (uid gid : Nat) (slotB : Bool) : (s.fetchForget uid gid slotB).dbg = s.dbg := rfl
@[simp] theorem State.fetchForget_sent (s : State) (uid gid : Nat) (slotB : Bool) : (s.fetchForget uid gid slotB).sent = s.sent := rfl

/-! ### modReq -/

@[simp] theorem State.modReq_agenda (s : State) (id : Nat) (f : Req → Req) : (s.modReq id f).agenda = s.agenda := rfl
@[simp] theorem State.modReq_outside (s : State) (id : Nat) (f : Req → Req) : (s.modReq id f).outside = s.outside := rfl
@[simp] theorem State.modReq_inp (s : State) (id : Nat) (f : Req → Req) : (s.modReq id f).inp = s.inp := rfl
@[simp] theorem State.modReq_free (s : State) (id : Nat) (f : Req → Req) : (s.modReq id f).free = s.free := rfl
@[simp] theorem State.modReq_clk (s : State) (id : Nat) (f : Req → Req) : (s.modReq id f).clk = s.clk := rfl
@[simp] theorem State.modReq_dev (s : State) (id : Nat) (f : Req → Req) : (s.modReq id f).dev = s.dev := rfl
@[simp] theorem State.modReq_cores (s : State) (id : Nat) (f : Req → Req) : (s.modReq id f).cores = s.cores := rfl
@[simp] theorem State.modReq_lau (s : State) (id : Nat) (f : Req → Req) : (s.modReq id f).lau = s.lau := rfl
@[simp] theorem State.modReq_que (s : State) (id : Nat) (f : Req → Req) : (s.modReq id f).que = s.que := rfl
@[simp] theorem State.modReq_lnk (s : State) (id : Nat) (f : Req → Req) : (s.modReq id f).lnk = s.lnk := rfl
@[simp] theorem State.modReq_th (s : State) (id : Nat) (f : Req → Req) : (s.modReq id f).th = s.th := rfl
@[simp] theorem State.modReq_fw (s : State) (id : Nat) (f : Req → Req) : (s.modReq id f).fw = s.fw := rfl
@[simp] theorem State.modReq_dbg (s : State) (id : Nat) (f : Req → Req) : (s.modReq id f).dbg = s.dbg := rfl
@[simp] theorem State.modReq_sent (s : State) (id : Nat) (f : Req → Req) : (s.modReq id f).sent = s.sent := rfl

/-! ### dropReq -/

@[simp] theorem State.dropReq_agenda (s : State) (id : Nat) : (s.dropReq id).agenda = s.agenda := rfl
@[simp] theorem State.dropReq_outside (s : State) (id : Nat) : (s.dropReq id).outside = s.outside := rfl
@[simp] theorem State.dropReq_inp (s : State) (id : Nat) : (s.dropReq id).inp = s.inp := rfl
@[simp] theorem State.dropReq_free (s : State) (id : Nat) : (s.dropReq id).free = s.free := rfl
@[simp] theorem State.dropReq_clk (s : State) (id : Nat) : (s.dropReq id).clk = s.clk := rfl
@[simp] theorem State.dropReq_dev (s : State) (id : Nat) : (s.dropReq id).dev = s.dev := rfl
@[simp] theorem State.dropReq_cores (s : State) (id : Nat) : (s.dropReq id).cores = s.cores := rfl
@[simp] theorem State.dropReq_lau (s : State) (id : Nat) : (s.dropReq id).lau = s.lau := rfl
@[simp] theorem State.dropReq_que (s : State) (id : Nat) : (s.dropReq id).que = s.que := rfl
@[simp] theorem State.dropReq_lnk (s : State) (id : Nat) : (s.dropReq id).lnk = s.lnk := rfl
@[simp] theorem State.dropReq_th (s : State) (id : Nat) : (s.dropReq id).th = s.th := rfl
@[simp] theorem State.dropReq_fw (s : State) (id : Nat) : (s.dropReq id).fw = s.fw := rfl
@[simp] theorem State.dropReq_dbg (s : State) (id : Nat) : (s.dropReq id).dbg = s.dbg := rfl
@[simp] theorem State.dropReq_sent (s : State) (id : Nat) : (s.dropReq id).sent = s.sent := rfl

/-! ### l1Clear -/

@[simp] theorem State.l1Clear_agenda (s : State) (core : Nat) : (s.l1Clear core).agenda = s.agenda := rfl
@[simp] theorem State.l1Clear_outside (s : State) (core : Nat) : (s.l1Clear core).outside = s.outside := rfl
@[simp] theorem State.l1Clear_inp (s : State) (core : Nat) : (s.l1Clear core).inp = s.inp := rfl
@[simp] theorem State.l1Clear_free (s : State) (core : Nat) : (s.l1Clear core).free = s.free := rfl
@[simp] theorem State.l1Clear_clk (s : State) (core : Nat) : (s.l1Clear core).clk = s.clk := rfl
@[simp] theorem State.l1Clear_dev (s : State) (core : Nat) : (s.l1Clear core).dev = s.dev := rfl
@[simp] theorem State.l1Clear_cores (s : State) (core : Nat) : (s.l1Clear core).cores = s.cores := rfl
@[simp] theorem State.l1Clear_lau (s : State) (core : Nat) : (s.l1Clear core).lau = s.lau := rfl
@[simp] theorem State.l1Clear_que (s : State) (core : Nat) : (s.l1Clear core).que = s.que := rfl
@[simp] theorem State.l1Clear_lnk (s : State) (core : Nat) : (s.l1Clear core).lnk = s.lnk := rfl
@[simp] theorem State.l1Clear_th (s : State) (core : Nat) : (s.l1Clear core).th = s.th := rfl
@[simp] theorem State.l1Clear_fw (s : State) (core : Nat) : (s.l1Clear core).fw = s.fw := rfl
@[simp] theorem State.l1Clear_dbg (s : State) (core : Nat) : (s.l1Clear core).dbg = s.dbg := rfl
@[simp] theorem State.l1Clear_sent (s : State) (core : Nat) : (s.l1Clear core).sent = s.sent := rfl

/-! ### modLau -/

@[simp] theorem State.modLau_agenda (s : State) (f : Launches → Launches) : (s.modLau f).agenda = s.agenda := rfl
@[simp] theorem State.modLau_outside (s : State) (f : Launches → Launches) : (s.modLau f).outside = s.outside := rfl
@[simp] theorem State.modLau_inp (s : State) (f : Launches → Launches) : (s.modLau f).inp = s.inp := rfl
@[simp] theorem State.modLau_free (s : State) (f : Launches → Launches) : (s.modLau f).free = s.free := rfl
@[simp] theorem State.modLau_clk (s : State) (f : Launches → Launches) : (s.modLau f).clk = s.clk := rfl
@[simp] theorem State.modLau_dev (s : State) (f : Launches → Launches) : (s.modLau f).dev = s.dev := rfl
@[simp] theorem State.modLau_fab (s : State) (f : Launches → Launches) : (s.modLau f).fab = s.fab := rfl
@[simp] theorem State.modLau_cores (s : State) (f : Launches → Launches) : (s.modLau f).cores = s.cores := rfl
@[simp] theorem State.modLau_que (s : State) (f : Launches → Launches) : (s.modLau f).que = s.que := rfl
@[simp] theorem State.modLau_lnk (s : State) (f : Launches → Launches) : (s.modLau f).lnk = s.lnk := rfl
@[simp] theorem State.modLau_th (s : State) (f : Launches → Launches) : (s.modLau f).th = s.th := rfl
@[simp] theorem State.modLau_fw (s : State) (f : Launches → Launches) : (s.modLau f).fw = s.fw := rfl
@[simp] theorem State.modLau_dbg (s : State) (f : Launches → Launches) : (s.modLau f).dbg = s.dbg := rfl
@[simp] theorem State.modLau_sent (s : State) (f : Launches → Launches) : (s.modLau f).sent = s.sent := rfl

/-! ### modCluster -/

@[simp] theorem State.modCluster_agenda (s : State) (cl : Nat) (f : Cluster → Cluster) : (s.modCluster cl f).agenda = s.agenda := rfl
@[simp] theorem State.modCluster_outside (s : State) (cl : Nat) (f : Cluster → Cluster) : (s.modCluster cl f).outside = s.outside := rfl
@[simp] theorem State.modCluster_inp (s : State) (cl : Nat) (f : Cluster → Cluster) : (s.modCluster cl f).inp = s.inp := rfl
@[simp] theorem State.modCluster_free (s : State) (cl : Nat) (f : Cluster → Cluster) : (s.modCluster cl f).free = s.free := rfl
@[simp] theorem State.modCluster_clk (s : State) (cl : Nat) (f : Cluster → Cluster) : (s.modCluster cl f).clk = s.clk := rfl
@[simp] theorem State.modCluster_dev (s : State) (cl : Nat) (f : Cluster → Cluster) : (s.modCluster cl f).dev = s.dev := rfl
@[simp] theorem State.modCluster_fab (s : State) (cl : Nat) (f : Cluster → Cluster) : (s.modCluster cl f).fab = s.fab := rfl
@[simp] theorem State.modCluster_lau (s : State) (cl : Nat) (f : Cluster → Cluster) : (s.modCluster cl f).lau = s.lau := rfl
@[simp] theorem State.modCluster_que (s : State) (cl : Nat) (f : Cluster → Cluster) : (s.modCluster cl f).que = s.que := rfl
@[simp] theorem State.modCluster_lnk (s : State) (cl : Nat) (f : Cluster → Cluster) : (s.modCluster cl f).lnk = s.lnk := rfl
@[simp] theorem State.modCluster_th (s : State) (cl : Nat) (f : Cluster → Cluster) : (s.modCluster cl f).th = s.th := rfl
@[simp] theorem State.modCluster_fw (s : State) (cl : Nat) (f : Cluster → Cluster) : (s.modCluster cl f).fw = s.fw := rfl
@[simp] theorem State.modCluster_dbg (s : State) (cl : Nat) (f : Cluster → Cluster) : (s.modCluster cl f).dbg = s.dbg := rfl
@[simp] theorem State.modCluster_sent (s : State) (cl : Nat) (f : Cluster → Cluster) : (s.modCluster cl f).sent = s.sent := rfl

/-! ### modPower -/

@[simp] theorem State.modPower_agenda (s : State) (cl : Nat) (f : ClusterPower → ClusterPower) : (s.modPower cl f).agenda = s.agenda := rfl
@[simp] theorem State.modPower_outside (s : State) (cl : Nat) (f : ClusterPower → ClusterPower) : (s.modPower cl f).outside = s.outside := rfl
@[simp] theorem State.modPower_inp (s : State) (cl : Nat) (f : ClusterPower → ClusterPower) : (s.modPower cl f).inp = s.inp := rfl
@[simp] theorem State.modPower_free (s : State) (cl : Nat) (f : ClusterPower → ClusterPower) : (s.modPower cl f).free = s.free := rfl
@[simp] theorem State.modPower_clk (s : State) (cl : Nat) (f : ClusterPower → ClusterPower) : (s.modPower cl f).clk = s.clk := rfl
@[simp] theorem State.modPower_dev (s : State) (cl : Nat) (f : ClusterPower → ClusterPower) : (s.modPower cl f).dev = s.dev := rfl
@[simp] theorem State.modPower_fab (s : State) (cl : Nat) (f : ClusterPower → ClusterPower) : (s.modPower cl f).fab = s.fab := rfl
@[simp] theorem State.modPower_cores (s : State) (cl : Nat) (f : ClusterPower → ClusterPower) : (s.modPower cl f).cores = s.cores := rfl
@[simp] theorem State.modPower_lau (s : State) (cl : Nat) (f : ClusterPower → ClusterPower) : (s.modPower cl f).lau = s.lau := rfl
@[simp] theorem State.modPower_que (s : State) (cl : Nat) (f : ClusterPower → ClusterPower) : (s.modPower cl f).que = s.que := rfl
@[simp] theorem State.modPower_lnk (s : State) (cl : Nat) (f : ClusterPower → ClusterPower) : (s.modPower cl f).lnk = s.lnk := rfl
@[simp] theorem State.modPower_fw (s : State) (cl : Nat) (f : ClusterPower → ClusterPower) : (s.modPower cl f).fw = s.fw := rfl
@[simp] theorem State.modPower_dbg (s : State) (cl : Nat) (f : ClusterPower → ClusterPower) : (s.modPower cl f).dbg = s.dbg := rfl
@[simp] theorem State.modPower_sent (s : State) (cl : Nat) (f : ClusterPower → ClusterPower) : (s.modPower cl f).sent = s.sent := rfl

/-! ### modLport -/

@[simp] theorem State.modLport_agenda (s : State) (n : Nat) (f : LPort → LPort) : (s.modLport n f).agenda = s.agenda := rfl
@[simp] theorem State.modLport_outside (s : State) (n : Nat) (f : LPort → LPort) : (s.modLport n f).outside = s.outside := rfl
@[simp] theorem State.modLport_inp (s : State) (n : Nat) (f : LPort → LPort) : (s.modLport n f).inp = s.inp := rfl
@[simp] theorem State.modLport_free (s : State) (n : Nat) (f : LPort → LPort) : (s.modLport n f).free = s.free := rfl
@[simp] theorem State.modLport_clk (s : State) (n : Nat) (f : LPort → LPort) : (s.modLport n f).clk = s.clk := rfl
@[simp] theorem State.modLport_dev (s : State) (n : Nat) (f : LPort → LPort) : (s.modLport n f).dev = s.dev := rfl
@[simp] theorem State.modLport_fab (s : State) (n : Nat) (f : LPort → LPort) : (s.modLport n f).fab = s.fab := rfl
@[simp] theorem State.modLport_cores (s : State) (n : Nat) (f : LPort → LPort) : (s.modLport n f).cores = s.cores := rfl
@[simp] theorem State.modLport_lau (s : State) (n : Nat) (f : LPort → LPort) : (s.modLport n f).lau = s.lau := rfl
@[simp] theorem State.modLport_lnk (s : State) (n : Nat) (f : LPort → LPort) : (s.modLport n f).lnk = s.lnk := rfl
@[simp] theorem State.modLport_th (s : State) (n : Nat) (f : LPort → LPort) : (s.modLport n f).th = s.th := rfl
@[simp] theorem State.modLport_fw (s : State) (n : Nat) (f : LPort → LPort) : (s.modLport n f).fw = s.fw := rfl
@[simp] theorem State.modLport_dbg (s : State) (n : Nat) (f : LPort → LPort) : (s.modLport n f).dbg = s.dbg := rfl
@[simp] theorem State.modLport_sent (s : State) (n : Nat) (f : LPort → LPort) : (s.modLport n f).sent = s.sent := rfl

/-! ### modCplr -/

@[simp] theorem State.modCplr_agenda (s : State) (k : Nat) (f : CplrPort → CplrPort) : (s.modCplr k f).agenda = s.agenda := rfl
@[simp] theorem State.modCplr_outside (s : State) (k : Nat) (f : CplrPort → CplrPort) : (s.modCplr k f).outside = s.outside := rfl
@[simp] theorem State.modCplr_inp (s : State) (k : Nat) (f : CplrPort → CplrPort) : (s.modCplr k f).inp = s.inp := rfl
@[simp] theorem State.modCplr_free (s : State) (k : Nat) (f : CplrPort → CplrPort) : (s.modCplr k f).free = s.free := rfl
@[simp] theorem State.modCplr_clk (s : State) (k : Nat) (f : CplrPort → CplrPort) : (s.modCplr k f).clk = s.clk := rfl
@[simp] theorem State.modCplr_dev (s : State) (k : Nat) (f : CplrPort → CplrPort) : (s.modCplr k f).dev = s.dev := rfl
@[simp] theorem State.modCplr_fab (s : State) (k : Nat) (f : CplrPort → CplrPort) : (s.modCplr k f).fab = s.fab := rfl
@[simp] theorem State.modCplr_cores (s : State) (k : Nat) (f : CplrPort → CplrPort) : (s.modCplr k f).cores = s.cores := rfl
@[simp] theorem State.modCplr_lau (s : State) (k : Nat) (f : CplrPort → CplrPort) : (s.modCplr k f).lau = s.lau := rfl
@[simp] theorem State.modCplr_que (s : State) (k : Nat) (f : CplrPort → CplrPort) : (s.modCplr k f).que = s.que := rfl
@[simp] theorem State.modCplr_th (s : State) (k : Nat) (f : CplrPort → CplrPort) : (s.modCplr k f).th = s.th := rfl
@[simp] theorem State.modCplr_fw (s : State) (k : Nat) (f : CplrPort → CplrPort) : (s.modCplr k f).fw = s.fw := rfl
@[simp] theorem State.modCplr_dbg (s : State) (k : Nat) (f : CplrPort → CplrPort) : (s.modCplr k f).dbg = s.dbg := rfl
@[simp] theorem State.modCplr_sent (s : State) (k : Nat) (f : CplrPort → CplrPort) : (s.modCplr k f).sent = s.sent := rfl

/-! ### post -/

@[simp] theorem State.post_outside (s : State) (i : Instr) (x : Input) : (s.post i x).outside = s.outside := rfl
@[simp] theorem State.post_inp (s : State) (i : Instr) (x : Input) : (s.post i x).inp = s.inp := rfl
@[simp] theorem State.post_free (s : State) (i : Instr) (x : Input) : (s.post i x).free = s.free := rfl
@[simp] theorem State.post_clk (s : State) (i : Instr) (x : Input) : (s.post i x).clk = s.clk := rfl
@[simp] theorem State.post_dev (s : State) (i : Instr) (x : Input) : (s.post i x).dev = s.dev := rfl
@[simp] theorem State.post_fab (s : State) (i : Instr) (x : Input) : (s.post i x).fab = s.fab := rfl
@[simp] theorem State.post_cores (s : State) (i : Instr) (x : Input) : (s.post i x).cores = s.cores := rfl
@[simp] theorem State.post_lau (s : State) (i : Instr) (x : Input) : (s.post i x).lau = s.lau := rfl
@[simp] theorem State.post_que (s : State) (i : Instr) (x : Input) : (s.post i x).que = s.que := rfl
@[simp] theorem State.post_lnk (s : State) (i : Instr) (x : Input) : (s.post i x).lnk = s.lnk := rfl
@[simp] theorem State.post_th (s : State) (i : Instr) (x : Input) : (s.post i x).th = s.th := rfl
@[simp] theorem State.post_fw (s : State) (i : Instr) (x : Input) : (s.post i x).fw = s.fw := rfl
@[simp] theorem State.post_dbg (s : State) (i : Instr) (x : Input) : (s.post i x).dbg = s.dbg := rfl
@[simp] theorem State.post_sent (s : State) (i : Instr) (x : Input) : (s.post i x).sent = s.sent := rfl

/-! ### modWake -/

@[simp] theorem State.modWake_agenda (s : State) (home : Nat) (page : DWord) (f : Wake → Wake) : (s.modWake home page f).agenda = s.agenda := rfl
@[simp] theorem State.modWake_outside (s : State) (home : Nat) (page : DWord) (f : Wake → Wake) : (s.modWake home page f).outside = s.outside := rfl
@[simp] theorem State.modWake_inp (s : State) (home : Nat) (page : DWord) (f : Wake → Wake) : (s.modWake home page f).inp = s.inp := rfl
@[simp] theorem State.modWake_free (s : State) (home : Nat) (page : DWord) (f : Wake → Wake) : (s.modWake home page f).free = s.free := rfl
@[simp] theorem State.modWake_clk (s : State) (home : Nat) (page : DWord) (f : Wake → Wake) : (s.modWake home page f).clk = s.clk := rfl
@[simp] theorem State.modWake_dev (s : State) (home : Nat) (page : DWord) (f : Wake → Wake) : (s.modWake home page f).dev = s.dev := rfl
@[simp] theorem State.modWake_cores (s : State) (home : Nat) (page : DWord) (f : Wake → Wake) : (s.modWake home page f).cores = s.cores := rfl
@[simp] theorem State.modWake_lau (s : State) (home : Nat) (page : DWord) (f : Wake → Wake) : (s.modWake home page f).lau = s.lau := rfl
@[simp] theorem State.modWake_que (s : State) (home : Nat) (page : DWord) (f : Wake → Wake) : (s.modWake home page f).que = s.que := rfl
@[simp] theorem State.modWake_lnk (s : State) (home : Nat) (page : DWord) (f : Wake → Wake) : (s.modWake home page f).lnk = s.lnk := rfl
@[simp] theorem State.modWake_th (s : State) (home : Nat) (page : DWord) (f : Wake → Wake) : (s.modWake home page f).th = s.th := rfl
@[simp] theorem State.modWake_fw (s : State) (home : Nat) (page : DWord) (f : Wake → Wake) : (s.modWake home page f).fw = s.fw := rfl
@[simp] theorem State.modWake_dbg (s : State) (home : Nat) (page : DWord) (f : Wake → Wake) : (s.modWake home page f).dbg = s.dbg := rfl
@[simp] theorem State.modWake_sent (s : State) (home : Nat) (page : DWord) (f : Wake → Wake) : (s.modWake home page f).sent = s.sent := rfl

/-! ### modCtx -/

@[simp] theorem State.modCtx_agenda (s : State) (core : Nat) (key : LaunchId) (f : Ctx → Ctx) : (s.modCtx core key f).agenda = s.agenda := rfl
@[simp] theorem State.modCtx_outside (s : State) (core : Nat) (key : LaunchId) (f : Ctx → Ctx) : (s.modCtx core key f).outside = s.outside := rfl
@[simp] theorem State.modCtx_inp (s : State) (core : Nat) (key : LaunchId) (f : Ctx → Ctx) : (s.modCtx core key f).inp = s.inp := rfl
@[simp] theorem State.modCtx_free (s : State) (core : Nat) (key : LaunchId) (f : Ctx → Ctx) : (s.modCtx core key f).free = s.free := rfl
@[simp] theorem State.modCtx_clk (s : State) (core : Nat) (key : LaunchId) (f : Ctx → Ctx) : (s.modCtx core key f).clk = s.clk := rfl
@[simp] theorem State.modCtx_dev (s : State) (core : Nat) (key : LaunchId) (f : Ctx → Ctx) : (s.modCtx core key f).dev = s.dev := rfl
@[simp] theorem State.modCtx_fab (s : State) (core : Nat) (key : LaunchId) (f : Ctx → Ctx) : (s.modCtx core key f).fab = s.fab := rfl
@[simp] theorem State.modCtx_cores (s : State) (core : Nat) (key : LaunchId) (f : Ctx → Ctx) : (s.modCtx core key f).cores = s.cores := rfl
@[simp] theorem State.modCtx_que (s : State) (core : Nat) (key : LaunchId) (f : Ctx → Ctx) : (s.modCtx core key f).que = s.que := rfl
@[simp] theorem State.modCtx_lnk (s : State) (core : Nat) (key : LaunchId) (f : Ctx → Ctx) : (s.modCtx core key f).lnk = s.lnk := rfl
@[simp] theorem State.modCtx_th (s : State) (core : Nat) (key : LaunchId) (f : Ctx → Ctx) : (s.modCtx core key f).th = s.th := rfl
@[simp] theorem State.modCtx_fw (s : State) (core : Nat) (key : LaunchId) (f : Ctx → Ctx) : (s.modCtx core key f).fw = s.fw := rfl
@[simp] theorem State.modCtx_dbg (s : State) (core : Nat) (key : LaunchId) (f : Ctx → Ctx) : (s.modCtx core key f).dbg = s.dbg := rfl
@[simp] theorem State.modCtx_sent (s : State) (core : Nat) (key : LaunchId) (f : Ctx → Ctx) : (s.modCtx core key f).sent = s.sent := rfl

end Sys2Proof.Machine
end

