-- ==== Sys2Proof/Laws/Group.lean ====
section
/-! SUPPORT. Laws of blocks and groups: a changed group is found changed, every other one as before. -/

namespace Sys2Proof.Machine
open Sys2Proof

theorem find?_map_of_pred {α : Type} (p : α → Bool) (f : α → α) (l : List α) (h : ∀ x, p (f x) = p x) :
    (l.map f).find? p = (l.find? p).map f := by
  induction l with
  | nil => rfl
  | cons x xs ih =>
    simp only [List.map_cons, List.find?_cons, h]
    cases p x <;> simp [ih]

/-- A block found after a change of one block that keeps its name. -/
theorem State.block?_modBlock (s : State) (uid : Nat) (f : Block → Block) (h : ∀ b, (f b).uid = b.uid) (u : Nat) :
    (s.modBlock uid f).block? u = (s.block? u).map fun b => if b.uid == uid then f b else b := by
  unfold State.block? State.modBlock
  rw [find?_map_of_pred]
  intro b
  split <;> simp [h]

theorem State.block?_uid {s : State} {u : Nat} {b : Block} (h : s.block? u = some b) : b.uid = u := by
  have := List.find?_some h
  simpa using this

theorem blockGroup?_gid {b : Block} {gid : Nat} {g : Group} (h : blockGroup? b gid = some g) : g.gid = gid := by
  have := List.find?_some h
  simpa using this

@[simp] theorem blockModGroup_uid (b : Block) (gid : Nat) (f : Group → Group) : (blockModGroup b gid f).uid = b.uid := rfl

theorem blockGroup?_modGroup (b : Block) (gid : Nat) (f : Group → Group) (h : ∀ g, (f g).gid = g.gid) (i : Nat) :
    blockGroup? (blockModGroup b gid f) i = (blockGroup? b i).map fun g => if g.gid == gid then f g else g := by
  unfold blockGroup? blockModGroup
  rw [find?_map_of_pred]
  intro g
  split <;> simp [h]

/-- The group found after a change of one group that keeps its name. -/
theorem State.group?_modGroup (s : State) (uid gid : Nat) (f : Group → Group) (h : ∀ g, (f g).gid = g.gid) (u i : Nat) :
    (s.modGroup uid gid f).group? u i = (s.group? u i).map fun g => if u = uid ∧ i = gid then f g else g := by
  unfold State.group? State.modGroup
  rw [State.block?_modBlock s uid _ (fun b => blockModGroup_uid b gid f) u]
  cases hb : s.block? u with
  | none => rfl
  | some b =>
    have hu := State.block?_uid hb
    simp only [Option.map_some]
    by_cases hx : b.uid == uid
    · simp only [hx, if_true]
      rw [blockGroup?_modGroup b gid f h]
      have : u = uid := by simpa [hu] using hx
      cases hg : blockGroup? b i with
      | none => rfl
      | some g => have hgi := blockGroup?_gid hg; simp [this, hgi]
    · have : ¬ u = uid := by simpa [hu] using hx
      simp only [hx, this, false_and, if_false]
      simp only [Bool.false_eq_true, if_false]
      cases blockGroup? b i <;> simp

/-- The changed group itself. -/
theorem State.group?_modGroup_same (s : State) (uid gid : Nat) (f : Group → Group) (h : ∀ g, (f g).gid = g.gid) :
    (s.modGroup uid gid f).group? uid gid = (s.group? uid gid).map f := by
  rw [State.group?_modGroup s uid gid f h]; simp

/-- Groups and blocks are found by the cores' state alone. -/
theorem State.block?_congr {s t : State} (h : t.cores.blocks = s.cores.blocks) (u : Nat) : t.block? u = s.block? u := by
  unfold State.block?; rw [h]

theorem State.group?_congr {s t : State} (h : t.cores.blocks = s.cores.blocks) (u i : Nat) : t.group? u i = s.group? u i := by
  unfold State.group?; rw [State.block?_congr h]

theorem State.groupRegs_congr {s t : State} (h : t.cores.blocks = s.cores.blocks) (u i : Nat) :
    t.groupRegs u i = s.groupRegs u i := by
  unfold State.groupRegs; rw [State.group?_congr h]

/-- A change of a group that keeps its name and its registers keeps every group's registers. -/
theorem State.groupRegs_modGroup_keep (s : State) (uid gid : Nat) (f : Group → Group)
    (h : ∀ g, (f g).gid = g.gid ∧ (f g).r = g.r) (u i : Nat) : (s.modGroup uid gid f).groupRegs u i = s.groupRegs u i := by
  unfold State.groupRegs
  rw [State.group?_modGroup s uid gid f (fun g => (h g).1)]
  cases s.group? u i with
  | none => rfl
  | some g => simp only [Option.map_some]; split <;> simp [h]

/-- The registers after a change of one group that keeps its name. -/
theorem State.groupRegs_modGroup (s : State) (uid gid : Nat) (f : Group → Group) (h : ∀ g, (f g).gid = g.gid) (u i : Nat) :
    (s.modGroup uid gid f).groupRegs u i =
      (s.group? u i).map fun g => (if u = uid ∧ i = gid then f g else g).r := by
  unfold State.groupRegs
  rw [State.group?_modGroup s uid gid f h, Option.map_map]; rfl

/-- The issuing group is the one its view names. -/
theorem State.current_spec {s : State} {c : Cur} (h : s.current = some c) :
    s.block? c.run.blk = some c.blk ∧ s.group? c.run.blk c.run.gid = some c.grp
      ∧ groupSlot c.grp c.run.slotB = some c.path := by
  unfold State.current at h
  split at h
  · cases h
  · split at h
    · cases h
    · split at h
      · cases h
      · split at h
        · cases h
        · split at h
          · cases h
          · cases h
            refine ⟨‹_›, ?_, ‹_›⟩
            simp only [State.group?, *]

end Sys2Proof.Machine
end

