-- ==== Sys2Proof/Laws/Regs.lean ====
section
/-! SUPPORT. Laws of the device registers: a register and a field read as they were last written, and a write leaves
every other register and every field apart from it alone. -/

namespace Sys2Proof.Machine
open Sys2Proof

/-- Different registers of one name, and registers of different names, have different keys. -/
theorem regKey_ne {r r' : RegName} {i j : Nat} (h : regCode r ≠ regCode r' ∨ i % 65536 ≠ j % 65536) :
    regKey r i ≠ regKey r' j := by
  unfold regKey
  have h1 : i % 65536 < 65536 := Nat.mod_lt _ (by decide)
  have h2 : j % 65536 < 65536 := Nat.mod_lt _ (by decide)
  omega

@[simp] theorem State.reg_setReg_same (s : State) (r : RegName) (i : Nat) (v : DWord) : (s.setReg r i v).reg r i = v := by
  simp [State.reg, State.setReg, BitVec.xor_assoc]

theorem State.reg_setReg_ne (s : State) {r r' : RegName} {i j : Nat} (h : regKey r' j ≠ regKey r i) (v : DWord) :
    (s.setReg r i v).reg r' j = s.reg r' j := by
  simp [State.reg, State.setReg, FMap.get_set_ne _ _ h]

/-! ### Fields -/

/-- A number with its w bits from lo replaced. -/
def putBits (old lo w x : Nat) : Nat := old - old / 2 ^ lo % 2 ^ w * 2 ^ lo + x % 2 ^ w * 2 ^ lo

theorem split_bits (old lo w : Nat) :
    old = old % 2 ^ lo + 2 ^ lo * (old / 2 ^ lo % 2 ^ w + 2 ^ w * (old / 2 ^ (lo + w))) := by
  have h1 := Nat.mod_add_div old (2 ^ lo)
  have h2 := Nat.mod_add_div (old / 2 ^ lo) (2 ^ w)
  rw [Nat.div_div_eq_div_mul, ← Nat.pow_add] at h2
  rw [h2]
  omega

theorem putBits_eq (old lo w x : Nat) :
    putBits old lo w x = old % 2 ^ lo + 2 ^ lo * (x % 2 ^ w + 2 ^ w * (old / 2 ^ (lo + w))) := by
  unfold putBits
  have h := split_bits old lo w
  generalize old % 2 ^ lo = a at h ⊢
  generalize old / 2 ^ (lo + w) = c at h ⊢
  generalize old / 2 ^ lo % 2 ^ w = b at h ⊢
  generalize x % 2 ^ w = y
  rw [Nat.mul_add] at h ⊢
  rw [Nat.mul_comm b, Nat.mul_comm y]
  omega

theorem putBits_lt (old lo w x n : Nat) (h : old < 2 ^ n) (hn : lo + w ≤ n) : putBits old lo w x < 2 ^ n := by
  have h1 : old % 2 ^ lo < 2 ^ lo := Nat.mod_lt _ (Nat.two_pow_pos _)
  have h2 : x % 2 ^ w < 2 ^ w := Nat.mod_lt _ (Nat.two_pow_pos _)
  have h3 : old / 2 ^ (lo + w) < 2 ^ (n - (lo + w)) := by
    rw [Nat.div_lt_iff_lt_mul (Nat.two_pow_pos _), ← Nat.pow_add]
    rwa [show n - (lo + w) + (lo + w) = n by omega]
  rw [putBits_eq]
  have h4 : x % 2 ^ w + 2 ^ w * (old / 2 ^ (lo + w)) < 2 ^ w * 2 ^ (n - (lo + w)) := by
    calc x % 2 ^ w + 2 ^ w * (old / 2 ^ (lo + w)) < 2 ^ w + 2 ^ w * (old / 2 ^ (lo + w)) := by omega
      _ = 2 ^ w * (old / 2 ^ (lo + w) + 1) := by rw [Nat.mul_add, Nat.mul_one, Nat.add_comm]
      _ ≤ 2 ^ w * 2 ^ (n - (lo + w)) := Nat.mul_le_mul_left _ h3
  calc old % 2 ^ lo + 2 ^ lo * (x % 2 ^ w + 2 ^ w * (old / 2 ^ (lo + w)))
      < 2 ^ lo + 2 ^ lo * (x % 2 ^ w + 2 ^ w * (old / 2 ^ (lo + w))) := by omega
    _ = 2 ^ lo * (x % 2 ^ w + 2 ^ w * (old / 2 ^ (lo + w)) + 1) := by rw [Nat.mul_add (2 ^ lo) _ 1, Nat.mul_one, Nat.add_comm]
    _ ≤ 2 ^ lo * (2 ^ w * 2 ^ (n - (lo + w))) := Nat.mul_le_mul_left _ h4
    _ = 2 ^ n := by rw [← Nat.pow_add, ← Nat.pow_add]; congr 1; omega

/-- The replaced bits read as written. -/
theorem putBits_same (old lo w x : Nat) : putBits old lo w x / 2 ^ lo % 2 ^ w = x % 2 ^ w := by
  rw [putBits_eq, Nat.add_mul_div_left _ _ (Nat.two_pow_pos _), Nat.div_eq_of_lt (Nat.mod_lt _ (Nat.two_pow_pos _)),
    Nat.zero_add, Nat.add_mul_mod_self_left, Nat.mod_mod]

theorem mod_div_mod (n lo lo' w' : Nat) (h : lo' + w' ≤ lo) : n % 2 ^ lo / 2 ^ lo' % 2 ^ w' = n / 2 ^ lo' % 2 ^ w' := by
  have e : 2 ^ lo = 2 ^ lo' * 2 ^ (lo - lo') := by rw [← Nat.pow_add]; congr 1; omega
  rw [e, Nat.mod_mul_right_div_self, Nat.mod_mod_of_dvd]
  exact Nat.pow_dvd_pow 2 (by omega)

/-- Bits below or above the replaced ones read as before. -/
theorem putBits_apart (old lo w x lo' w' : Nat) (h : lo' + w' ≤ lo ∨ lo + w ≤ lo') :
    putBits old lo w x / 2 ^ lo' % 2 ^ w' = old / 2 ^ lo' % 2 ^ w' := by
  rcases h with h | h
  · rw [← mod_div_mod (putBits old lo w x) lo lo' w' h, ← mod_div_mod old lo lo' w' h, putBits_eq,
      Nat.add_mul_mod_self_left, Nat.mod_mod]
  · have e : 2 ^ lo' = 2 ^ lo * (2 ^ w * 2 ^ (lo' - lo - w)) := by
      rw [← Nat.pow_add, ← Nat.pow_add]; congr 1; omega
    have hx : putBits old lo w x / 2 ^ lo / 2 ^ w = old / 2 ^ lo / 2 ^ w := by
      rw [putBits_eq, Nat.add_mul_div_left _ _ (Nat.two_pow_pos _), Nat.div_eq_of_lt (Nat.mod_lt _ (Nat.two_pow_pos _)),
        Nat.zero_add, Nat.add_mul_div_left _ _ (Nat.two_pow_pos _), Nat.div_eq_of_lt (Nat.mod_lt _ (Nat.two_pow_pos _)),
        Nat.zero_add, Nat.pow_add, Nat.div_div_eq_div_mul]
    rw [e, ← Nat.div_div_eq_div_mul, ← Nat.div_div_eq_div_mul, hx, Nat.div_div_eq_div_mul, Nat.div_div_eq_div_mul]

theorem State.reg_setField_same (s : State) (r : RegName) (i lo w x : Nat) (h : lo + w ≤ 64) :
    ((s.setField r i lo w x).reg r i).toNat = putBits (s.reg r i).toNat lo w x := by
  have hlt := putBits_lt (s.reg r i).toNat lo w x 64 (s.reg r i).isLt h
  unfold State.setField
  rw [State.reg_setReg_same, BitVec.toNat_ofNat]
  exact Nat.mod_eq_of_lt hlt

/-- A field reads as it was written, cut to its width. -/
theorem State.field_setField_same (s : State) (r : RegName) (i lo w x : Nat) (h : lo + w ≤ 64) :
    (s.setField r i lo w x).field r i lo w = x % 2 ^ w := by
  unfold State.field
  rw [State.reg_setField_same s r i lo w x h, putBits_same]

/-- The other fields of the register read as before. -/
theorem State.field_setField_apart (s : State) (r : RegName) (i lo w x lo' w' : Nat) (h : lo + w ≤ 64)
    (ha : lo' + w' ≤ lo ∨ lo + w ≤ lo') : (s.setField r i lo w x).field r i lo' w' = s.field r i lo' w' := by
  unfold State.field
  rw [State.reg_setField_same s r i lo w x h, putBits_apart _ _ _ _ _ _ ha]

/-- Every other register reads as before. -/
theorem State.reg_setField_ne (s : State) {r r' : RegName} {i j : Nat} (h : regKey r' j ≠ regKey r i) (lo w x : Nat) :
    (s.setField r i lo w x).reg r' j = s.reg r' j := State.reg_setReg_ne s h _

theorem State.field_setReg_same (s : State) (r : RegName) (i lo w : Nat) (v : DWord) :
    (s.setReg r i v).field r i lo w = v.toNat / 2 ^ lo % 2 ^ w := by
  simp [State.field]

theorem State.field_setReg_ne (s : State) {r r' : RegName} {i j : Nat} (h : regKey r' j ≠ regKey r i) (lo w : Nat) (v : DWord) :
    (s.setReg r i v).field r' j lo w = s.field r' j lo w := by
  simp [State.field, State.reg_setReg_ne s h]

theorem State.field_setField_ne (s : State) {r r' : RegName} {i j : Nat} (h : regKey r' j ≠ regKey r i) (lo w x lo' w' : Nat) :
    (s.setField r i lo w x).field r' j lo' w' = s.field r' j lo' w' := State.field_setReg_ne s h _ _ _

end Sys2Proof.Machine
end

