-- ==== Sys2Proof/Laws/Finish.lean ====
section
/-! SUPPORT. What finishing an instruction can do (R160 to R169): it moves the path, ends the turn and takes errors; no
register of any group changes, nothing outside cores and debug unit changes, and in memory only frames of the issuing
path's stack are written, while no trace is on. -/

namespace Sys2Proof.Machine
open Sys2Proof

/-! ### The relation -/

/-- Memory reads the same outside keys lo to hi − 1. -/
def MemOut (lo hi : Nat) (s t : State) : Prop := ∀ k, (k < lo ∨ hi ≤ k) → t.fab.mem.byte k = s.fab.mem.byte k

/-- What a block keeps for as long as it is resident: where its stack stands. -/
def blockPlace (b : Block) : Nat × Nat × Nat × Nat := (b.core, b.ext, b.scr, b.divs)

/-- What finishing keeps. -/
structure Keeps (lo hi : Nat) (s t : State) : Prop where
  rest   : SameRest s t
  dev    : s.traceOff → t.dev = s.dev
  regs   : ∀ u i, t.groupRegs u i = s.groupRegs u i
  places : ∀ u, (t.block? u).map blockPlace = (s.block? u).map blockPlace
  mem    : s.traceOff → MemOut lo hi s t

theorem SameRest.refl (s : State) : SameRest s s := ⟨rfl, rfl, rfl, rfl, rfl, rfl, rfl, rfl, rfl, rfl, rfl, rfl⟩

theorem SameRest.trans {s t u : State} (h : SameRest s t) (h' : SameRest t u) : SameRest s u :=
  ⟨h'.agenda.trans h.agenda, h'.outside.trans h.outside, h'.frozen.trans h.frozen, h'.inp.trans h.inp, h'.free.trans h.free, h'.clk.trans h.clk,
    h'.lau.trans h.lau, h'.que.trans h.que, h'.lnk.trans h.lnk, h'.th.trans h.th, h'.fw.trans h.fw, h'.sent.trans h.sent⟩

variable {lo hi : Nat}

theorem State.traceOff_congr {s t : State} (h : t.dev = s.dev) (hs : s.traceOff) : t.traceOff := by
  unfold State.traceOff State.reg at *; rw [h]; exact hs

theorem Keeps.refl (s : State) : Keeps lo hi s s := ⟨.refl s, fun _ => rfl, fun _ _ => rfl, fun _ => rfl, fun _ _ _ => rfl⟩

theorem Keeps.traceOff {s t : State} (h : Keeps lo hi s t) (ht : s.traceOff) : t.traceOff := State.traceOff_congr (h.dev ht) ht

theorem Keeps.trans {s t u : State} (h : Keeps lo hi s t) (h' : Keeps lo hi t u) : Keeps lo hi s u :=
  ⟨h.rest.trans h'.rest, fun ht => (h'.dev (h.traceOff ht)).trans (h.dev ht), fun a b => (h'.regs a b).trans (h.regs a b),
    fun a => (h'.places a).trans (h.places a), fun ht k hk => (h'.mem (h.traceOff ht) k hk).trans (h.mem ht k hk)⟩

/-- A change of the cores' state that keeps every block. -/
theorem Keeps.of_cores {s t : State} (h1 : SameRest s t) (h2 : t.dev = s.dev) (h3 : t.cores.blocks = s.cores.blocks)
    (h4 : t.fab.mem = s.fab.mem) : Keeps lo hi s t :=
  ⟨h1, fun _ => h2, fun u i => State.groupRegs_congr h3 u i, fun u => by rw [State.block?_congr h3], fun _ k _ => by rw [h4]⟩

theorem Keeps.modBlock (s : State) (uid : Nat) (f : Block → Block)
    (h : ∀ b, (f b).uid = b.uid ∧ blockPlace (f b) = blockPlace b
      ∧ ∀ i, (blockGroup? (f b) i).map (fun g => g.r) = (blockGroup? b i).map fun g => g.r) :
    Keeps lo hi s (s.modBlock uid f) := by
  refine ⟨⟨rfl, rfl, rfl, rfl, rfl, rfl, rfl, rfl, rfl, rfl, rfl, rfl⟩, fun _ => rfl, fun u i => ?_, fun u => ?_, fun _ _ _ => rfl⟩
  · unfold State.groupRegs State.group?
    rw [State.block?_modBlock s uid f (fun b => (h b).1)]
    cases s.block? u with
    | none => rfl
    | some b =>
      simp only [Option.map_some]
      split
      · exact (h b).2.2 i
      · rfl
  · rw [State.block?_modBlock s uid f (fun b => (h b).1)]
    cases s.block? u with
    | none => rfl
    | some b => simp only [Option.map_some]; split <;> simp [h]

theorem Keeps.modGroup (s : State) (uid gid : Nat) (f : Group → Group) (h : ∀ g, (f g).gid = g.gid ∧ (f g).r = g.r) :
    Keeps lo hi s (s.modGroup uid gid f) := by
  refine Keeps.modBlock s uid _ fun b => ⟨rfl, rfl, fun i => ?_⟩
  rw [blockGroup?_modGroup b gid f (fun g => (h g).1)]
  cases blockGroup? b i with
  | none => rfl
  | some g => simp only [Option.map_some]; split <;> simp [h]

theorem groupSetSlot_keep (g : Group) (sb : Bool) (p : Option Path) :
    (groupSetSlot g sb p).gid = g.gid ∧ (groupSetSlot g sb p).r = g.r := by
  unfold groupSetSlot; split <;> exact ⟨rfl, rfl⟩

theorem noteJoin_keep (d : Nat) (p : Path) (arrive : Bool) (g : Group) :
    (noteJoin d p arrive g).gid = g.gid ∧ (noteJoin d p arrive g).r = g.r := by
  unfold noteJoin; split <;> exact ⟨rfl, rfl⟩

theorem Keeps.modPath (s : State) (c : Cur) (f : Path → Path) : Keeps lo hi s (s.modPath c f) :=
  Keeps.modGroup s _ _ _ fun g => groupSetSlot_keep g _ _

theorem Keeps.endTurn (s : State) (core part : Nat) : Keeps lo hi s (s.endTurn core part) :=
  Keeps.of_cores ⟨rfl, rfl, rfl, rfl, rfl, rfl, rfl, rfl, rfl, rfl, rfl, rfl⟩ rfl rfl rfl

theorem Keeps.countCore (s : State) (src core : Nat) : Keeps lo hi s (s.countCore src core) :=
  Keeps.of_cores ⟨rfl, rfl, rfl, rfl, rfl, rfl, rfl, rfl, rfl, rfl, rfl, rfl⟩ rfl rfl rfl

theorem State.trace_off {s : State} (h : s.traceOff) (kind core lcore gid : Nat) (pc : DWord) (tile : Nat) :
    s.trace kind core lcore gid pc tile = s := by
  unfold State.trace
  unfold State.traceOff at h
  rw [h]
  simp

/-- What caching a leaf leaves alone. -/
theorem State.cacheLeaf_keeps (s : State) (t : TlbEntry) : SameRest s (s.cacheLeaf t) ∧ (s.cacheLeaf t).cores = s.cores := by
  unfold State.cacheLeaf; split <;> exact ⟨⟨rfl, rfl, rfl, rfl, rfl, rfl, rfl, rfl, rfl, rfl, rfl, rfl⟩, rfl⟩

/-- What gathering bits leaves alone. -/
theorem State.gather_keeps (s : State) (t : TlbEntry) (b : BitVec 8) : SameRest s (s.gather t b) ∧ (s.gather t b).cores = s.cores := by
  unfold State.gather; dsimp only; split <;> exact ⟨⟨rfl, rfl, rfl, rfl, rfl, rfl, rfl, rfl, rfl, rfl, rfl, rfl⟩, rfl⟩

/-- What writing trace records leaves alone. -/
theorem State.traceOut_keeps (rs : List (Nat × List Byte)) :
    ∀ s : State, SameRest s (s.traceOut rs) ∧ (s.traceOut rs).cores = s.cores := by
  induction rs with
  | nil => intro s; exact ⟨⟨rfl, rfl, rfl, rfl, rfl, rfl, rfl, rfl, rfl, rfl, rfl, rfl⟩, rfl⟩
  | cons r rs ih =>
    intro s
    unfold State.traceOut
    dsimp only
    split
    · split
      · generalize hu : State.gather _ _ _ = u
        have h : SameRest s u ∧ u.cores = s.cores := by
          rw [← hu]
          exact ⟨(s.cacheLeaf_keeps _).1.trans (State.gather_keeps _ _ _).1,
            (State.gather_keeps _ _ _).2.trans (s.cacheLeaf_keeps _).2⟩
        refine ⟨(h.1.trans ?_).trans (ih _).1, (ih _).2.trans h.2⟩
        exact ⟨rfl, rfl, rfl, rfl, rfl, rfl, rfl, rfl, rfl, rfl, rfl, rfl⟩
      · exact ⟨⟨rfl, rfl, rfl, rfl, rfl, rfl, rfl, rfl, rfl, rfl, rfl, rfl⟩, rfl⟩
    · exact ⟨⟨rfl, rfl, rfl, rfl, rfl, rfl, rfl, rfl, rfl, rfl, rfl, rfl⟩, rfl⟩

theorem Keeps.trace (s : State) (kind core lcore gid : Nat) (pc : DWord) (tile : Nat) :
    Keeps lo hi s (s.trace kind core lcore gid pc tile) := by
  refine ⟨?_, fun ht => by rw [State.trace_off ht], ?_, ?_, fun ht => by rw [State.trace_off ht]; exact fun _ _ => rfl⟩
  · unfold State.trace; split
    · exact (State.traceOut_keeps _ s).1
    · exact .refl s
  · intro u i; apply State.groupRegs_congr; unfold State.trace; split
    · rw [(State.traceOut_keeps _ s).2]
    · rfl
  · intro u; congr 1; apply State.block?_congr; unfold State.trace; split
    · rw [(State.traceOut_keeps _ s).2]
    · rfl

/-! ### Faults taken at a seam -/

theorem Keeps.foldl {α : Type} (f : State → α → State) (h : ∀ s a, Keeps lo hi s (f s a)) (l : List α) :
    ∀ s, Keeps lo hi s (l.foldl f s) := by
  induction l with
  | nil => exact fun s => .refl s
  | cons a l ih => exact fun s => (h s a).trans (ih _)

/-- A change of the requests and their numbers keeps everything else. -/
theorem Keeps.of_reqs {s t : State} (h1 : SameRest s t) (h2 : t.dev = s.dev) (h3 : t.cores = s.cores) (h4 : t.fab.mem = s.fab.mem) :
    Keeps lo hi s t := .of_cores h1 h2 (by rw [h3]) h4

/-- Sending depot lines changes requests and a count (R222). -/
theorem Keeps.sendDepot (s : State) (p : Req → Bool) : Keeps lo hi s (s.sendDepot p) := by
  unfold State.sendDepot
  refine Keeps.foldl _ (fun s e => ?_) _ s
  dsimp only
  refine Keeps.trans (t := s.fresh.1) (.of_reqs ⟨rfl, rfl, rfl, rfl, rfl, rfl, rfl, rfl, rfl, rfl, rfl, rfl⟩ rfl rfl rfl) ?_
  refine Keeps.trans (Keeps.foldl _ (fun s r => ?_) _ _) (.countCore _ _ _)
  exact .of_reqs ⟨rfl, rfl, rfl, rfl, rfl, rfl, rfl, rfl, rfl, rfl, rfl, rfl⟩ rfl rfl rfl

theorem Keeps.sendDepotOf (s : State) (uid gid : Nat) : Keeps lo hi s (s.sendDepotOf uid gid) := .sendDepot _ _

/-- The parked groups of a block that stops send their depot lines: requests and a count change (R189, R222). -/
theorem Keeps.sendParked (s : State) (b : Block) : Keeps lo hi s (s.sendParked b) :=
  Keeps.foldl _ (fun s g => by
    split
    · exact .sendDepotOf s _ _
    · exact .refl s) _ s

theorem Keeps.makeRecord (s : State) (uid gid : Nat) : Keeps lo hi s (s.makeRecord uid gid) := by
  unfold State.makeRecord
  split
  · exact .refl s
  · split
    · exact .refl s
    · split
      · split
        · exact .refl s
        · refine Keeps.trans (Keeps.trans ?_ (Keeps.trace _ _ _ _ _ _ _)) (Keeps.sendParked _ _)
          have h : ∀ (r : FaultRecord) (st : Block → Option Stop), Keeps lo hi s (s.modBlock uid fun b =>
              { blockModGroup b gid (fun g => { g with recorded := true }) with records := b.records ++ [r], stop := st b }) :=
            fun r st => Keeps.modBlock s uid _ fun b => ⟨rfl, rfl, fun i => by
              have := blockGroup?_modGroup b gid (fun g => { g with recorded := true }) (fun _ => rfl) i
              simp only [blockGroup?] at this ⊢
              simp only [blockModGroup] at this ⊢
              rw [this]
              cases List.find? (fun g => g.gid == i) b.groups with
              | none => rfl
              | some g => simp only [Option.map_some]; split <;> rfl⟩
          split
          · exact (h _ _).trans (.countCore _ _ _)
          · exact h _ _
      · exact .refl s

theorem Keeps.deliver (s : State) (uid gid : Nat) : Keeps lo hi s (s.deliver uid gid) := by
  have h : Keeps lo hi s (s.modGroup uid gid fun g => if g.cands.isEmpty then g else { g with dead := true }) :=
    Keeps.modGroup s uid gid _ fun g => by split <;> exact ⟨rfl, rfl⟩
  exact (h.trans (.sendDepotOf _ _ _)).trans (.makeRecord _ _ _)

theorem Keeps.settle (s : State) (uid gid : Nat) : Keeps lo hi s (s.settle uid gid) := by
  unfold State.settle
  split
  · exact .refl s
  · split
    · exact .makeRecord s uid gid
    · split
      · exact .refl s
      · dsimp only
        repeat' split
        all_goals first
          | exact .refl s
          | exact .deliver s uid gid
          | exact Keeps.modGroup s uid gid _ fun g => ⟨rfl, rfl⟩

/-- Raising a precise fault changes no register, no memory and nothing outside the cores (R183). -/
theorem Keeps.raise (c : Cur) (f : FaultInfo) (s : State) : Keeps lo hi s (raise c f s) := by
  have h : Keeps lo hi s ((s.modCur c fun g => { g with dead := true, cands := g.cands ++ [candOf s c f 0], park := none }).endTurn
      c.run.core c.run.part) :=
    Keeps.trans (Keeps.modGroup s _ _ (fun g => { g with dead := true, cands := g.cands ++ [candOf s c f 0], park := none })
      fun g => ⟨rfl, rfl⟩) (.endTurn _ _ _)
  exact (h.trans (.sendDepotOf _ _ _)).trans (.makeRecord _ _ _)

/-! ### Frames -/

theorem frameKey_eq (b : Block) (gid f : Nat) : frameKey b gid f = frameKey b gid 1 + 32 * (f - 1) := by
  unfold frameKey spaceKey; omega

/-- Frame d stands among the keys lo to hi − 1. -/
def FrameIn (lo hi : Nat) (b : Block) (gid d : Nat) : Prop := lo ≤ frameKey b gid d ∧ frameKey b gid d + 32 ≤ hi

theorem frameKey_place {b b' : Block} (h : blockPlace b = blockPlace b') (gid f : Nat) : frameKey b gid f = frameKey b' gid f := by
  unfold blockPlace at h
  simp only [Prod.mk.injEq] at h
  unfold frameKey; rw [h.1, h.2.1, h.2.2.1, h.2.2.2]

theorem FrameIn.place {b b' : Block} {gid d : Nat} (h : blockPlace b = blockPlace b') (hd : FrameIn lo hi b gid d) :
    FrameIn lo hi b' gid d := by
  unfold FrameIn at *; rw [← frameKey_place h]; exact hd

theorem Keeps.setFrame (s : State) (b : Block) (gid f off n x : Nat) (hf : FrameIn lo hi b gid f) (ho : off + n ≤ 32) :
    Keeps lo hi s (s.setFrame b gid f off n x) := by
  refine ⟨⟨rfl, rfl, rfl, rfl, rfl, rfl, rfl, rfl, rfl, rfl, rfl, rfl⟩, fun _ => rfl, fun _ _ => rfl, fun _ => rfl, fun _ k hk => ?_⟩
  obtain ⟨h1, h2⟩ := hf
  exact Memory.byte_setNum_out _ _ _ _ _ (by omega)

/-- The block found later stands where the block found earlier stood. -/
theorem Keeps.found {s t : State} (h : Keeps lo hi s t) {u : Nat} {b b' : Block} (hb : s.block? u = some b)
    (hb' : t.block? u = some b') : blockPlace b' = blockPlace b := by
  have := h.places u
  rw [hb, hb'] at this
  simpa using this

theorem Keeps.loadSpill (s : State) (uid gid d : Nat) (last : Path)
    (hf : ∀ b, s.block? uid = some b → d ≠ 0 → FrameIn lo hi b gid d) : Keeps lo hi s (s.loadSpill uid gid d last) := by
  unfold State.loadSpill
  split
  · exact .refl s
  · rename_i b hb
    split
    · exact .refl s
    · split
      · exact .refl s
      · rename_i hd
        have h : ∀ q : Path, Keeps lo hi s (s.modGroup uid gid fun g =>
            if g.pb.isNone then { g with pb := some q } else { g with pa := some q }) := fun q =>
          Keeps.modGroup s uid gid _ fun g => by split <;> exact ⟨rfl, rfl⟩
        exact (h _).trans (Keeps.setFrame _ _ _ _ _ _ _ (hf b hb (by omega)) (by omega))

theorem Keeps.checkExit (s : State) (uid gid : Nat) : Keeps lo hi s (s.checkExit uid gid) :=
  Keeps.modGroup s uid gid _ fun g => by split <;> exact ⟨rfl, rfl⟩

/-- Frames 1 to d of a group stand among the keys. -/
def StackIn (lo hi : Nat) (b : Block) (gid d : Nat) : Prop := ∀ f, 1 ≤ f → f ≤ d → FrameIn lo hi b gid f

theorem StackIn.mono {b : Block} {gid d d' : Nat} (h : StackIn lo hi b gid d) (hd : d' ≤ d) : StackIn lo hi b gid d' :=
  fun f h1 h2 => h f h1 (by omega)

theorem StackIn.place {b b' : Block} {gid d : Nat} (h : blockPlace b = blockPlace b') (hd : StackIn lo hi b gid d) :
    StackIn lo hi b' gid d := fun f h1 h2 => (hd f h1 h2).place h

theorem stackIn_self (b : Block) (gid d : Nat) :
    StackIn (frameKey b gid 1) (frameKey b gid 1 + 32 * d) b gid d := by
  intro f h1 h2
  unfold FrameIn
  rw [frameKey_eq b gid f]
  omega

theorem mergedPath_depth (s : State) (b : Block) (gid d : Nat) (last : Path) : (mergedPath s b gid d last).depth ≤ d := by
  unfold mergedPath; dsimp only; split <;> simp only [] <;> omega

theorem frameBelow_le (p : Nat → Bool) (d : Nat) : frameBelow p d ≤ d := by
  induction d with
  | zero => exact Nat.le_refl _
  | succ d ih => unfold frameBelow; split <;> omega

theorem nearestFork_le (s : State) (b : Block) (gid d : Nat) : nearestFork s b gid d ≤ d := frameBelow_le _ _

theorem Keeps.leaveFork (uid gid : Nat) (fuel : Nat) : ∀ (s : State) (sb : Bool) (p : Path) (d : Nat) (arrive : Bool),
    d ≠ 0 → (∀ b, s.block? uid = some b → StackIn lo hi b gid d) →
    Keeps lo hi s (s.leaveFork uid gid sb p d arrive fuel) := by
  induction fuel with
  | zero => intro s sb p d arrive _ _; exact .refl s
  | succ fuel ih =>
    intro s sb p d arrive hd0 hin
    unfold State.leaveFork
    split
    · exact .refl s
    · rename_i b hb
      have hs := hin b hb
      have hd := hs d (by omega) (Nat.le_refl d)
      have k1 : ∀ x y, Keeps lo hi s ((s.setFrame b gid d 16 4 x).setFrame b gid d 24 1 y) := fun x y =>
        (Keeps.setFrame s b gid d 16 4 x hd (by omega)).trans (Keeps.setFrame _ b gid d 24 1 y hd (by omega))
      have k2 : ∀ x y, Keeps lo hi s (((s.setFrame b gid d 16 4 x).setFrame b gid d 24 1 y).modGroup uid gid
          fun g => noteJoin d p arrive (groupSetSlot g sb none)) := fun x y => (k1 x y).trans (Keeps.modGroup _ _ _ _ fun g => by
            rw [(noteJoin_keep d p arrive _).1, (noteJoin_keep d p arrive _).2]; exact groupSetSlot_keep g _ _)
      have later : ∀ {t : State} {d' : Nat}, Keeps lo hi s t → d' ≤ d → ∀ b', t.block? uid = some b' → StackIn lo hi b' gid d' :=
        fun hk hle b' hb' => (hs.mono hle).place (hk.found hb hb').symm
      dsimp only
      generalize (if arrive = true then _ else _ : Nat) = acc
      generalize frameNum s b gid d 24 1 - 1 = cnt
      split
      · exact (k2 acc cnt).trans (Keeps.loadSpill _ _ _ _ _ fun b' hb' h0 =>
          later (k2 acc cnt) (Nat.le_refl d) b' hb' d (by omega) (Nat.le_refl d))
      · generalize hq : mergedPath _ b gid d _ = q
        have hqd : q.depth ≤ d := by rw [← hq]; exact mergedPath_depth _ _ _ _ _
        have k3 := (k2 acc cnt).trans (Keeps.modGroup _ uid gid (fun g => dropJoin d { g with pa := some q, pb := none }) fun g => ⟨rfl, rfl⟩)
        have k4 := k3.trans (Keeps.loadSpill _ uid gid q.depth q fun b' hb' h0 =>
          later k3 hqd b' hb' q.depth (by omega) (Nat.le_refl _))
        split
        · split
          · exact (k4.trans (Keeps.modGroup _ uid gid (fun g => { g with pa := none }) fun g => ⟨rfl, rfl⟩)).trans (Keeps.checkExit _ _ _)
          · refine k4.trans (ih _ _ _ _ _ ‹_› fun b' hb' => later k4 (Nat.le_trans (nearestFork_le _ _ _ _) hqd) b' hb')
        · split
          · rename_i h
            exact k4.trans (ih _ _ _ _ _ h.1 fun b' hb' => later k4 hqd b' hb')
          · exact k4

theorem Keeps.endPath (s : State) (c : Cur) (p : Path)
    (hin : ∀ b, s.block? c.run.blk = some b → StackIn lo hi b c.run.gid p.depth) :
    Keeps lo hi s (s.endPath c p) := by
  unfold State.endPath
  dsimp only
  split
  · exact (Keeps.modGroup s _ _ _ fun g => groupSetSlot_keep g _ _).trans (Keeps.checkExit _ _ _)
  · exact Keeps.leaveFork _ _ _ s _ _ _ _ ‹_› fun b hb => (hin b hb).mono (nearestFork_le _ _ _ _)

/-! ### Finishing -/

theorem Keeps.countLanes (s : State) (c : Cur) (o : Op) : Keeps lo hi s (s.countLanes c o) :=
  Keeps.of_cores ⟨rfl, rfl, rfl, rfl, rfl, rfl, rfl, rfl, rfl, rfl, rfl, rfl⟩ rfl rfl rfl

theorem Keeps.fetchForget (s : State) (uid gid : Nat) (sb : Bool) : Keeps lo hi s (s.fetchForget uid gid sb) :=
  Keeps.of_cores ⟨rfl, rfl, rfl, rfl, rfl, rfl, rfl, rfl, rfl, rfl, rfl, rfl⟩ rfl rfl rfl

theorem Keeps.countRun (s : State) (c : Cur) : Keeps lo hi s (s.countRun c) :=
  Keeps.of_cores ⟨rfl, rfl, rfl, rfl, rfl, rfl, rfl, rfl, rfl, rfl, rfl, rfl⟩ rfl rfl rfl

theorem Keeps.countOne (s : State) (c : Cur) (o : Op) : Keeps lo hi s (s.countOne c o) :=
  ((((Keeps.countLanes s c o).trans (.countCore _ _ _)).trans (.fetchForget _ _ _ _)).trans
    (Keeps.modGroup _ _ _ (tally c.path.mask) fun _ => ⟨rfl, rfl⟩)).trans (.countRun _ _)

/-- The live path of the group's slot is not deeper than d, and frames 1 to d stand among the keys. -/
def PathIn (lo hi : Nat) (s : State) (c : Cur) (d : Nat) : Prop :=
  (∀ b, s.block? c.run.blk = some b → StackIn lo hi b c.run.gid d)
    ∧ ∀ g p, s.group? c.run.blk c.run.gid = some g → groupSlot g c.run.slotB = some p → p.depth ≤ d

theorem Keeps.goto (s : State) (c : Cur) (next : DWord) (d : Nat) (h : PathIn lo hi s c d) : Keeps lo hi s (s.goto c next).1 := by
  unfold State.goto
  split
  · exact .refl s
  · split
    · exact .refl s
    · rename_i g hg _ p hp
      have hpd := h.2 g p hg hp
      split
      · exact Keeps.endPath s c p fun b hb => (h.1 b hb).mono hpd
      · split
        · rename_i hr
          have h0 : p.depth ≠ 0 := by
            intro h0; simp [reachesJoin, h0] at hr
          exact Keeps.leaveFork _ _ _ s _ _ _ _ h0 fun b hb => (h.1 b hb).mono hpd
        · exact Keeps.modPath s c _

theorem Keeps.atSeam (s : State) (c : Cur) (drain : Bool) : Keeps lo hi s (s.atSeam c drain) := by
  unfold State.atSeam
  split
  · exact .refl s
  · rename_i b hb
    dsimp only
    generalize hf : (fun g : Group => _) = f
    have hk : ∀ g, (f g).gid = g.gid ∧ (f g).r = g.r := by
      intro g; subst hf; dsimp only; repeat' split
      all_goals exact ⟨rfl, rfl⟩
    have h1 : Keeps lo hi s (s.modCur c f) := Keeps.modGroup s _ _ f hk
    have h2 : ∀ w : Bool, Keeps lo hi s (if (drain && w) = true then
        ((s.modCur c f).countCore 0x0004 b.core).trace 1 b.core ((s.modCur c f).logical b.core).2
          c.run.gid c.path.pc b.tile else s.modCur c f) := by
      intro w
      split
      · exact (h1.trans (.countCore _ _ _)).trans (.trace _ _ _ _ _ _ _)
      · exact h1
    generalize b.stop.isSome = d
    split
    · exact ((h2 _).trans (.sendDepotOf _ _ _)).trans (.settle _ _ _)
    · exact (h2 _).trans (.settle _ _ _)

theorem Keeps.restOfGroup (s : State) (c : Cur) : Keeps lo hi s (s.restOfGroup c) := by
  unfold State.restOfGroup
  split
  · exact .refl s
  · split
    · exact ((Keeps.modGroup s _ _ (fun g => { g with stopped := true }) fun g => ⟨rfl, rfl⟩).trans (.sendDepotOf _ _ _)).trans
        (.settle _ _ _)
    · exact .refl s

theorem Keeps.seam (s : State) (c : Cur) (sm : BitVec 2) (cut : Bool) : Keeps lo hi s (s.seam c sm cut) := by
  unfold State.seam
  split
  · split
    · exact (Keeps.endTurn s _ _).trans (.restOfGroup _ _)
    · exact .refl s
  · have h : Keeps lo hi s (s.endTurn c.run.core c.run.part) := .endTurn s _ _
    exact h.trans (.atSeam _ _ _)

/-! ### The issuing path -/

theorem PathIn.of_keeps {s t : State} {c : Cur} {d : Nat} (h : PathIn lo hi s c d) (hk : Keeps lo hi s t)
    (hp : ∀ g p, t.group? c.run.blk c.run.gid = some g → groupSlot g c.run.slotB = some p →
      ∃ g' p', s.group? c.run.blk c.run.gid = some g' ∧ groupSlot g' c.run.slotB = some p' ∧ p.depth = p'.depth) :
    PathIn lo hi t c d := by
  refine ⟨fun b hb => ?_, fun g p hg hp' => ?_⟩
  · have := hk.places c.run.blk
    rw [hb] at this
    cases hs : s.block? c.run.blk with
    | none => rw [hs] at this; cases this
    | some b' =>
      rw [hs] at this
      simp only [Option.map_some, Option.some.injEq] at this
      exact (h.1 b' hs).place this.symm
  · obtain ⟨g', p', h1, h2, h3⟩ := hp g p hg hp'
    rw [h3]; exact h.2 g' p' h1 h2

/-- A change of the issuing group that keeps its paths' depths. -/
theorem PathIn.modCur {s : State} {c : Cur} {d : Nat} (h : PathIn lo hi s c d) (f : Group → Group)
    (hf : ∀ g, (f g).gid = g.gid
      ∧ (groupSlot (f g) c.run.slotB).map (fun p => p.depth) = (groupSlot g c.run.slotB).map fun p => p.depth) :
    PathIn lo hi (s.modCur c f) c d := by
  refine ⟨fun b hb => ?_, fun g p hg hp => ?_⟩
  · unfold State.modCur State.modGroup at hb
    rw [State.block?_modBlock s c.run.blk _ (fun b => blockModGroup_uid b _ _)] at hb
    cases hs : s.block? c.run.blk with
    | none => rw [hs] at hb; cases hb
    | some b' =>
      rw [hs] at hb
      simp only [Option.map_some, Option.some.injEq] at hb
      subst hb
      split
      · exact (h.1 b' hs).place (b := b') rfl
      · exact h.1 b' hs
  · rw [State.modCur, State.group?_modGroup_same s _ _ f (fun g => (hf g).1)] at hg
    cases hs : s.group? c.run.blk c.run.gid with
    | none => rw [hs] at hg; cases hg
    | some g' =>
      rw [hs] at hg
      simp only [Option.map_some, Option.some.injEq] at hg
      subst hg
      have := (hf g').2
      rw [hp] at this
      cases hs' : groupSlot g' c.run.slotB with
      | none => rw [hs'] at this; cases this
      | some p' =>
        rw [hs'] at this
        simp only [Option.map_some, Option.some.injEq] at this
        rw [this]; exact h.2 g' p' hs hs'

theorem PathIn.congr {s t : State} {c : Cur} {d : Nat} (h : PathIn lo hi s c d) (hb : t.cores.blocks = s.cores.blocks) :
    PathIn lo hi t c d := by
  unfold PathIn
  rw [State.block?_congr hb, State.group?_congr hb]; exact h

theorem PathIn.countOne {s : State} {c : Cur} {d : Nat} (h : PathIn lo hi s c d) (o : Op) : PathIn lo hi (s.countOne c o) c d := by
  have h1 : PathIn lo hi (((s.countLanes c o).countCore 0x0002 c.blk.core).fetchForget c.run.blk c.run.gid c.run.slotB) c d :=
    h.congr rfl
  exact (h1.modCur (tally c.path.mask) fun g => ⟨rfl, by cases c.run.slotB <;> rfl⟩).congr rfl

theorem groupSlot_set_map (g : Group) (sb : Bool) (f : Path → Path) (hf : ∀ p, (f p).depth = p.depth) :
    (groupSlot (groupSetSlot g sb ((groupSlot g sb).map f)) sb).map (fun p => p.depth)
      = (groupSlot g sb).map fun p => p.depth := by
  cases sb
  · simp only [groupSlot, groupSetSlot, Bool.false_eq_true, if_false]; cases g.pa <;> simp [hf]
  · simp only [groupSlot, groupSetSlot, if_true]; cases g.pb <;> simp [hf]

theorem PathIn.modPath {s : State} {c : Cur} {d : Nat} (h : PathIn lo hi s c d) (f : Path → Path)
    (hf : ∀ p, (f p).depth = p.depth) : PathIn lo hi (s.modPath c f) c d :=
  h.modCur _ fun g => ⟨(groupSetSlot_keep g _ _).1, groupSlot_set_map g _ f hf⟩

theorem loopStep_depth (p : Path) : (loopStep p).depth = p.depth := by
  unfold loopStep
  split
  · rfl
  · split
    · rfl
    · split <;> rfl

/-- The live part of the issuing path's stack holds its path. -/
theorem PathIn.current {s : State} {c : Cur} (h : s.current = some c) :
    PathIn (frameKey c.blk c.run.gid 1) (frameKey c.blk c.run.gid 1 + 32 * c.path.depth) s c c.path.depth := by
  obtain ⟨h1, h2, h3⟩ := State.current_spec h
  refine ⟨fun b hb => ?_, fun g p hg hp => ?_⟩
  · rw [h1] at hb; cases hb; exact stackIn_self _ _ _
  · rw [h2] at hg; cases hg; rw [h3] at hp; cases hp; exact Nat.le_refl _

theorem Keeps.finishAt (s : State) (c : Cur) (o : Op) (next : DWord) (d : Nat) (h : PathIn lo hi s c d) :
    Keeps lo hi s (finishAt c o next s) :=
  ((Keeps.countOne s c o).trans (Keeps.goto _ c next d (h.countOne o))).trans (Keeps.seam _ _ _ _)

/-- Finishing an instruction that falls through. -/
theorem Keeps.finish (s : State) (c : Cur) (o : Op) (d : Nat) (h : PathIn lo hi s c d) : Keeps lo hi s (finish c o s) :=
  (Keeps.modPath s c loopStep).trans (Keeps.finishAt _ c o _ d (h.modPath loopStep loopStep_depth))

theorem Keeps.finishCut (s : State) (c : Cur) (o : Op) (next : DWord) (d : Nat) (h : PathIn lo hi s c d) :
    Keeps lo hi s (finishCut c o next s) :=
  ((Keeps.countOne s c o).trans (Keeps.goto _ c next d (h.countOne o))).trans (Keeps.seam _ _ _ _)

/-- An instruction that writes its group's registers and falls through: what finishing keeps. -/
theorem finish_write {s : State} {c : Cur} (h : s.current = some c) (o : Op) (w : Group → Group)
    (hw : ∀ g, (w g).gid = g.gid ∧ (w g).pa = g.pa ∧ (w g).pb = g.pb) :
    Keeps (frameKey c.blk c.run.gid 1) (frameKey c.blk c.run.gid 1 + 32 * c.path.depth) (s.modCur c w)
      (finish c o (s.modCur c w)) := by
  refine Keeps.finish _ c o c.path.depth ((PathIn.current h).modCur w fun g => ⟨(hw g).1, ?_⟩)
  cases c.run.slotB
  · simp only [groupSlot, Bool.false_eq_true, if_false, (hw g).2.1]
  · simp only [groupSlot, if_true, (hw g).2.2]

/-- The registers the group holds after an instruction that writes them and falls through. -/
theorem regsAfter_finish_write {s : State} {c : Cur} (h : s.current = some c) (o : Op) (w : Group → Group)
    (hw : ∀ g, (w g).gid = g.gid ∧ (w g).pa = g.pa ∧ (w g).pb = g.pb) :
    regsAfter (finish c o (s.modCur c w)) c = (w c.grp).r := by
  unfold regsAfter
  rw [(finish_write h o w hw).regs, State.modCur, State.groupRegs_modGroup s _ _ w (fun g => (hw g).1),
    (State.current_spec h).2.1]
  simp

/-- The registers of every other group stay. -/
theorem groupRegs_finish_write {s : State} {c : Cur} (h : s.current = some c) (o : Op) (w : Group → Group)
    (hw : ∀ g, (w g).gid = g.gid ∧ (w g).pa = g.pa ∧ (w g).pb = g.pb) (u i : Nat)
    (hu : ¬(u = c.run.blk ∧ i = c.run.gid)) :
    (finish c o (s.modCur c w)).groupRegs u i = s.groupRegs u i := by
  rw [(finish_write h o w hw).regs, State.modCur, State.groupRegs_modGroup s _ _ w (fun g => (hw g).1)]
  unfold State.groupRegs
  simp [hu]

end Sys2Proof.Machine
end

