-- ==== Sys2Proof/Laws/Lanes.lean ====
section
/-! SUPPORT. Lane-wise results: which classes a legal instruction's destination has, and what its registers read after
the result is written. -/

namespace Sys2Proof.Machine
open Sys2Proof

/-! ### Lanes of a mask -/

theorem mem_lanesOf {w : Word} {l : Nat} : l ∈ lanesOf w ↔ l < 32 ∧ w.getLsbD l = true := by
  simp [lanesOf, List.mem_filter]

theorem lanesOf_nodup (w : Word) : (lanesOf w).Nodup := List.Pairwise.filter _ List.nodup_range

theorem lanesOf_zero : lanesOf 0 = [] := by simp [lanesOf]

theorem lowest_mem {w : Word} {l : Nat} (h : lowest w = some l) : l ∈ lanesOf w := List.mem_of_mem_head? h

/-! ### The checks every instruction makes -/

theorem common_check {s : State} {c : Cur} {opc : BitVec 10} {o : Op} (h : commonFaults s c opc o = []) :
    checkOp opc o = none := by
  unfold commonFaults at h
  simp only [List.append_eq_nil_iff] at h
  cases hc : checkOp opc o with
  | none => rfl
  | some e => rw [hc] at h; exact absurd h.1.1.1.1.1 (by simp)

/-- What R363 leaves of a legal instruction: its shape, and its fields in the shape's classes. -/
theorem checkOp_shape {opc : BitVec 10} {o : Op} (h : checkOp opc o = none) (h0 : opc ≠ 0x000) :
    ∃ sh, shapeOf opc o = some sh ∧ tyOk opc o.ty = true ∧ lenOk sh.kind o.ext = true ∧ baseFieldsOk opc sh o = true
      ∧ faceOk opc sh o = true := by
  unfold checkOp at h
  split at h
  · cases h
  · split at h
    · cases h
    · rename_i ht
      split at h
      · cases h
      · rename_i sh hsh
        split at h
        · cases h
        · rename_i hl
          split at h
          · cases h
          · split at h
            · cases h
            · rename_i hb
              split at h
              · cases h
              · rename_i hf
                exact ⟨sh, hsh, by simpa using ht, by simpa using hl, by simpa using hb, by simpa using hf⟩

/-- An active lane's face is enabled, and the lane uses its operand set (R365, R383). -/
theorem active_set {s : State} {c : Cur} {o : Op} {l : Nat} (h : l ∈ lanesOf (activeLanes s c o)) :
    (o.xen = true ∧ setFor s c o l = setX o ∧ (o.twoFaced = true → (faceMask s c.blk c.run.gid c.path).getLsbD l = true))
      ∨ (o.yen = true ∧ o.twoFaced = true ∧ setFor s c o l = setY o
        ∧ (faceMask s c.blk c.run.gid c.path).getLsbD l = false) := by
  obtain ⟨hl, hb⟩ := mem_lanesOf.mp h
  unfold activeLanes at hb
  unfold setFor
  cases ht : o.twoFaced with
  | false =>
    left
    refine ⟨?_, by simp, by simp⟩
    cases he : o.ext <;> simp [Op.twoFaced, he] at ht <;> simp [Op.xen, he]
  | true =>
    simp only [ht, if_true] at hb
    cases hf : (faceMask s c.blk c.run.gid c.path).getLsbD l with
    | true =>
      left
      refine ⟨?_, by simp, by simp⟩
      cases hx : o.xen with
      | true => rfl
      | false =>
        cases hy : o.yen <;> simp [hx, hy, hf] at hb
    | false =>
      right
      refine ⟨?_, rfl, by simp, rfl⟩
      cases hy : o.yen with
      | true => rfl
      | false => cases hx : o.xen <;> simp [hx, hy, hf] at hb

/-- The guard of an active lane holds, and the lane is in the path (R344, R365). -/
theorem active_guarded {s : State} {c : Cur} {o : Op} {l : Nat} (h : l ∈ lanesOf (activeLanes s c o)) :
    (guardedIn c o).getLsbD l = true := by
  obtain ⟨hl, hb⟩ := mem_lanesOf.mp h
  unfold activeLanes at hb
  split at hb
  · cases hx : o.xen <;> cases hy : o.yen <;> simp [hx, hy] at hb ⊢ <;> grind
  · exact hb

/-- The destination of every active lane lies in the shape's class; a general or affine-or-uniform class leaves face Y and
two-faced forms a general register (R345, R383). -/
theorem active_dest {s : State} {c : Cur} {opc : BitVec 10} {o : Op} {sh : Shape} {l : Nat}
    (hb : baseFieldsOk opc sh o = true) (hf : faceOk opc sh o = true) (h : l ∈ lanesOf (activeLanes s c o)) :
    fieldOk sh.d sh.wideD (setFor s c o l).d = true
      ∧ (o.twoFaced = true → sh.d = .dst → (setFor s c o l).d.toNat < 0x80) := by
  rcases active_set h with ⟨hx, hs, -⟩ | ⟨hy, ht, hs, -⟩
  · unfold baseFieldsOk at hb
    rw [if_pos hx] at hb
    simp only [Bool.and_eq_true] at hb
    rw [hs]
    refine ⟨hb.1.1.1.1.1, fun h2 hd => ?_⟩
    have := hb.2
    simp [h2, hd, setX] at this ⊢
    omega
  · unfold faceOk at hf
    cases he : o.ext with
    | face xen yen d a b k imm =>
      rw [he] at hf
      have hye : yen = true := by simpa [Op.yen, he] using hy
      simp only [hye, Bool.and_eq_true, if_true] at hf
      rw [hs]
      simp only [setY, he]
      refine ⟨hf.2.1.1.1.1.1, fun _ hd => ?_⟩
      have := hf.2.1.2
      simp [hd] at this
      omega
    | one => simp [Op.yen, he] at hy
    | extn _ _ _ _ => simp [Op.yen, he] at hy
    | quad _ => simp [Op.yen, he] at hy

/-! ### Register numbers -/

theorem ofNum_v {r : BitVec 8} (h : r.toNat < 0x80) : Reg.ofNum r = some (.v r.toNat) := by
  simp [Reg.ofNum, h]

theorem ofNum_a {r : BitVec 8} (h : isAff r = true) : Reg.ofNum r = some (.a (r.toNat - 0x80)) := by
  simp [isAff] at h
  simp only [Reg.ofNum, if_neg (show ¬ r.toNat < 0x80 by omega), if_pos (show r.toNat < 0xA0 by omega)]

theorem ofNum_s {r : BitVec 8} (h : isUni r = true) : Reg.ofNum r = some (.s (r.toNat - 0xA0)) := by
  simp [isUni] at h
  simp only [Reg.ofNum, if_neg (show ¬ r.toNat < 0x80 by omega), if_neg (show ¬ r.toNat < 0xA0 by omega),
    if_pos (show r.toNat < 0xE0 by omega)]

/-- The two numbers of an even pair name registers of one class. -/
theorem succ_toNat {r : BitVec 8} (h : r.toNat < 0xFF) : (r + 1).toNat = r.toNat + 1 := by
  rw [BitVec.toNat_add]
  show (r.toNat + 1) % 256 = r.toNat + 1
  omega

/-! ### General destinations -/

/-- What lane l of general register r reads in a group. -/
theorem setLane_get (g : Group) (r l : Nat) (x : Word) (k : Nat) :
    FMap.get 0 (setLane g r l x).r.v k = if k = 32 * r + l then x else FMap.get 0 g.r.v k := FMap.get_set _ _ _ _ _

theorem setGen_get (g : Group) (wide : Bool) (r l x k : Nat) :
    FMap.get 0 (setGen g wide r l x).r.v k =
      if wide = true ∧ k = 32 * (r + 1) + l then BitVec.ofNat 32 (x / 2 ^ 32)
      else if k = 32 * r + l then BitVec.ofNat 32 x else FMap.get 0 g.r.v k := by
  unfold setGen
  cases wide
  · rw [if_neg (by decide), setLane_get]; simp
  · simp only [if_true, setLane_get, true_and]

/-- A general destination writes no other kind of register. -/
structure SameOther (g h : Group) : Prop where
  a     : h.r.a = g.r.a
  s     : h.r.s = g.r.s
  p     : h.r.p = g.r.p
  t     : h.r.t = g.r.t
  macc  : h.r.macc = g.r.macc
  mtail : h.r.mtail = g.r.mtail
  muse  : h.r.muse = g.r.muse

theorem setGen_other (g : Group) (wide : Bool) (r l x : Nat) : SameOther g (setGen g wide r l x) := by
  cases wide <;> exact ⟨rfl, rfl, rfl, rfl, rfl, rfl, rfl⟩

theorem foldGen (wide : Bool) (d f : Nat → Nat) (ls : List Nat) (hn : ls.Nodup) (hl : ∀ l ∈ ls, l < 32) :
    ∀ g : Group,
      (∀ l ∈ ls, FMap.get 0 (ls.foldl (fun g l => setGen g wide (d l) l (f l)) g).r.v (32 * d l + l) = BitVec.ofNat 32 (f l)
        ∧ (wide = true → FMap.get 0 (ls.foldl (fun g l => setGen g wide (d l) l (f l)) g).r.v (32 * (d l + 1) + l)
            = BitVec.ofNat 32 (f l / 2 ^ 32)))
      ∧ (∀ k, (∀ l ∈ ls, ¬ writesKey wide d l k) →
          FMap.get 0 (ls.foldl (fun g l => setGen g wide (d l) l (f l)) g).r.v k = FMap.get 0 g.r.v k)
      ∧ SameOther g (ls.foldl (fun g l => setGen g wide (d l) l (f l)) g) := by
  induction ls with
  | nil => intro g; exact ⟨by simp, by simp, ⟨rfl, rfl, rfl, rfl, rfl, rfl, rfl⟩⟩
  | cons a ls ih =>
    intro g
    simp only [List.nodup_cons] at hn
    have hl' : ∀ l ∈ ls, l < 32 := fun l h => hl l (List.mem_cons_of_mem _ h)
    have ha := hl a (List.mem_cons_self ..)
    obtain ⟨h1, h2, h3⟩ := ih hn.2 hl' (setGen g wide (d a) a (f a))
    simp only [List.foldl_cons]
    refine ⟨fun l hm => ?_, fun k hk => ?_, ?_⟩
    · rcases List.mem_cons.mp hm with rfl | hm
      · have hne : ∀ l' ∈ ls, l' ≠ l := fun l' h e => hn.1 (e ▸ h)
        have key : ∀ r, (∀ l' ∈ ls, ¬ writesKey wide d l' (32 * r + l)) := by
          intro r l' hl'm hw
          have := hne l' hl'm
          have := hl' l' hl'm
          rcases hw with hw | ⟨-, hw⟩ <;> omega
        rw [h2 _ (key _)]
        refine ⟨?_, fun hw => ?_⟩
        · rw [setGen_get, if_neg (by omega), if_pos rfl]
        · rw [h2 _ (key _), setGen_get, if_pos ⟨hw, rfl⟩]
      · exact h1 l hm
    · rw [h2 k fun l hm => hk l (List.mem_cons_of_mem _ hm), setGen_get]
      have := hk a (List.mem_cons_self ..)
      unfold writesKey at this
      rw [if_neg (by grind), if_neg (by grind)]
    · have h4 := setGen_other g wide (d a) a (f a)
      exact ⟨h3.a.trans h4.a, h3.s.trans h4.s, h3.p.trans h4.p, h3.t.trans h4.t, h3.macc.trans h4.macc, h3.mtail.trans h4.mtail,
        h3.muse.trans h4.muse⟩

theorem setGen_bad (g : Group) (wide : Bool) (d : Nat → Nat) (l x k : Nat) (h : ¬ writesKey wide d l k) :
    k ∈ (setGen g wide (d l) l x).r.bad ↔ k ∈ g.r.bad := by
  unfold writesKey at h
  cases wide <;> simp [setGen, setLane] at * <;> omega

theorem foldGen_bad (wide : Bool) (d f : Nat → Nat) (k : Nat) (ls : List Nat) (h : ∀ l ∈ ls, ¬ writesKey wide d l k) :
    ∀ g : Group, k ∈ (ls.foldl (fun g l => setGen g wide (d l) l (f l)) g).r.bad ↔ k ∈ g.r.bad := by
  induction ls with
  | nil => exact fun _ => .rfl
  | cons a ls ih =>
    exact fun g => (ih (fun l hl => h l (List.mem_cons_of_mem _ hl)) _).trans (setGen_bad g wide d a _ k (h a (List.mem_cons_self ..)))

/-! ### The result of a lane-wise instruction -/

/-- A destination that `writeResult` can write: general for every active lane, or one affine or uniform register. -/
def DestOk (s : State) (c : Cur) (o : Op) (wide : Bool) : Prop :=
  (isAff o.d = true ∧ wide = false) ∨ (isUni o.d = true ∧ (wide = true → o.d.toNat < 0xDF))
    ∨ (isAff o.d = false ∧ isUni o.d = false
      ∧ ∀ l ∈ lanesOf (activeLanes s c o), (setFor s c o l).d.toNat < (if wide then 0x7F else 0x80))

theorem toNat_append_word (a b : Word) : (a ++ b).toNat = a.toNat * 2 ^ 32 + b.toNat := by
  have h : b.toNat < 2 ^ 32 := b.isLt
  rw [BitVec.toNat_append, Nat.shiftLeft_eq, Nat.mul_comm, Nat.two_pow_add_eq_or_of_lt h]

theorem pair_value (x : Nat) :
    (BitVec.ofNat 32 (x / 2 ^ 32) ++ BitVec.ofNat 32 x).toNat = x % 2 ^ 64 := by
  rw [toNat_append_word, BitVec.toNat_ofNat, BitVec.toNat_ofNat]
  omega

/-- `writeResult` keeps the group's name and paths. -/
theorem writeResult_keep (s : State) (c : Cur) (o : Op) (wide : Bool) (aff : Option (Word × Word)) (f : Nat → Nat) (g : Group) :
    (writeResult s c o wide aff f g).gid = g.gid ∧ (writeResult s c o wide aff f g).pa = g.pa
      ∧ (writeResult s c o wide aff f g).pb = g.pb := by
  unfold writeResult
  dsimp only
  split
  · split
    · split <;> exact ⟨rfl, rfl, rfl⟩
    · exact ⟨rfl, rfl, rfl⟩
  · split
    · split
      · unfold setUniN; split <;> exact ⟨rfl, rfl, rfl⟩
      · exact ⟨rfl, rfl, rfl⟩
    · generalize lanesOf (activeLanes s c o) = ls
      induction ls generalizing g with
      | nil => exact ⟨rfl, rfl, rfl⟩
      | cons a ls ih =>
        simp only [List.foldl_cons]
        have h1 := ih (setGen g wide (setFor s c o a).d.toNat a (f a))
        have h2 : (setGen g wide (setFor s c o a).d.toNat a (f a)).gid = g.gid
            ∧ (setGen g wide (setFor s c o a).d.toNat a (f a)).pa = g.pa
            ∧ (setGen g wide (setFor s c o a).d.toNat a (f a)).pb = g.pb := by
          unfold setGen; split <;> exact ⟨rfl, rfl, rfl⟩
        exact ⟨h1.1.trans h2.1, h1.2.1.trans h2.2.1, h1.2.2.trans h2.2.2⟩

/-- The general-register case of what a lane reads. -/
theorem srcNat_v (c : Cur) (wide : Bool) (r : BitVec 8) (l : Nat) (h : r.toNat < (if wide then 0x7F else 0x80)) :
    srcNat c wide r l = if wide then
        (FMap.get 0 c.grp.r.v (32 * (r.toNat + 1) + l) ++ FMap.get 0 c.grp.r.v (32 * r.toNat + l) : DWord).toNat
      else (FMap.get 0 c.grp.r.v (32 * r.toNat + l)).toNat := by
  unfold srcNat
  cases wide
  · simp only [Bool.false_eq_true, if_false] at h ⊢
    simp [laneVal, ofNum_v h]
  · simp only [if_true] at h ⊢
    have h1 : (r + 1).toNat = r.toNat + 1 := succ_toNat (by omega)
    simp only [pairVal, laneVal, ofNum_v (show r.toNat < 0x80 by omega), ofNum_v (show (r + 1).toNat < 0x80 by omega), h1]

theorem srcNat_s (c : Cur) (wide : Bool) (r : BitVec 8) (l : Nat) (h : isUni r = true) (hw : wide = true → r.toNat < 0xDF) :
    srcNat c wide r l = if wide then
        (FMap.get 0 c.grp.r.s (r.toNat - 0xA0 + 1) ++ FMap.get 0 c.grp.r.s (r.toNat - 0xA0) : DWord).toNat
      else (FMap.get 0 c.grp.r.s (r.toNat - 0xA0)).toNat := by
  unfold srcNat
  cases wide
  · simp [laneVal, ofNum_s h]
  · have hr := hw rfl
    have hu := h
    simp [isUni] at hu
    have h1 : (r + 1).toNat = r.toNat + 1 := succ_toNat (by omega)
    have h2 : isUni (r + 1) = true := by simp only [isUni, h1]; simp; omega
    simp only [if_true, pairVal, laneVal, ofNum_s h, ofNum_s h2, h1]
    rw [show r.toNat + 1 - 160 = r.toNat - 160 + 1 by omega]

/-- What every active lane reads of a written result: the value given for the lane, or, for an affine destination, base and
stride. -/
theorem writeResult_reads {s : State} {c : Cur} {o : Op} {wide : Bool} {aff : Option (Word × Word)} {f : Nat → Nat} {l : Nat}
    (hd : DestOk s c o wide) (ha : isAff o.d = true ∨ isUni o.d = true → o.twoFaced = false)
    (hl : l ∈ lanesOf (activeLanes s c o)) (hu : isUni o.d = true → lowest (activeLanes s c o) = some l) :
    srcNat { c with grp := { c.grp with r := (writeResult s c o wide aff f c.grp).r } } wide (setFor s c o l).d l =
      if isAff o.d = true then
        (match aff with
        | some (b, st) => (b + BitVec.ofNat 32 l * st).toNat
        | none => srcNat c wide (setFor s c o l).d l)
      else f l % 2 ^ (if wide then 64 else 32) := by
  have hact : activeLanes s c o ≠ 0 := by
    intro h; rw [h, lanesOf_zero] at hl; cases hl
  rcases hd with ⟨haff, hw⟩ | ⟨huni, hw⟩ | ⟨h1, h2, h3⟩
  · have hs : setFor s c o l = setX o := by simp [setFor, ha (.inl haff)]
    subst hw
    rw [if_pos haff, hs]
    unfold writeResult
    simp only [haff, if_true]
    cases aff with
    | none => rfl
    | some x =>
      obtain ⟨b, st⟩ := x
      simp only [hact, if_false, srcNat, laneVal, setX, ofNum_a haff, setAff, FMap.get_set_same, Bool.false_eq_true]
      congr 1
      have e1 : (st ++ b : DWord).setWidth 32 = b := by
        apply BitVec.eq_of_toNat_eq; rw [BitVec.toNat_setWidth, toNat_append_word]; omega
      have e2 : ((st ++ b : DWord) >>> 32).setWidth 32 = st := by
        apply BitVec.eq_of_toNat_eq
        rw [BitVec.toNat_setWidth, BitVec.toNat_ushiftRight, toNat_append_word, Nat.shiftRight_eq_div_pow]; omega
      rw [e1, e2]
  · have hna : isAff o.d = false := by simp [isUni, isAff] at *; omega
    rw [if_neg (by simp [hna])]
    have hlo := hu huni
    have hs : setFor s c o l = setX o := by simp [setFor, ha (.inr huni)]
    rw [hs, show (setX o).d = o.d from rfl, srcNat_s _ _ _ _ huni hw]
    unfold writeResult
    simp only [hna, huni, hlo, if_true, Bool.false_eq_true, if_false]
    cases wide
    · simp [setUniN, setUni]
    · have hne : o.d.toNat - 160 ≠ o.d.toNat - 160 + 1 := by omega
      simp only [if_true, setUniN, setUni, FMap.get_set_same, FMap.get_set_ne _ _ hne]
      exact pair_value _
  · rw [if_neg (by simp [h1])]
    have hlt := h3 l hl
    rw [srcNat_v _ _ _ _ hlt]
    unfold writeResult
    simp only [h1, h2, Bool.false_eq_true, if_false]
    have hf := foldGen wide (fun l => (setFor s c o l).d.toNat) f (lanesOf (activeLanes s c o)) (lanesOf_nodup _)
      (fun l h => (mem_lanesOf.mp h).1) c.grp
    have := hf.1 l hl
    cases wide
    · simp only [Bool.false_eq_true, if_false]
      rw [this.1, BitVec.toNat_ofNat]
    · simp only [if_true]
      rw [this.1, this.2 rfl]
      exact pair_value _

theorem writeResult_only (s : State) (c : Cur) (o : Op) (wide : Bool) (aff : Option (Word × Word)) (f : Nat → Nat) :
    WritesOnly s c o wide (writeResult s c o wide aff f c.grp).r := by
  unfold writeResult
  dsimp only
  split
  · rename_i ha
    have hu : isUni o.d = false := by simp [isUni, isAff] at *; omega
    split
    · split
      · exact ⟨fun _ _ => .rfl, fun _ _ => rfl, fun _ _ => rfl, fun _ _ => rfl, rfl, rfl, rfl, rfl, rfl⟩
      · refine ⟨fun x hx => ?_, fun _ _ => rfl, fun n hn => FMap.get_set_ne _ _ (fun e => hn ⟨ha, e⟩) _, fun _ _ => rfl,
          rfl, rfl, rfl, rfl, rfl⟩
        have : x ≠ 4096 + (o.d.toNat - 0x80) := fun e => hx (.inr (.inl ⟨ha, e⟩))
        simp [setAff, this]
    · exact ⟨fun _ _ => .rfl, fun _ _ => rfl, fun _ _ => rfl, fun _ _ => rfl, rfl, rfl, rfl, rfl, rfl⟩
  · rename_i ha
    split
    · rename_i hu
      split
      · unfold setUniN
        split
        · rename_i hw
          refine ⟨fun x hx => ?_, fun _ _ => rfl, fun _ _ => rfl, fun n hn => ?_, rfl, rfl, rfl, rfl, rfl⟩
          rotate_left
          · simp only [setUni]
            rw [FMap.get_set_ne _ _ (fun e => hn ⟨hu, .inr ⟨hw, e⟩⟩), FMap.get_set_ne _ _ (fun e => hn ⟨hu, .inl e⟩)]
          · have h1 : x ≠ 8192 + (o.d.toNat - 0xA0) := fun e => hx (.inr (.inr ⟨hu, .inl e⟩))
            have h2 : x ≠ 8192 + (o.d.toNat - 0xA0 + 1) := fun e => hx (.inr (.inr ⟨hu, .inr ⟨hw, e⟩⟩))
            simp [setUni, h1, h2]
        · refine ⟨fun x hx => ?_, fun _ _ => rfl, fun _ _ => rfl, fun n hn => ?_, rfl, rfl, rfl, rfl, rfl⟩
          rotate_left
          · simp only [setUni]
            rw [FMap.get_set_ne _ _ (fun e => hn ⟨hu, .inl e⟩)]
          · have h1 : x ≠ 8192 + (o.d.toNat - 0xA0) := fun e => hx (.inr (.inr ⟨hu, .inl e⟩))
            simp [setUni, h1]
      · exact ⟨fun _ _ => .rfl, fun _ _ => rfl, fun _ _ => rfl, fun _ _ => rfl, rfl, rfl, rfl, rfl, rfl⟩
    · rename_i hu
      have hf := foldGen wide (fun l => (setFor s c o l).d.toNat) f (lanesOf (activeLanes s c o)) (lanesOf_nodup _)
        (fun l h => (mem_lanesOf.mp h).1) c.grp
      have ho := hf.2.2
      refine ⟨fun x hx => ?_, fun k hk => hf.2.1 k fun l hl hw => hk ⟨by simpa using ha, by simpa using hu, l, hl, hw⟩, fun n _ => by rw [ho.a],
        fun n _ => by rw [ho.s], ho.p, ho.t, ho.macc, ho.mtail, ho.muse⟩
      exact foldGen_bad wide _ f x _ (fun l hl hw => hx (.inl ⟨by simpa using ha, by simpa using hu, l, hl, hw⟩)) c.grp

/-! ### Which destinations a legal lane-wise instruction has -/

/-- The classes of destination that `writeResult` writes. -/
def laneDest (c : Cls) : Bool :=
  match c with
  | .dst | .vd | .dSV | .dSV64 | .dVAS | .sPair | .sReg => true
  | _ => false

/-- What a destination class admits. -/
theorem admits_lane {cls : Cls} {wide : Bool} {r : BitVec 8} (hc : laneDest cls = true) (h : fieldOk cls wide r = true) :
    (r.toNat < 0x80 ∧ cls ≠ .sPair ∧ cls ≠ .sReg ∧ (wide = true ∧ cls ≠ .dVAS ∨ cls = .dSV64 → r.toNat % 2 = 0))
      ∨ (isAff r = true ∧ (cls = .dst ∧ wide = false ∨ cls = .dVAS))
      ∨ (isUni r = true ∧ cls ≠ .vd ∧ (cls = .dst → wide = false)
        ∧ (wide = true ∧ cls ≠ .dVAS ∨ cls = .dSV64 ∨ cls = .sPair → r.toNat % 2 = 0)) := by
  cases cls <;> simp only [laneDest, Bool.false_eq_true] at hc <;> revert h <;> revert r <;> cases wide <;> decide

theorem destOk_of_shape {s : State} {c : Cur} {opc : BitVec 10} {o : Op} {sh : Shape} {wide : Bool}
    (hl : lenOk sh.kind o.ext = true)
    (hb : baseFieldsOk opc sh o = true) (hf : faceOk opc sh o = true)
    (hc : laneDest sh.d = true) (hk : sh.d = .dst ∨ sh.d = .vd ∨ sh.kind = .k1)
    (hw : wide = true → (sh.wideD = true ∧ sh.d ≠ .dVAS) ∨ sh.d = .dSV64 ∨ sh.d = .sPair) :
    DestOk s c o wide ∧ (isAff o.d = true ∨ isUni o.d = true → o.twoFaced = false) := by
  have hone : sh.kind = .k1 → o.twoFaced = false := by
    intro hk1
    rw [hk1] at hl
    cases he : o.ext <;> simp [lenOk, he] at hl <;> simp [Op.twoFaced, he]
  have hX : o.xen = true → fieldOk sh.d sh.wideD o.d = true ∧ (o.twoFaced = true → sh.d = .dst → o.d.toNat < 0x80) := by
    intro hx
    unfold baseFieldsOk at hb
    rw [if_pos hx] at hb
    simp only [Bool.and_eq_true] at hb
    refine ⟨hb.1.1.1.1.1, fun h2 hd => ?_⟩
    have := hb.2
    simp [h2, hd] at this
    omega
  have h0 : o.xen = false → o.d = 0 := by
    intro hx
    unfold baseFieldsOk at hb
    rw [hx] at hb
    simp at hb
    exact hb.1.1.1
  have faced : isAff o.d = true ∨ isUni o.d = true → o.twoFaced = false := by
    intro h
    cases hx : o.xen with
    | false => rw [h0 hx] at h; simp [isAff, isUni] at h
    | true =>
      cases ht : o.twoFaced with
      | false => rfl
      | true =>
        rcases hk with hd | hd | hd
        · have := (hX hx).2 ht hd
          simp [isAff, isUni] at h; omega
        · rcases admits_lane hc (hX hx).1 with ⟨h1, -⟩ | ⟨-, ⟨h1, -⟩ | h1⟩ | ⟨-, h1, -⟩
          · simp [isAff, isUni] at h; omega
          · rw [hd] at h1; cases h1
          · rw [hd] at h1; cases h1
          · exact absurd hd h1
        · rw [hone hd] at ht; cases ht
  refine ⟨?_, faced⟩
  by_cases ha : isAff o.d = true
  · left
    refine ⟨ha, ?_⟩
    cases hx : o.xen with
    | false => rw [h0 hx] at ha; simp [isAff] at ha
    | true =>
      have h' := ha
      simp [isAff] at h'
      cases hwd : wide with
      | false => rfl
      | true =>
        rcases admits_lane hc (hX hx).1 with ⟨h1, -⟩ | ⟨-, ⟨h1, h2⟩ | h1⟩ | ⟨h1, -⟩
        · omega
        · rcases hw hwd with ⟨h3, -⟩ | h3 | h3
          · rw [h2] at h3; cases h3
          · rw [h1] at h3; cases h3
          · rw [h1] at h3; cases h3
        · rcases hw hwd with ⟨-, h3⟩ | h3 | h3
          · exact absurd h1 h3
          · rw [h1] at h3; cases h3
          · rw [h1] at h3; cases h3
        · simp [isUni] at h1; omega
  · by_cases hu : isUni o.d = true
    · right; left
      refine ⟨hu, fun hwd => ?_⟩
      cases hx : o.xen with
      | false => rw [h0 hx] at hu; simp [isUni] at hu
      | true =>
        have h' := hu
        simp [isUni] at h'
        rcases admits_lane hc (hX hx).1 with ⟨h1, -⟩ | ⟨h1, -⟩ | ⟨-, -, -, h1⟩
        · omega
        · exact absurd h1 ha
        · have := h1 (by rcases hw hwd with h | h | h
                         · exact .inl h
                         · exact .inr (.inl h)
                         · exact .inr (.inr h))
          omega
    · right; right
      refine ⟨by simpa using ha, by simpa using hu, fun l hl' => ?_⟩
      have h1 := active_dest hb hf hl'
      have even : (setFor s c o l).d.toNat < 0x80 → wide = true → (setFor s c o l).d.toNat % 2 = 0 := by
        intro hlt hwd
        rcases admits_lane hc h1.1 with ⟨-, h2, -, h3⟩ | ⟨h2, -⟩ | ⟨h2, -⟩
        · refine h3 ?_
          rcases hw hwd with h | h | h
          · exact .inl h
          · exact .inr h
          · exact absurd h h2
        · simp [isAff] at h2; omega
        · simp [isUni] at h2; omega
      have lt80 : (setFor s c o l).d.toNat < 0x80 := by
        rcases active_set hl' with ⟨hx, hs, -⟩ | ⟨hy, ht, hs, -⟩
        · rcases admits_lane hc (hX hx).1 with ⟨h2, -⟩ | ⟨h2, -⟩ | ⟨h2, -⟩
          · rw [hs]; exact h2
          · exact absurd h2 ha
          · exact absurd h2 hu
        · rcases hk with hd | hd | hd
          · exact h1.2 ht hd
          · rcases admits_lane hc h1.1 with ⟨h2, -⟩ | ⟨-, ⟨h2, -⟩ | h2⟩ | ⟨-, h2, -⟩
            · exact h2
            · rw [hd] at h2; cases h2
            · rw [hd] at h2; cases h2
            · exact absurd hd h2
          · rw [hone hd] at ht; cases ht
      cases hwd : wide with
      | false => simpa using lt80
      | true =>
        have := even lt80 hwd
        simp only [if_true]
        omega

end Sys2Proof.Machine
end

