-- ==== Sys2Proof/Laws/Issue.lean ====
section
/-! SUPPORT. What issuing an instruction answers: never a stop while a run issues, a precise fault where a check fails, and
its effect otherwise (R183, R186). -/

namespace Sys2Proof.Machine
open Sys2Proof

/-- The two answers of an issue. -/
theorem issue_cases {s : State} {c : Cur} (h : s.current = some c) (opc : BitVec 10) (o : Op) (checks : Cur → List FaultInfo)
    (eff : Cur → State → State) :
    (∃ f, firstFault (commonFaults s c opc o ++ checks c) = some f ∧ issue opc o s checks eff = .next (raise c f s))
      ∨ (firstFault (commonFaults s c opc o ++ checks c) = none ∧ issue opc o s checks eff = .next (eff c s)) := by
  unfold issue
  rw [h]
  cases hf : firstFault (commonFaults s c opc o ++ checks c) with
  | some f => exact .inl ⟨f, rfl, by simp [hf]⟩
  | none => exact .inr ⟨rfl, by simp [hf]⟩

/-- No check fails where every list of failing checks is empty. -/
theorem issue_effect {s : State} {c : Cur} (h : s.current = some c) {opc : BitVec 10} {o : Op} {checks : Cur → List FaultInfo}
    (eff : Cur → State → State) (h1 : commonFaults s c opc o = []) (h2 : checks c = []) :
    issue opc o s checks eff = .next (eff c s) := by
  unfold issue
  simp [h, h1, h2, firstFault, leadFault]

/-- Some failing check leads unless there is none. -/
theorem leadFault_eq_none {fs : List FaultInfo} (h : leadFault fs = none) : fs = [] := by
  cases fs with
  | nil => rfl
  | cons f fs =>
    unfold leadFault at h
    split at h
    · cases h
    · split at h <;> cases h

theorem firstFault_eq_none {fs : List FaultInfo} (h : firstFault fs = none) : fs = [] :=
  leadFault_eq_none (by simpa [firstFault] using h)

/-- A lane-wise instruction whose checks pass writes its result and falls through. -/
theorem issueLanes_next {s : State} {c : Cur} {opc : BitVec 10} {o : Op} {aff : Cur → Option (Word × Word)}
    (h : LaneReady s c opc o (aff c)) (wide : Bool) (f : Cur → Nat → Nat) :
    issueLanes opc o s wide aff f = .next (finish c o (s.modCur c (writeResult s c o wide (aff c) (f c)))) := by
  unfold issueLanes issuePlain
  exact issue_effect h.current _ h.checks (by simp [h.shape, h.join])

/-- The destination of an opcode of shape `sh` is one that `writeResult` writes. -/
def LaneShape (sh : Shape) (wide : Bool) : Prop :=
  laneDest sh.d = true ∧ (sh.d = .dst ∨ sh.d = .vd ∨ sh.kind = .k1)
    ∧ (wide = true → (sh.wideD = true ∧ sh.d ≠ .dVAS) ∨ sh.d = .dSV64 ∨ sh.d = .sPair)

/-- What a lane-wise instruction's destination reads afterwards. -/
theorem issueLanes_result {s : State} {c : Cur} {opc : BitVec 10} {o : Op} {aff : Cur → Option (Word × Word)}
    (h : LaneReady s c opc o (aff c)) (h0 : opc ≠ 0x000) (wide : Bool) (f : Cur → Nat → Nat)
    (hsh : ∀ sh, shapeOf opc o = some sh → LaneShape sh wide)
    (haff : ∀ x, aff c = some x → isAff o.d = true → o.twoFaced = false →
      ∀ l ∈ lanesOf (activeLanes s c o), (x.1 + BitVec.ofNat 32 l * x.2).toNat = f c l % 2 ^ 32) :
    ∃ t, issueLanes opc o s wide aff f = .next t ∧ ResultIs s t c o wide (f c) := by
  refine ⟨_, issueLanes_next h wide f, ?_⟩
  obtain ⟨sh, hs, -, hl, hb, hf⟩ := checkOp_shape (common_check h.checks) h0
  obtain ⟨h1, h2, h3⟩ := hsh sh hs
  obtain ⟨hd, ht⟩ := destOk_of_shape (s := s) (c := c) hl hb hf h1 h2 h3
  intro l hm hu
  have key := regsAfter_finish_write h.current o (writeResult s c o wide (aff c) (f c)) (writeResult_keep s c o wide (aff c) (f c))
  unfold Cur.after
  rw [key, writeResult_reads hd ht hm hu]
  split
  · rename_i ha
    have hw : wide = false := by
      rcases hd with ⟨-, hw⟩ | ⟨h4, -⟩ | ⟨h4, -⟩
      · exact hw
      · simp [isAff, isUni] at *; omega
      · rw [ha] at h4; cases h4
    subst hw
    have hsh' := h.shape
    unfold shapeFaults at hsh'
    have hnu : isUni o.d = false := by simp [isAff, isUni] at *; omega
    simp only [hnu, ha, Bool.false_eq_true, if_false, if_true] at hsh'
    cases hx : aff c with
    | none => rw [hx] at hsh'; simp at hsh'
    | some x => exact haff x hx ha (ht (.inl ha)) l hm
  · rfl

/-- Raising a fault writes no register. -/
theorem raise_frame (s : State) (c : Cur) (f : FaultInfo) (o : Op) (wide : Bool) (h : s.current = some c) :
    LaneFrame s (raise c f s) c o wide := by
  have k : Keeps 0 0 s (raise c f s) := Keeps.raise c f s
  have hr : regsAfter (raise c f s) c = c.grp.r := by
    unfold regsAfter
    rw [k.regs, State.groupRegs, (State.current_spec h).2.1]; rfl
  exact ⟨k.rest, k.dev, fun ht k' _ => k.mem ht k' (by omega), fun u i _ => k.regs u i,
    by rw [hr]; exact ⟨fun _ _ => .rfl, fun _ _ => rfl, fun _ _ => rfl, fun _ _ => rfl, rfl, rfl, rfl, rfl, rfl⟩⟩

theorem sameRest_modCur (s : State) (c : Cur) (w : Group → Group) : SameRest s (s.modCur c w) :=
  ⟨rfl, rfl, rfl, rfl, rfl, rfl, rfl, rfl, rfl, rfl, rfl, rfl⟩

/-- The frame of an instruction that writes its group's registers by `w` and falls through. -/
theorem finish_frame {s : State} {c : Cur} (h : s.current = some c) (o : Op) (wide : Bool) (w : Group → Group)
    (hw : ∀ g, (w g).gid = g.gid ∧ (w g).pa = g.pa ∧ (w g).pb = g.pb) (hm : WritesOnly s c o wide (w c.grp).r) :
    LaneFrame s (finish c o (s.modCur c w)) c o wide := by
  have k := finish_write h o w hw
  refine ⟨(sameRest_modCur s c w).trans k.rest, fun ht => k.dev ht, fun ht j hj => ?_, fun u i hu => ?_, ?_⟩
  · exact k.mem ht j (by unfold inStack at hj; omega)
  · exact groupRegs_finish_write h o w hw u i hu
  · rw [regsAfter_finish_write h o w hw]; exact hm

/-- The frame of a lane-wise instruction, whether its checks pass or not. -/
theorem issueLanes_frame {s : State} {c : Cur} (h : s.current = some c) {opc : BitVec 10} {o : Op} {wide : Bool}
    {aff : Cur → Option (Word × Word)} {f : Cur → Nat → Nat} {t : State} (ht : issueLanes opc o s wide aff f = .next t) :
    LaneFrame s t c o wide := by
  unfold issueLanes issuePlain at ht
  rcases issue_cases h opc o _ _ with ⟨f', -, hf⟩ | ⟨-, hf⟩
  · rw [hf] at ht; cases ht; exact raise_frame s c f' o wide h
  · rw [hf] at ht; cases ht
    exact finish_frame h o wide _ (writeResult_keep s c o wide (aff c) (f c)) (writeResult_only s c o wide (aff c) (f c))

end Sys2Proof.Machine
end

