-- ==== Sys2Proof/Laws/PerInstr.lean ====
section
/-! SUPPORT. Per instruction: a well-formed instruction that has words is the one its opcode and fields name, so that the
decoder's last step finds it again; a step without words has none (R339, R363). -/

namespace Sys2Proof.Laws.Encoding
open Sys2Proof

/-- The opcode and fields of a well-formed instruction name that instruction. -/
def Statement (i : Instr) : Prop :=
  i.wf = true → ∀ opc o, i.parts = some (opc, o) → Instr.ofOp opc o = some i

/-- BAR's two instructions of one opcode are told apart by SCOPE (R439, R440). -/
theorem barScope {i : Instr} (h : i.wf = true) {opc : BitVec 10} {o : Op} (hp : i.parts = some (opc, o)) :
    i.barScopeOk = true := by
  simp only [Instr.wf, Instr.bad, hp] at h
  cases hb : i.barScopeOk with
  | true => rfl
  | false => simp [hb] at h

theorem nop (o : Op) : Statement (.nop o) := by intro _ _ _ h; cases h; rfl
theorem bra (o : Op) : Statement (.bra o) := by intro _ _ _ h; cases h; rfl
theorem braD (o : Op) : Statement (.braD o) := by intro _ _ _ h; cases h; rfl
theorem jmpi (o : Op) : Statement (.jmpi o) := by intro _ _ _ h; cases h; rfl
theorem join (o : Op) : Statement (.join o) := by intro _ _ _ h; cases h; rfl
theorem call (o : Op) : Statement (.call o) := by intro _ _ _ h; cases h; rfl
theorem calli (o : Op) : Statement (.calli o) := by intro _ _ _ h; cases h; rfl
theorem ret (o : Op) : Statement (.ret o) := by intro _ _ _ h; cases h; rfl
theorem pad (o : Op) : Statement (.pad o) := by intro _ _ _ h; cases h; rfl
theorem exit (o : Op) : Statement (.exit o) := by intro _ _ _ h; cases h; rfl
theorem loop (o : Op) : Statement (.loop o) := by intro _ _ _ h; cases h; rfl
theorem lend (o : Op) : Statement (.lend o) := by intro _ _ _ h; cases h; rfl
theorem meld (o : Op) : Statement (.meld o) := by intro _ _ _ h; cases h; rfl
theorem endm (o : Op) : Statement (.endm o) := by intro _ _ _ h; cases h; rfl
theorem mloop (o : Op) : Statement (.mloop o) := by intro _ _ _ h; cases h; rfl
theorem mnext (o : Op) : Statement (.mnext o) := by intro _ _ _ h; cases h; rfl
theorem pand (o : Op) : Statement (.pand o) := by intro _ _ _ h; cases h; rfl
theorem por (o : Op) : Statement (.por o) := by intro _ _ _ h; cases h; rfl
theorem pxor (o : Op) : Statement (.pxor o) := by intro _ _ _ h; cases h; rfl
theorem pandn (o : Op) : Statement (.pandn o) := by intro _ _ _ h; cases h; rfl
theorem pnot (o : Op) : Statement (.pnot o) := by intro _ _ _ h; cases h; rfl
theorem pmov (o : Op) : Statement (.pmov o) := by intro _ _ _ h; cases h; rfl
theorem pfrom (o : Op) : Statement (.pfrom o) := by intro _ _ _ h; cases h; rfl
theorem pto (o : Op) : Statement (.pto o) := by intro _ _ _ h; cases h; rfl
theorem voteAll (o : Op) : Statement (.voteAll o) := by intro _ _ _ h; cases h; rfl
theorem voteAny (o : Op) : Statement (.voteAny o) := by intro _ _ _ h; cases h; rfl
theorem voteUni (o : Op) : Statement (.voteUni o) := by intro _ _ _ h; cases h; rfl
theorem ballot (o : Op) : Statement (.ballot o) := by intro _ _ _ h; cases h; rfl
theorem pcnt (o : Op) : Statement (.pcnt o) := by intro _ _ _ h; cases h; rfl
theorem pfirst (o : Op) : Statement (.pfirst o) := by intro _ _ _ h; cases h; rfl
theorem trap (o : Op) : Statement (.trap o) := by intro _ _ _ h; cases h; rfl
theorem yield (o : Op) : Statement (.yield o) := by intro _ _ _ h; cases h; rfl
theorem sleep (o : Op) : Statement (.sleep o) := by intro _ _ _ h; cases h; rfl
theorem brk (o : Op) : Statement (.brk o) := by intro _ _ _ h; cases h; rfl
theorem add (o : Op) : Statement (.add o) := by intro _ _ _ h; cases h; rfl
theorem sub (o : Op) : Statement (.sub o) := by intro _ _ _ h; cases h; rfl
theorem mul (o : Op) : Statement (.mul o) := by intro _ _ _ h; cases h; rfl
theorem mulh (o : Op) : Statement (.mulh o) := by intro _ _ _ h; cases h; rfl
theorem mad (o : Op) : Statement (.mad o) := by intro _ _ _ h; cases h; rfl
theorem sha (o : Op) : Statement (.sha o) := by intro _ _ _ h; cases h; rfl
theorem div (o : Op) : Statement (.div o) := by intro _ _ _ h; cases h; rfl
theorem rem (o : Op) : Statement (.rem o) := by intro _ _ _ h; cases h; rfl
theorem min (o : Op) : Statement (.min o) := by intro _ _ _ h; cases h; rfl
theorem max (o : Op) : Statement (.max o) := by intro _ _ _ h; cases h; rfl
theorem abs (o : Op) : Statement (.abs o) := by intro _ _ _ h; cases h; rfl
theorem neg (o : Op) : Statement (.neg o) := by intro _ _ _ h; cases h; rfl
theorem clamp (o : Op) : Statement (.clamp o) := by intro _ _ _ h; cases h; rfl
theorem andd (o : Op) : Statement (.andd o) := by intro _ _ _ h; cases h; rfl
theorem orr (o : Op) : Statement (.orr o) := by intro _ _ _ h; cases h; rfl
theorem xorr (o : Op) : Statement (.xorr o) := by intro _ _ _ h; cases h; rfl
theorem nott (o : Op) : Statement (.nott o) := by intro _ _ _ h; cases h; rfl
theorem andn (o : Op) : Statement (.andn o) := by intro _ _ _ h; cases h; rfl
theorem shl (o : Op) : Statement (.shl o) := by intro _ _ _ h; cases h; rfl
theorem shr (o : Op) : Statement (.shr o) := by intro _ _ _ h; cases h; rfl
theorem sar (o : Op) : Statement (.sar o) := by intro _ _ _ h; cases h; rfl
theorem rol (o : Op) : Statement (.rol o) := by intro _ _ _ h; cases h; rfl
theorem bfx (o : Op) : Statement (.bfx o) := by intro _ _ _ h; cases h; rfl
theorem bfi (o : Op) : Statement (.bfi o) := by intro _ _ _ h; cases h; rfl
theorem popc (o : Op) : Statement (.popc o) := by intro _ _ _ h; cases h; rfl
theorem clz (o : Op) : Statement (.clz o) := by intro _ _ _ h; cases h; rfl
theorem brev (o : Op) : Statement (.brev o) := by intro _ _ _ h; cases h; rfl
theorem cmp (o : Op) : Statement (.cmp o) := by intro _ _ _ h; cases h; rfl
theorem sel (o : Op) : Statement (.sel o) := by intro _ _ _ h; cases h; rfl
theorem mov (o : Op) : Statement (.mov o) := by intro _ _ _ h; cases h; rfl
theorem shflIdx (o : Op) : Statement (.shflIdx o) := by intro _ _ _ h; cases h; rfl
theorem shflUp (o : Op) : Statement (.shflUp o) := by intro _ _ _ h; cases h; rfl
theorem shflDn (o : Op) : Statement (.shflDn o) := by intro _ _ _ h; cases h; rfl
theorem shflXor (o : Op) : Statement (.shflXor o) := by intro _ _ _ h; cases h; rfl
theorem bcast (o : Op) : Statement (.bcast o) := by intro _ _ _ h; cases h; rfl
theorem prmt (o : Op) : Statement (.prmt o) := by intro _ _ _ h; cases h; rfl
theorem dot4 (o : Op) : Statement (.dot4 o) := by intro _ _ _ h; cases h; rfl
theorem lane (o : Op) : Statement (.lane o) := by intro _ _ _ h; cases h; rfl
theorem rdlane (o : Op) : Statement (.rdlane o) := by intro _ _ _ h; cases h; rfl
theorem wrlane (o : Op) : Statement (.wrlane o) := by intro _ _ _ h; cases h; rfl
theorem fadd (o : Op) : Statement (.fadd o) := by intro _ _ _ h; cases h; rfl
theorem fsub (o : Op) : Statement (.fsub o) := by intro _ _ _ h; cases h; rfl
theorem fmul (o : Op) : Statement (.fmul o) := by intro _ _ _ h; cases h; rfl
theorem fma (o : Op) : Statement (.fma o) := by intro _ _ _ h; cases h; rfl
theorem fmin (o : Op) : Statement (.fmin o) := by intro _ _ _ h; cases h; rfl
theorem fmax (o : Op) : Statement (.fmax o) := by intro _ _ _ h; cases h; rfl
theorem fabs (o : Op) : Statement (.fabs o) := by intro _ _ _ h; cases h; rfl
theorem fneg (o : Op) : Statement (.fneg o) := by intro _ _ _ h; cases h; rfl
theorem fcmp (o : Op) : Statement (.fcmp o) := by intro _ _ _ h; cases h; rfl
theorem fclass (o : Op) : Statement (.fclass o) := by intro _ _ _ h; cases h; rfl
theorem fsgn (o : Op) : Statement (.fsgn o) := by intro _ _ _ h; cases h; rfl
theorem fldx (o : Op) : Statement (.fldx o) := by intro _ _ _ h; cases h; rfl
theorem frnd (o : Op) : Statement (.frnd o) := by intro _ _ _ h; cases h; rfl
theorem fdot2 (o : Op) : Statement (.fdot2 o) := by intro _ _ _ h; cases h; rfl
theorem rcp (o : Op) : Statement (.rcp o) := by intro _ _ _ h; cases h; rfl
theorem rsq (o : Op) : Statement (.rsq o) := by intro _ _ _ h; cases h; rfl
theorem sqrt (o : Op) : Statement (.sqrt o) := by intro _ _ _ h; cases h; rfl
theorem exp2 (o : Op) : Statement (.exp2 o) := by intro _ _ _ h; cases h; rfl
theorem log2 (o : Op) : Statement (.log2 o) := by intro _ _ _ h; cases h; rfl
theorem tanh (o : Op) : Statement (.tanh o) := by intro _ _ _ h; cases h; rfl
theorem cvt (o : Op) : Statement (.cvt o) := by intro _ _ _ h; cases h; rfl
theorem cvti (o : Op) : Statement (.cvti o) := by intro _ _ _ h; cases h; rfl
theorem cvtf (o : Op) : Statement (.cvtf o) := by intro _ _ _ h; cases h; rfl
theorem cvts (o : Op) : Statement (.cvts o) := by intro _ _ _ h; cases h; rfl
theorem cvtd (o : Op) : Statement (.cvtd o) := by intro _ _ _ h; cases h; rfl
theorem pack (o : Op) : Statement (.pack o) := by intro _ _ _ h; cases h; rfl
theorem unpk (o : Op) : Statement (.unpk o) := by intro _ _ _ h; cases h; rfl
theorem scale (o : Op) : Statement (.scale o) := by intro _ _ _ h; cases h; rfl
theorem vamax (o : Op) : Statement (.vamax o) := by intro _ _ _ h; cases h; rfl
theorem spsel (o : Op) : Statement (.spsel o) := by intro _ _ _ h; cases h; rfl
theorem redadd (o : Op) : Statement (.redadd o) := by intro _ _ _ h; cases h; rfl
theorem redmin (o : Op) : Statement (.redmin o) := by intro _ _ _ h; cases h; rfl
theorem redmax (o : Op) : Statement (.redmax o) := by intro _ _ _ h; cases h; rfl
theorem redand (o : Op) : Statement (.redand o) := by intro _ _ _ h; cases h; rfl
theorem redor (o : Op) : Statement (.redor o) := by intro _ _ _ h; cases h; rfl
theorem redxor (o : Op) : Statement (.redxor o) := by intro _ _ _ h; cases h; rfl
theorem ld (o : Op) : Statement (.ld o) := by intro _ _ _ h; cases h; rfl
theorem st (o : Op) : Statement (.st o) := by intro _ _ _ h; cases h; rfl
theorem gath (o : Op) : Statement (.gath o) := by intro _ _ _ h; cases h; rfl
theorem scat (o : Op) : Statement (.scat o) := by intro _ _ _ h; cases h; rfl
theorem prf (o : Op) : Statement (.prf o) := by intro _ _ _ h; cases h; rfl
theorem ldu (o : Op) : Statement (.ldu o) := by intro _ _ _ h; cases h; rfl
theorem ldt (o : Op) : Statement (.ldt o) := by intro _ _ _ h; cases h; rfl
theorem stt (o : Op) : Statement (.stt o) := by intro _ _ _ h; cases h; rfl
theorem aadd (o : Op) : Statement (.aadd o) := by intro _ _ _ h; cases h; rfl
theorem amin (o : Op) : Statement (.amin o) := by intro _ _ _ h; cases h; rfl
theorem amax (o : Op) : Statement (.amax o) := by intro _ _ _ h; cases h; rfl
theorem aand (o : Op) : Statement (.aand o) := by intro _ _ _ h; cases h; rfl
theorem aor (o : Op) : Statement (.aor o) := by intro _ _ _ h; cases h; rfl
theorem axor (o : Op) : Statement (.axor o) := by intro _ _ _ h; cases h; rfl
theorem axch (o : Op) : Statement (.axch o) := by intro _ _ _ h; cases h; rfl
theorem acas (o : Op) : Statement (.acas o) := by intro _ _ _ h; cases h; rfl
theorem amaxr (o : Op) : Statement (.amaxr o) := by intro _ _ _ h; cases h; rfl
theorem fence (o : Op) : Statement (.fence o) := by intro _ _ _ h; cases h; rfl
theorem cbar (o : Op) : Statement (.cbar o) := by intro _ _ _ h; cases h; rfl
theorem arrive (o : Op) : Statement (.arrive o) := by intro _ _ _ h; cases h; rfl
theorem waitp (o : Op) : Statement (.waitp o) := by intro _ _ _ h; cases h; rfl
theorem arwt (o : Op) : Statement (.arwt o) := by intro _ _ _ h; cases h; rfl
theorem barBlk (o : Op) : Statement (.barBlk o) := by
  intro hw opc o' h
  have hs := barScope hw h
  cases h
  simp only [Instr.barScopeOk, beq_iff_eq] at hs
  show (if o.scope = 1 then some (Instr.barBlk o) else if o.scope = 2 then some (Instr.barClu o) else none) = _
  rw [if_pos hs]
theorem barClu (o : Op) : Statement (.barClu o) := by
  intro hw opc o' h
  have hs := barScope hw h
  cases h
  simp only [Instr.barScopeOk, beq_iff_eq] at hs
  show (if o.scope = 1 then some (Instr.barBlk o) else if o.scope = 2 then some (Instr.barClu o) else none) = _
  rw [if_neg (by rw [hs]; decide), if_pos hs]
theorem waitn (o : Op) : Statement (.waitn o) := by intro _ _ _ h; cases h; rfl
theorem waitmem (o : Op) : Statement (.waitmem o) := by intro _ _ _ h; cases h; rfl
theorem mile (o : Op) : Statement (.mile o) := by intro _ _ _ h; cases h; rfl
theorem invl1 (o : Op) : Statement (.invl1 o) := by intro _ _ _ h; cases h; rfl
theorem mstat (o : Op) : Statement (.mstat o) := by intro _ _ _ h; cases h; rfl
theorem mswap (o : Op) : Statement (.mswap o) := by intro _ _ _ h; cases h; rfl
theorem mswapRel (o : Op) : Statement (.mswapRel o) := by intro _ _ _ h; cases h; rfl
theorem mstream (o : Op) : Statement (.mstream o) := by intro _ _ _ h; cases h; rfl
theorem mdrain (o : Op) : Statement (.mdrain o) := by intro _ _ _ h; cases h; rfl
theorem mdrainFold (o : Op) : Statement (.mdrainFold o) := by intro _ _ _ h; cases h; rfl
theorem mfold (o : Op) : Statement (.mfold o) := by intro _ _ _ h; cases h; rfl
theorem mzero (o : Op) : Statement (.mzero o) := by intro _ _ _ h; cases h; rfl
theorem qmma (o : Op) : Statement (.qmma o) := by intro _ _ _ h; cases h; rfl
theorem qmov (o : Op) : Statement (.qmov o) := by intro _ _ _ h; cases h; rfl
theorem qzero (o : Op) : Statement (.qzero o) := by intro _ _ _ h; cases h; rfl
theorem qfold (o : Op) : Statement (.qfold o) := by intro _ _ _ h; cases h; rfl
theorem copy (o : Op) : Statement (.copy o) := by intro _ _ _ h; cases h; rfl
theorem copyr (o : Op) : Statement (.copyr o) := by intro _ _ _ h; cases h; rfl
theorem nest (o : Op) : Statement (.nest o) := by intro _ _ _ h; cases h; rfl
theorem lbuf (o : Op) : Statement (.lbuf o) := by intro _ _ _ h; cases h; rfl
theorem mpath (o : Op) : Statement (.mpath o) := by intro _ _ _ h; cases h; rfl
theorem bmap (o : Op) : Statement (.bmap o) := by intro _ _ _ h; cases h; rfl
theorem bpack (o : Op) : Statement (.bpack o) := by intro _ _ _ h; cases h; rfl
theorem tset (o : Op) : Statement (.tset o) := by intro _ _ _ h; cases h; rfl
theorem tand (o : Op) : Statement (.tand o) := by intro _ _ _ h; cases h; rfl
theorem tor (o : Op) : Statement (.tor o) := by intro _ _ _ h; cases h; rfl
theorem tnot (o : Op) : Statement (.tnot o) := by intro _ _ _ h; cases h; rfl
theorem tmov (o : Op) : Statement (.tmov o) := by intro _ _ _ h; cases h; rfl
theorem launch (o : Op) : Statement (.launch o) := by intro _ _ _ h; cases h; rfl
theorem lwait (o : Op) : Statement (.lwait o) := by intro _ _ _ h; cases h; rfl
theorem lcancel (o : Op) : Statement (.lcancel o) := by intro _ _ _ h; cases h; rfl
theorem hitch (o : Op) : Statement (.hitch o) := by intro _ _ _ h; cases h; rfl
theorem rdsr (o : Op) : Statement (.rdsr o) := by intro _ _ _ h; cases h; rfl
theorem wrsr (o : Op) : Statement (.wrsr o) := by intro _ _ _ h; cases h; rfl
theorem feat (o : Op) : Statement (.feat o) := by intro _ _ _ h; cases h; rfl
theorem powerOnReset : Statement .powerOnReset := by intro _ _ _ h; cases h
theorem bootGo : Statement .bootGo := by intro _ _ _ h; cases h
theorem measurementExtend : Statement .measurementExtend := by intro _ _ _ h; cases h
theorem fwcWdogWrite : Statement .fwcWdogWrite := by intro _ _ _ h; cases h
theorem serviceWatchdogExpiry : Statement .serviceWatchdogExpiry := by intro _ _ _ h; cases h
theorem controlWatchdogExpiry : Statement .controlWatchdogExpiry := by intro _ _ _ h; cases h
theorem semaphoreAcquire : Statement .semaphoreAcquire := by intro _ _ _ h; cases h
theorem semaphoreRelease : Statement .semaphoreRelease := by intro _ _ _ h; cases h
theorem registerWrite : Statement .registerWrite := by intro _ _ _ h; cases h
theorem registerReadClear : Statement .registerReadClear := by intro _ _ _ h; cases h
theorem pwrVclWrite : Statement .pwrVclWrite := by intro _ _ _ h; cases h
theorem pwrVtailWrite : Statement .pwrVtailWrite := by intro _ _ _ h; cases h
theorem clkClfWrite : Statement .clkClfWrite := by intro _ _ _ h; cases h
theorem pwrCstatHoldWrite : Statement .pwrCstatHoldWrite := by intro _ _ _ h; cases h
theorem cxaCadWrite : Statement .cxaCadWrite := by intro _ _ _ h; cases h
theorem pwrPlimWrite : Statement .pwrPlimWrite := by intro _ _ _ h; cases h
theorem gtickStart : Statement .gtickStart := by intro _ _ _ h; cases h
theorem regulatorSlewDone : Statement .regulatorSlewDone := by intro _ _ _ h; cases h
theorem pllLock : Statement .pllLock := by intro _ _ _ h; cases h
theorem powerLimiterTick : Statement .powerLimiterTick := by intro _ _ _ h; cases h
theorem supplyDroop : Statement .supplyDroop := by intro _ _ _ h; cases h
theorem sensorSample : Statement .sensorSample := by intro _ _ _ h; cases h
theorem migrationRetry : Statement .migrationRetry := by intro _ _ _ h; cases h
theorem bandwidthInterval : Statement .bandwidthInterval := by intro _ _ _ h; cases h
theorem hbmStackReset : Statement .hbmStackReset := by intro _ _ _ h; cases h
theorem hbmCaTraining : Statement .hbmCaTraining := by intro _ _ _ h; cases h
theorem hbmLaneRepair : Statement .hbmLaneRepair := by intro _ _ _ h; cases h
theorem hbmReadTraining : Statement .hbmReadTraining := by intro _ _ _ h; cases h
theorem hbmWriteTraining : Statement .hbmWriteTraining := by intro _ _ _ h; cases h
theorem hbmVrefSweep : Statement .hbmVrefSweep := by intro _ _ _ h; cases h
theorem hbmOperational : Statement .hbmOperational := by intro _ _ _ h; cases h
theorem hbmTrainingStepDone : Statement .hbmTrainingStepDone := by intro _ _ _ h; cases h
theorem uciePortEnable : Statement .uciePortEnable := by intro _ _ _ h; cases h
theorem uciePortReset : Statement .uciePortReset := by intro _ _ _ h; cases h
theorem ucieTrainingDone : Statement .ucieTrainingDone := by intro _ _ _ h; cases h
theorem ucieLinkDown : Statement .ucieLinkDown := by intro _ _ _ h; cases h
theorem ucieSidebandMessage : Statement .ucieSidebandMessage := by intro _ _ _ h; cases h
theorem ucieUnknownMessage : Statement .ucieUnknownMessage := by intro _ _ _ h; cases h
theorem hostRd : Statement .hostRd := by intro _ _ _ h; cases h
theorem hostWr : Statement .hostWr := by intro _ _ _ h; cases h
theorem hostWake : Statement .hostWake := by intro _ _ _ h; cases h
theorem cxlResponse : Statement .cxlResponse := by intro _ _ _ h; cases h
theorem cxlRequestTimeout : Statement .cxlRequestTimeout := by intro _ _ _ h; cases h
theorem cplrPortEnable : Statement .cplrPortEnable := by intro _ _ _ h; cases h
theorem cplrPortDisable : Statement .cplrPortDisable := by intro _ _ _ h; cases h
theorem cplrLoopback : Statement .cplrLoopback := by intro _ _ _ h; cases h
theorem cplrVlthrWrite : Statement .cplrVlthrWrite := by intro _ _ _ h; cases h
theorem cplrReceiverDetect : Statement .cplrReceiverDetect := by intro _ _ _ h; cases h
theorem cplrDetectTimeout : Statement .cplrDetectTimeout := by intro _ _ _ h; cases h
theorem cplrBitLock : Statement .cplrBitLock := by intro _ _ _ h; cases h
theorem cplrDeskew : Statement .cplrDeskew := by intro _ _ _ h; cases h
theorem cplrEqualised : Statement .cplrEqualised := by intro _ _ _ h; cases h
theorem cplrIdentityExchange : Statement .cplrIdentityExchange := by intro _ _ _ h; cases h
theorem cplrLossOfLock : Statement .cplrLossOfLock := by intro _ _ _ h; cases h
theorem cplrRetrainDone : Statement .cplrRetrainDone := by intro _ _ _ h; cases h
theorem cplrRetrainTimeout : Statement .cplrRetrainTimeout := by intro _ _ _ h; cases h
theorem dataFlitSend : Statement .dataFlitSend := by intro _ _ _ h; cases h
theorem idleFlitSend : Statement .idleFlitSend := by intro _ _ _ h; cases h
theorem flitReceive : Statement .flitReceive := by intro _ _ _ h; cases h
theorem gtickAlignSend : Statement .gtickAlignSend := by intro _ _ _ h; cases h
theorem gtickAlignReceive : Statement .gtickAlignReceive := by intro _ _ _ h; cases h
theorem homeAccess : Statement .homeAccess := by intro _ _ _ h; cases h
theorem accessRsp : Statement .accessRsp := by intro _ _ _ h; cases h
theorem accessAck : Statement .accessAck := by intro _ _ _ h; cases h
theorem accessErr : Statement .accessErr := by intro _ _ _ h; cases h
theorem e2eTimeout : Statement .e2eTimeout := by intro _ _ _ h; cases h
theorem deferReceive : Statement .deferReceive := by intro _ _ _ h; cases h
theorem sideLogReplay : Statement .sideLogReplay := by intro _ _ _ h; cases h
theorem replayDoneMarker : Statement .replayDoneMarker := by intro _ _ _ h; cases h
theorem parkTimeout : Statement .parkTimeout := by intro _ _ _ h; cases h
theorem sideLogTimeout : Statement .sideLogTimeout := by intro _ _ _ h; cases h
theorem sideLogFullTimeout : Statement .sideLogFullTimeout := by intro _ _ _ h; cases h
theorem tlbWritebackTimer : Statement .tlbWritebackTimer := by intro _ _ _ h; cases h
theorem epochAdvance : Statement .epochAdvance := by intro _ _ _ h; cases h
theorem sidingRelease : Statement .sidingRelease := by intro _ _ _ h; cases h
theorem shootdownInvalidate : Statement .shootdownInvalidate := by intro _ _ _ h; cases h
theorem xltRootWrite : Statement .xltRootWrite := by intro _ _ _ h; cases h
theorem xltHringWrite : Statement .xltHringWrite := by intro _ _ _ h; cases h
theorem xltHheadWrite : Statement .xltHheadWrite := by intro _ _ _ h; cases h
theorem fwcElogWrite : Statement .fwcElogWrite := by intro _ _ _ h; cases h
theorem fwcElheadWrite : Statement .fwcElheadWrite := by intro _ _ _ h; cases h
theorem queCtlWrite : Statement .queCtlWrite := by intro _ _ _ h; cases h
theorem queBaseWrite : Statement .queBaseWrite := by intro _ _ _ h; cases h
theorem queueGo : Statement .queueGo := by intro _ _ _ h; cases h
theorem quantumExpiry : Statement .quantumExpiry := by intro _ _ _ h; cases h
theorem queueRead : Statement .queueRead := by intro _ _ _ h; cases h
theorem commandStart : Statement .commandStart := by intro _ _ _ h; cases h
theorem yelenoLaunch : Statement .yelenoLaunch := by intro _ _ _ h; cases h
theorem graph : Statement .graph := by intro _ _ _ h; cases h
theorem waitCmd : Statement .waitCmd := by intro _ _ _ h; cases h
theorem waitLimitExpiry : Statement .waitLimitExpiry := by intro _ _ _ h; cases h
theorem cancel : Statement .cancel := by intro _ _ _ h; cases h
theorem mapCmd : Statement .mapCmd := by intro _ _ _ h; cases h
theorem unmapCmd : Statement .unmapCmd := by intro _ _ _ h; cases h
theorem harvest : Statement .harvest := by intro _ _ _ h; cases h
theorem shootdown : Statement .shootdown := by intro _ _ _ h; cases h
theorem wload : Statement .wload := by intro _ _ _ h; cases h
theorem quiesceHold : Statement .quiesceHold := by intro _ _ _ h; cases h
theorem quiesceRelease : Statement .quiesceRelease := by intro _ _ _ h; cases h
theorem partitionCmd : Statement .partitionCmd := by intro _ _ _ h; cases h
theorem readCounters : Statement .readCounters := by intro _ _ _ h; cases h
theorem attest : Statement .attest := by intro _ _ _ h; cases h
theorem dspLmapWrite : Statement .dspLmapWrite := by intro _ _ _ h; cases h
theorem launchRequest : Statement .launchRequest := by intro _ _ _ h; cases h
theorem reserveStart : Statement .reserveStart := by intro _ _ _ h; cases h
theorem packageReserve : Statement .packageReserve := by intro _ _ _ h; cases h
theorem dieReserve : Statement .dieReserve := by intro _ _ _ h; cases h
theorem dieAnswer : Statement .dieAnswer := by intro _ _ _ h; cases h
theorem packageAnswer : Statement .packageAnswer := by intro _ _ _ h; cases h
theorem reserveTimeout : Statement .reserveTimeout := by intro _ _ _ h; cases h
theorem commitMsg : Statement .commitMsg := by intro _ _ _ h; cases h
theorem rollbackMsg : Statement .rollbackMsg := by intro _ _ _ h; cases h
theorem relayHoldTimeout : Statement .relayHoldTimeout := by intro _ _ _ h; cases h
theorem launchlostReport : Statement .launchlostReport := by intro _ _ _ h; cases h
theorem walkerStart : Statement .walkerStart := by intro _ _ _ h; cases h
theorem placementAttempt : Statement .placementAttempt := by intro _ _ _ h; cases h
theorem workReaskTimer : Statement .workReaskTimer := by intro _ _ _ h; cases h
theorem split : Statement .split := by intro _ _ _ h; cases h
theorem rangeReceive : Statement .rangeReceive := by intro _ _ _ h; cases h
theorem stallTimeout : Statement .stallTimeout := by intro _ _ _ h; cases h
theorem tileCountReport : Statement .tileCountReport := by intro _ _ _ h; cases h
theorem tileCountUpdate : Statement .tileCountUpdate := by intro _ _ _ h; cases h
theorem launchDoneWrite : Statement .launchDoneWrite := by intro _ _ _ h; cases h
theorem cancelMsg : Statement .cancelMsg := by intro _ _ _ h; cases h
theorem cancelledBlockRemove : Statement .cancelledBlockRemove := by intro _ _ _ h; cases h
theorem faultSummary : Statement .faultSummary := by intro _ _ _ h; cases h
theorem launchStatusReturn : Statement .launchStatusReturn := by intro _ _ _ h; cases h
theorem runGrant : Statement .runGrant := by intro _ _ _ h; cases h
theorem groupDue : Statement .groupDue := by intro _ _ _ h; cases h
theorem longResultReturn : Statement .longResultReturn := by intro _ _ _ h; cases h
theorem faultBlockEnd : Statement .faultBlockEnd := by intro _ _ _ h; cases h
theorem blockRetire : Statement .blockRetire := by intro _ _ _ h; cases h
theorem preemptionStopComplete : Statement .preemptionStopComplete := by intro _ _ _ h; cases h
theorem migrationTransfer : Statement .migrationTransfer := by intro _ _ _ h; cases h
theorem depotSend : Statement .depotSend := by intro _ _ _ h; cases h
theorem promoteReceive : Statement .promoteReceive := by intro _ _ _ h; cases h
theorem promoteAck : Statement .promoteAck := by intro _ _ _ h; cases h
theorem copyBeatDeliver : Statement .copyBeatDeliver := by intro _ _ _ h; cases h
theorem copyDescriptorComplete : Statement .copyDescriptorComplete := by intro _ _ _ h; cases h
theorem bookingGrant : Statement .bookingGrant := by intro _ _ _ h; cases h
theorem arrayOpComplete : Statement .arrayOpComplete := by intro _ _ _ h; cases h
theorem wsWindowEnd : Statement .wsWindowEnd := by intro _ _ _ h; cases h
theorem qmuOpComplete : Statement .qmuOpComplete := by intro _ _ _ h; cases h
theorem nestComplete : Statement .nestComplete := by intro _ _ _ h; cases h
theorem mpathComplete : Statement .mpathComplete := by intro _ _ _ h; cases h
theorem memoryWaitRecheck : Statement .memoryWaitRecheck := by intro _ _ _ h; cases h
theorem sleepExpiry : Statement .sleepExpiry := by intro _ _ _ h; cases h
theorem eventCounterSelect : Statement .eventCounterSelect := by intro _ _ _ h; cases h
theorem laneCycleRangeWrite : Statement .laneCycleRangeWrite := by intro _ _ _ h; cases h
theorem fidInject : Statement .fidInject := by intro _ _ _ h; cases h
theorem stopArm : Statement .stopArm := by intro _ _ _ h; cases h
theorem stopTargetWrite : Statement .stopTargetWrite := by intro _ _ _ h; cases h
theorem stopArmMsg : Statement .stopArmMsg := by intro _ _ _ h; cases h
theorem stopFire : Statement .stopFire := by intro _ _ _ h; cases h
theorem watchHitReport : Statement .watchHitReport := by intro _ _ _ h; cases h
theorem traceRecordDrop : Statement .traceRecordDrop := by intro _ _ _ h; cases h
theorem fuseProgramming : Statement .fuseProgramming := by intro _ _ _ h; cases h
theorem bringUpFailure : Statement .bringUpFailure := by intro _ _ _ h; cases h
theorem firmwareReady : Statement .firmwareReady := by intro _ _ _ h; cases h
theorem vsrSupplyChange : Statement .vsrSupplyChange := by intro _ _ _ h; cases h
theorem referenceClockChange : Statement .referenceClockChange := by intro _ _ _ h; cases h
theorem cxlExpanderTraining : Statement .cxlExpanderTraining := by intro _ _ _ h; cases h

end Sys2Proof.Laws.Encoding
end

