-- ==== Sys2Proof/Laws/Preds.lean ====
section
/-! SUPPORT. Predicate results: what a predicate reads after `writePred`, and what stays. -/

namespace Sys2Proof.Machine
open Sys2Proof

theorem predOf_mod (g : Group) (n : Nat) : predOf g (n % 8) = predOf g n := by
  unfold predOf; rw [Nat.mod_mod]

theorem predOf_setPred (g : Group) (n : Nat) (x : Word) (m : Nat) :
    predOf (setPred g n x) m = if m % 8 = n % 8 ∧ n % 8 ≠ 7 then x else predOf g m := by
  unfold setPred predOf
  by_cases h7 : n % 8 = 7
  · simp [h7]
  · simp only [h7, if_false, FMap.get_set]
    by_cases hm : m % 8 = 7
    · have : ¬ (m % 8 = n % 8) := by omega
      rw [if_pos hm, if_neg (by omega), if_pos hm]
    · by_cases he : m % 8 = n % 8 <;> simp [hm, he, h7]

/-- One bit put into a word. -/
theorem getLsbD_putBit (old : Word) (b : Bool) (l j : Nat) (hl : l < 32) :
    (if b then old ||| (1#32 <<< l) else old &&& ~~~(1#32 <<< l)).getLsbD j = if j = l then b else old.getLsbD j := by
  have key : (1#32 <<< l).getLsbD j = decide (j = l) := by
    simp only [BitVec.getLsbD_shiftLeft, BitVec.getLsbD_one]
    by_cases h : j = l
    · subst h; simp [hl]
    · by_cases hj : j < 32
      · by_cases hlt : j < l
        · simp [hj, hlt, h]
        · have : j - l ≠ 0 := by omega
          simp [hj, hlt, h, this]
      · simp [hj, h]
  cases b
  · simp only [Bool.false_eq_true, if_false, BitVec.getLsbD_and, BitVec.getLsbD_not, key]
    by_cases h : j = l
    · simp [h]
    · by_cases hj : j < 32
      · simp [h, hj]
      · simp [h, hj, BitVec.getLsbD_of_ge old j (by omega)]
  · simp only [if_true, BitVec.getLsbD_or, key]
    by_cases h : j = l <;> simp [h]

/-- One lane of a predicate destination. -/
def putLane (d : Nat → Nat) (f : Nat → Bool) (g : Group) (l : Nat) : Group :=
  setPred g (d l) (if f l then predOf g (d l) ||| (1#32 <<< l) else predOf g (d l) &&& ~~~(1#32 <<< l))

theorem predOf_putLane (d : Nat → Nat) (f : Nat → Bool) (g : Group) (l n j : Nat) (hl : l < 32) :
    (predOf (putLane d f g l) n).getLsbD j =
      if n % 8 = d l % 8 ∧ j = l ∧ n % 8 ≠ 7 then f l else (predOf g n).getLsbD j := by
  unfold putLane
  rw [predOf_setPred]
  by_cases h : n % 8 = d l % 8 ∧ d l % 8 ≠ 7
  · rw [if_pos h, getLsbD_putBit _ _ _ _ hl]
    have e : predOf g (d l) = predOf g n := by rw [← predOf_mod g (d l), ← predOf_mod g n, h.1]
    rw [e]
    by_cases hj : j = l
    · simp [hj, h.1, h.2]
    · simp [hj]
  · rw [if_neg h, if_neg (by omega)]

theorem putLane_keep (d : Nat → Nat) (f : Nat → Bool) (g : Group) (l : Nat) :
    (putLane d f g l).gid = g.gid ∧ (putLane d f g l).pa = g.pa ∧ (putLane d f g l).pb = g.pb
      ∧ (putLane d f g l).r.v = g.r.v ∧ (putLane d f g l).r.a = g.r.a ∧ (putLane d f g l).r.s = g.r.s
      ∧ (putLane d f g l).r.t = g.r.t ∧ (putLane d f g l).r.macc = g.r.macc ∧ (putLane d f g l).r.mtail = g.r.mtail
      ∧ (putLane d f g l).r.muse = g.r.muse ∧ (putLane d f g l).r.bad = g.r.bad := by
  unfold putLane setPred
  split <;> exact ⟨rfl, rfl, rfl, rfl, rfl, rfl, rfl, rfl, rfl, rfl, rfl⟩

theorem foldPred (d : Nat → Nat) (f : Nat → Bool) (ls : List Nat) (hn : ls.Nodup) (hl : ∀ l ∈ ls, l < 32) :
    ∀ g : Group,
      (∀ l ∈ ls, (predOf (ls.foldl (putLane d f) g) (d l)).getLsbD l = (d l % 8 == 7 || f l))
      ∧ (∀ n j, j < 32 → ¬(j ∈ ls ∧ n % 8 = d j % 8) →
          (predOf (ls.foldl (putLane d f) g) n).getLsbD j = (predOf g n).getLsbD j)
      ∧ (ls.foldl (putLane d f) g).gid = g.gid ∧ (ls.foldl (putLane d f) g).pa = g.pa ∧ (ls.foldl (putLane d f) g).pb = g.pb
      ∧ (ls.foldl (putLane d f) g).r.v = g.r.v ∧ (ls.foldl (putLane d f) g).r.a = g.r.a
      ∧ (ls.foldl (putLane d f) g).r.s = g.r.s ∧ (ls.foldl (putLane d f) g).r.t = g.r.t
      ∧ (ls.foldl (putLane d f) g).r.macc = g.r.macc ∧ (ls.foldl (putLane d f) g).r.mtail = g.r.mtail
      ∧ (ls.foldl (putLane d f) g).r.muse = g.r.muse ∧ (ls.foldl (putLane d f) g).r.bad = g.r.bad := by
  induction ls with
  | nil => intro g; exact ⟨by simp, by simp, rfl, rfl, rfl, rfl, rfl, rfl, rfl, rfl, rfl, rfl, rfl⟩
  | cons a ls ih =>
    intro g
    simp only [List.nodup_cons] at hn
    have ha := hl a (List.mem_cons_self ..)
    obtain ⟨h1, h2, h3⟩ := ih hn.2 (fun l h => hl l (List.mem_cons_of_mem _ h)) (putLane d f g a)
    obtain ⟨k1, k2, k3, k4, k5, k6, k7, k8, k9, k10, k11⟩ := putLane_keep d f g a
    rw [k1, k2, k3, k4, k5, k6, k7, k8, k9, k10, k11] at h3
    simp only [List.foldl_cons]
    refine ⟨fun l hm => ?_, fun n j hj hnj => ?_, h3⟩
    · rcases List.mem_cons.mp hm with rfl | hm
      · rw [h2 (d l) l ha (fun h => hn.1 h.1), predOf_putLane _ _ _ _ _ _ ha]
        by_cases h7 : d l % 8 = 7
        · have : predOf g (d l) = 0xFFFFFFFF := by simp [predOf, h7]
          rw [if_neg (by omega), this, h7]
          have e : ∀ i, i < 32 → (0xFFFFFFFF : Word).getLsbD i = true := by decide
          simpa using e l ha
        · simp [h7]
      · exact h1 l hm
    · rw [h2 n j hj fun h => hnj ⟨List.mem_cons_of_mem _ h.1, h.2⟩, predOf_putLane _ _ _ _ _ _ ha]
      refine if_neg fun h => hnj ⟨?_, ?_⟩
      · rw [h.2.1]; exact List.mem_cons_self ..
      · rw [h.2.1]; exact h.1

theorem writePred_eq (s : State) (c : Cur) (o : Op) (f : Nat → Bool) (g : Group) :
    writePred s c o f g = (lanesOf (activeLanes s c o)).foldl (putLane (fun l => (setFor s c o l).d.toNat - 0xE0) f) g := rfl

theorem writePred_keep (s : State) (c : Cur) (o : Op) (f : Nat → Bool) (g : Group) :
    (writePred s c o f g).gid = g.gid ∧ (writePred s c o f g).pa = g.pa ∧ (writePred s c o f g).pb = g.pb := by
  rw [writePred_eq]
  have h := foldPred (fun l => (setFor s c o l).d.toNat - 0xE0) f (lanesOf (activeLanes s c o)) (lanesOf_nodup _)
    (fun l h => (mem_lanesOf.mp h).1) g
  exact ⟨h.2.2.1, h.2.2.2.1, h.2.2.2.2.1⟩

theorem predOf_regs (g h : Group) (he : g.r.p = h.r.p) (n : Nat) : predOf g n = predOf h n := by
  unfold predOf; rw [he]

/-- An instruction that writes a predicate: its result. -/
theorem issuePred_result {s : State} {c : Cur} {opc : BitVec 10} {o : Op} (h : Issues s c opc o) (f : Cur → Nat → Bool) :
    ∃ t, issuePlain opc o s (fun _ => []) (fun c s' => s'.modCur c (writePred s c o (f c))) = .next t
      ∧ PredIs s t c o (f c) := by
  refine ⟨_, issue_effect h.current _ h.checks (by simpa using h.join), fun l hl => ?_⟩
  have key := regsAfter_finish_write h.current o (writePred s c o (f c)) (writePred_keep s c o (f c))
  have hf := foldPred (fun l => (setFor s c o l).d.toNat - 0xE0) (f c) (lanesOf (activeLanes s c o)) (lanesOf_nodup _)
    (fun l h => (mem_lanesOf.mp h).1) c.grp
  have h1 := hf.1 l hl
  rw [← writePred_eq] at h1
  exact (congrArg (fun x : Word => x.getLsbD l) (predOf_regs _ _ (congrArg (fun r : Regs => r.p) key) _)).trans h1

/-- An instruction that writes a predicate: its frame, whether its checks pass or not. -/
theorem issuePred_frame {s : State} {c : Cur} (h : s.current = some c) {opc : BitVec 10} {o : Op} {f : Cur → Nat → Bool}
    {t : State} (ht : issuePlain opc o s (fun _ => []) (fun c s' => s'.modCur c (writePred s c o (f c))) = .next t) :
    PredFrame s t c o := by
  unfold issuePlain at ht
  rcases issue_cases h opc o _ _ with ⟨f', -, hf⟩ | ⟨-, hf⟩
  · rw [hf] at ht; cases ht
    have k := raise_frame s c f' o false h
    have hr : regsAfter (raise c f' s) c = c.grp.r := by
      unfold regsAfter
      rw [(Keeps.raise (lo := 0) (hi := 0) c f' s).regs, State.groupRegs, (State.current_spec h).2.1]; rfl
    exact ⟨k.rest, k.dev, k.mem, k.others, by rw [hr]; exact ⟨fun _ _ _ _ => rfl, rfl, rfl, rfl, rfl, rfl, rfl, rfl, rfl⟩⟩
  · rw [hf] at ht; cases ht
    have hw := writePred_keep s c o (f c)
    have k := finish_write h o (writePred s c o (f c)) hw
    have hfold := foldPred (fun l => (setFor s c o l).d.toNat - 0xE0) (f c) (lanesOf (activeLanes s c o)) (lanesOf_nodup _)
      (fun l h => (mem_lanesOf.mp h).1) c.grp
    refine ⟨(sameRest_modCur s c _).trans k.rest, fun ht => k.dev ht, fun ht j hj => k.mem ht j (by unfold inStack at hj; omega),
      fun u i hu => groupRegs_finish_write h o _ hw u i hu, ?_⟩
    rw [regsAfter_finish_write h o _ hw]
    refine ⟨fun n l hl hn => ?_, hfold.2.2.2.2.2.1, hfold.2.2.2.2.2.2.1, hfold.2.2.2.2.2.2.2.1, hfold.2.2.2.2.2.2.2.2.1,
      hfold.2.2.2.2.2.2.2.2.2.1, hfold.2.2.2.2.2.2.2.2.2.2.1, hfold.2.2.2.2.2.2.2.2.2.2.2.1, hfold.2.2.2.2.2.2.2.2.2.2.2.2⟩
    have := hfold.2.1 n l hl hn
    rw [← this, ← writePred_eq]
    exact congrArg (fun x : Word => x.getLsbD l) (predOf_regs _ _ rfl n)

end Sys2Proof.Machine
end

