-- ==== Sys2Proof/Laws/Shapes.lean ====
section
/-! SUPPORT. The lane-wise opcodes have a destination that `writeResult` writes. -/

namespace Sys2Proof.Machine
open Sys2Proof

/-- The integer instructions with a result of their type. -/
theorem laneShape_int {o : Op} {sh : Shape} {opc : BitVec 10}
    (hn : opc ∈ ([0x080, 0x081, 0x082, 0x083, 0x084, 0x085, 0x086, 0x087, 0x088, 0x089, 0x08A, 0x08B, 0x08C, 0x090, 0x091,
      0x092, 0x093, 0x094, 0x098, 0x099, 0x09A, 0x09B, 0x0A0, 0x0A1, 0x0A2, 0x0A3, 0x0A4, 0x0A9, 0x0AA, 0x0B6] : List (BitVec 10)))
    (h : shapeOf opc o = some sh) : LaneShape sh o.ty.is64 := by
  simp only [List.mem_cons, List.not_mem_nil, or_false] at hn
  rcases hn with rfl|rfl|rfl|rfl|rfl|rfl|rfl|rfl|rfl|rfl|rfl|rfl|rfl|rfl|rfl|rfl|rfl|rfl|rfl|rfl|rfl|rfl|rfl|rfl|rfl|rfl|rfl|rfl|rfl|rfl <;>
  · simp [shapeOf, familyOf, intShape] at h
    repeat' split at h
    all_goals (try (simp at h; done))
    all_goals (try simp at h)
    all_goals (try (obtain ⟨_, h⟩ := h))
    all_goals (try subst h)
    all_goals (simp [LaneShape, laneDest])

/-- The lane operations, whose result fills a lane. -/
theorem laneShape_lane {o : Op} {sh : Shape} {opc : BitVec 10}
    (hn : opc ∈ ([0x0B0, 0x0B1, 0x0B2, 0x0B3, 0x0B4, 0x0B5, 0x0B8, 0x0B9] : List (BitVec 10)))
    (h : shapeOf opc o = some sh) : LaneShape sh false := by
  simp only [List.mem_cons, List.not_mem_nil, or_false] at hn
  rcases hn with rfl|rfl|rfl|rfl|rfl|rfl|rfl|rfl <;>
  · simp [shapeOf, familyOf, intShape] at h
    repeat' split at h
    all_goals (try (simp at h; done))
    all_goals (try simp at h)
    all_goals (try (obtain ⟨_, h⟩ := h))
    all_goals (try subst h)
    all_goals (simp [LaneShape, laneDest])

/-- PTO and the votes that write a general register. -/
theorem laneShape_vote {o : Op} {sh : Shape} {opc : BitVec 10} (hn : opc ∈ ([0x01F, 0x023, 0x024, 0x025] : List (BitVec 10)))
    (h : shapeOf opc o = some sh) : LaneShape sh false := by
  simp only [List.mem_cons, List.not_mem_nil, or_false] at hn
  rcases hn with rfl|rfl|rfl|rfl <;>
  · simp [shapeOf, familyOf, ctlShape] at h
    obtain ⟨_, _, h⟩ := h
    subst h; simp [LaneShape, laneDest]

/-- The float instructions and the conversions. -/
theorem laneShape_float {o : Op} {sh : Shape} {opc : BitVec 10}
    (hn : opc ∈ ([0x100, 0x101, 0x102, 0x103, 0x104, 0x105, 0x106, 0x107, 0x109, 0x10A, 0x10B, 0x10C, 0x10D, 0x110, 0x111,
      0x112, 0x113, 0x114, 0x115, 0x118, 0x11A, 0x11B, 0x11C, 0x11D, 0x11E, 0x120, 0x121] : List (BitVec 10)))
    (h : shapeOf opc o = some sh) : LaneShape sh false := by
  simp only [List.mem_cons, List.not_mem_nil, or_false] at hn
  rcases hn with rfl|rfl|rfl|rfl|rfl|rfl|rfl|rfl|rfl|rfl|rfl|rfl|rfl|rfl|rfl|rfl|rfl|rfl|rfl|rfl|rfl|rfl|rfl|rfl|rfl|rfl|rfl <;>
  · simp [shapeOf, familyOf, fltShape] at h
    repeat' split at h
    all_goals (try (simp at h; done))
    all_goals (try simp at h)
    all_goals (try (obtain ⟨_, h⟩ := h))
    all_goals (try subst h)
    all_goals (simp [LaneShape, laneDest])

/-- CVTI and the reductions, whose result is of their type. -/
theorem laneShape_wide {o : Op} {sh : Shape} {opc : BitVec 10}
    (hn : opc ∈ ([0x119, 0x128, 0x129, 0x12A, 0x12B, 0x12C, 0x12D] : List (BitVec 10)))
    (h : shapeOf opc o = some sh) : LaneShape sh o.ty.is64 := by
  simp only [List.mem_cons, List.not_mem_nil, or_false] at hn
  rcases hn with rfl|rfl|rfl|rfl|rfl|rfl|rfl <;>
  · simp [shapeOf, familyOf, fltShape] at h
    repeat' split at h
    all_goals (try (simp at h; done))
    all_goals (try simp at h)
    all_goals (try (obtain ⟨_, h⟩ := h))
    all_goals (try subst h)
    all_goals (simp [LaneShape, laneDest])

/-- MILE. -/
theorem laneShape_mile {o : Op} {sh : Shape} (h : shapeOf 0x1A8 o = some sh) : LaneShape sh false := by
  simp [shapeOf, familyOf, memShape] at h
  obtain ⟨_, _, h⟩ := h
  subst h; simp [LaneShape, laneDest]

/-- RDSR, whose name says how wide its destination is. -/
theorem laneShape_rdsr {o : Op} {sh : Shape} {w w' : Bool} (hn : srName o.imm16.toNat = some (w, w'))
    (h : shapeOf 0x290 o = some sh) : LaneShape sh w := by
  simp [shapeOf, familyOf, sysShape, hn] at h
  obtain ⟨_, h⟩ := h
  subst h
  cases w <;> simp [LaneShape, laneDest]

/-- FEAT. -/
theorem laneShape_feat {o : Op} {sh : Shape} (h : shapeOf 0x292 o = some sh) : LaneShape sh true := by
  simp [shapeOf, familyOf, sysShape] at h
  obtain ⟨_, h⟩ := h
  subst h; simp [LaneShape, laneDest]

end Sys2Proof.Machine
end

