-- ==== Sys2Proof/Tests/Slice0.lean ====
section
/-! SUPPORT. Tests: terms the checks refuse, words of the spec's worked encodings, single steps on small states, and for
every statement with premises a state and operands that meet them. -/

namespace Sys2Proof.Tests
set_option Elab.async false
open Sys2Proof Sys2Proof.Machine

/-! ### Helpers -/

/-- An instruction's fields, everything unused zero, the guard always true. -/
def op0 : Op :=
  { seam := 0, gp := 7, gi := false, ty := .none, d := 0, a := 0, b := 0, c := 0, mod := 0, ext := .one }

/-- An integer form on v1, v2 and v3. -/
def op3 (ty : Ty) : Op := { op0 with ty := ty, d := 1, a := 2, b := 3 }

/-- The state in which one group of one block, all lanes at depth 0, issues on core 0. -/
def base : State :=
  let s := State.reset.withFetchWord 64 0
  { s with agenda := [], cores := { s.cores with cur := some (0, 0) } }

/-- A site, for operations that tests put into a state. -/
def site0 : Site :=
  { seq := 0, pc := 0, slotB := false, depth := 0, mdepth := 0, fx := 0, inMeld := false, lanes := 0 }

/-- The same with its one block changed. -/
def baseB (f : Block → Block) : State :=
  { base with cores := { base.cores with blocks := base.cores.blocks.map f } }

/-- The same with its one group changed. -/
def baseG (f : Group → Group) : State := baseB fun b => { b with groups := b.groups.map f }

/-- A general register that holds one value in every lane. -/
def vec (n : Nat) (x : Word) : FMap Word := (List.range 32).map fun l => (32 * n + l, x)

/-- The issuing view of a state that has one. -/
def curOf (s : State) : Cur :=
  s.current.getD
    { run := { core := 0, part := 0, blk := 0, gid := 0, slotB := false }
      blk := { uid := 0, core := 0, key := { pod := 0, seq := 0 }, lrec := fetchRec, own := 0, tile := 0, ext := 0, extLen := 0
               scr := 0, divs := 0, accts := [], groups := [] }
      grp := fetchGroup, path := { pc := 0, mask := 0 } }

def issuesB (s : State) (opc : BitVec 10) (o : Op) : Bool :=
  s.current.isSome && (commonFaults s (curOf s) opc o).isEmpty && (joinFault s (curOf s) (fallThrough (curOf s) o)).isEmpty

theorem current_of {s : State} (h : s.current.isSome = true) : s.current = some (curOf s) := by
  unfold curOf
  cases hc : s.current with
  | none => simp [hc] at h
  | some c => rfl

theorem issues_of {s : State} {opc : BitVec 10} {o : Op} (h : issuesB s opc o = true) : Issues s (curOf s) opc o := by
  simp only [issuesB, Bool.and_eq_true, List.isEmpty_iff] at h
  exact ⟨current_of h.1.1, h.1.2, h.2⟩

def readyB (s : State) (opc : BitVec 10) (o : Op) (aff : Option (Word × Word)) : Bool :=
  issuesB s opc o && (shapeFaults s (curOf s) opc o aff).isEmpty

theorem ready_of {s : State} {opc : BitVec 10} {o : Op} {aff : Option (Word × Word)} (h : readyB s opc o aff = true) :
    LaneReady s (curOf s) opc o aff := by
  simp only [readyB, Bool.and_eq_true, List.isEmpty_iff] at h
  exact ⟨issues_of h.1, h.2⟩

/-- Every pair of a list issues, or is ready without an affine result. -/
theorem issues_all {s : State} {l : List (BitVec 10 × Op)} (h : l.all (fun x => issuesB s x.1 x.2) = true) :
    ∀ x ∈ l, Issues s (curOf s) x.1 x.2 := fun x hx => issues_of (List.all_eq_true.mp h x hx)

theorem ready_all {s : State} {l : List (BitVec 10 × Op)} (h : l.all (fun x => readyB s x.1 x.2 none) = true) :
    ∀ x ∈ l, LaneReady s (curOf s) x.1 x.2 none := fun x hx => ready_of (List.all_eq_true.mp h x hx)

def stepsB (s : State) (opc : BitVec 10) (o : Op) (next : DWord) : Bool :=
  s.current.isSome && (commonFaults s (curOf s) opc o).isEmpty
    && laneSet s (curOf s).blk (curOf s).run.gid (curOf s).path != 0 && !reachesJoin s (curOf s) (curOf s).path next

theorem steps_of {s : State} {opc : BitVec 10} {o : Op} {next : DWord} (h : stepsB s opc o next = true) :
    Steps s (curOf s) opc o next := by
  simp only [stepsB, Bool.and_eq_true, List.isEmpty_iff, bne_iff_ne, Bool.not_eq_true'] at h
  exact { live := h.1.2, open_ := h.2, current := current_of h.1.1.1, checks := h.1.1.2 }

/-- It steps to its fall-through. -/
def fallsB (s : State) (opc : BitVec 10) (o : Op) : Bool := stepsB s opc o (fallThrough (curOf s) o)

theorem falls_of {s : State} {opc : BitVec 10} {o : Op} (h : fallsB s opc o = true) :
    Steps s (curOf s) opc o (fallThrough (curOf s) o) := steps_of h

def passesB (s : State) (opc : BitVec 10) (o : Op) : Bool := s.current.isSome && (commonFaults s (curOf s) opc o).isEmpty

theorem passes_of {s : State} {opc : BitVec 10} {o : Op} (h : passesB s opc o = true) :
    s.current = some (curOf s) ∧ commonFaults s (curOf s) opc o = [] := by
  simp only [passesB, Bool.and_eq_true, List.isEmpty_iff] at h
  exact ⟨current_of h.1, h.2⟩

def accessesB (s : State) (opc : BitVec 10) (o : Op) (scr : Bool) (ps : List (Nat × DWord)) : Bool :=
  issuesB s opc o && activeLanes s (curOf s) o != 0 && (placeFaults (curOf s) scr o.ty.bytes o.ty.bytes ps).isEmpty

theorem accesses_of {s : State} {opc : BitVec 10} {o : Op} {scr : Bool} {ps : List (Nat × DWord)}
    (h : accessesB s opc o scr ps = true) : Accesses s (curOf s) opc o scr ps := by
  simp only [accessesB, Bool.and_eq_true, List.isEmpty_iff, bne_iff_ne] at h
  exact { toIssues := issues_of h.1.1, lanes := h.1.2, place := h.2 }

def engineB (s : State) (opc : BitVec 10) (o : Op) (own : List FaultInfo) : Bool :=
  issuesB s opc o && tileOn (curOf s) o && decide (pathGuard (curOf s) o = .all) && own.isEmpty
    && s.memClear (curOf s).run.blk (curOf s).run.gid

theorem engine_of {s : State} {opc : BitVec 10} {o : Op} {own : List FaultInfo} (h : engineB s opc o own = true) :
    EngineReady s (curOf s) opc o own := by
  simp only [engineB, Bool.and_eq_true, List.isEmpty_iff, decide_eq_true_eq] at h
  exact { toIssues := issues_of h.1.1.1.1, tile := h.1.1.1.2, all := h.1.1.2, own := h.1.2, clear := h.2 }

theorem released_of {s : State} (h : ((s.sendDepotOf (curOf s).run.blk (curOf s).run.gid).acked (curOf s).run.blk
    (curOf s).run.gid && !hasImprecise (curOf s).grp) = true) : Released s (curOf s) := by
  simp only [Bool.and_eq_true, Bool.not_eq_true'] at h
  exact ⟨h.1, h.2⟩

/-- An event of the firmware's on a state that reset leaves. -/
def ev (x : Input) : State := { State.reset with agenda := [], inp := x }

theorem writeOpen_of {s : State} {r : RegName} {i : Nat}
    (h : (decide (i < regCount r) && (!firmOnly r || s.inp.who == .firmware)
      && (match guardOfReg r with | some n => s.owns s.inp.who n | none => true)) = true) : WriteOpen s r i := by
  simp only [Bool.and_eq_true, decide_eq_true_eq, Bool.or_eq_true, Bool.not_eq_true', beq_iff_eq] at h
  refine ⟨h.1.1, fun hf => h.1.2.resolve_left (by simp [hf]), fun n hn => ?_⟩
  simpa [hn] using h.2

/-! ### Premises met: statements about registers

Each list holds forms of the instructions its statement is about, at the ends of their fields where these bound anything. -/

theorem wit_IntegerArithmetic :
    ∀ x ∈ ([(0x083, op3 .i32), (0x084, { op3 .i32 with c := 4 }), (0x085, { op3 .i16 with mod := 0x001 }),
      (0x08A, { op3 .i32 with b := 0 }), (0x08B, { op3 .i8 with b := 0 }), (0x088, { op3 .n64 with d := 2, b := 0x7E, a := 4 }),
      (0x089, { op3 .i16 with d := 0x7F }), (0x08C, { op3 .i32 with c := 4 }), (0x0B6, { op3 .i32 with c := 4 }),
      (0x0B6, { op3 .n32 with c := 4 })] : List (BitVec 10 × Op)), LaneReady base (curOf base) x.1 x.2 none :=
  ready_all (by decide)

/-- An affine destination too: a0 from `lane` and an immediate. -/
theorem wit_IntegerArithmetic_add :
    ∀ o ∈ ([op3 .i32, { op3 .i32 with d := 0x80, a := 0xF9, b := 0, c := 5, mod := 0x100 }, { op3 .n32 with d := 0xA0, a := 0xA1, b := 0xF8 }] : List Op),
      LaneReady base (curOf base) 0x080 o (affTwo (curOf base) o fun x y => some (x.1 + y.1, x.2 + y.2)) := by
  intro o ho
  simp only [List.mem_cons, List.not_mem_nil, or_false] at ho
  rcases ho with rfl | rfl | rfl <;> exact ready_of (by decide)

theorem wit_IntegerArithmetic_sub :
    LaneReady base (curOf base) 0x081 (op3 .i32) (affTwo (curOf base) (op3 .i32) fun x y => some (x.1 - y.1, x.2 - y.2)) :=
  ready_of (by decide)

theorem wit_IntegerArithmetic_mul :
    LaneReady base (curOf base) 0x082 (op3 .i32) (affTwo (curOf base) (op3 .i32) (affMul (op3 .i32))) := ready_of (by decide)

/-- With v3 zero everywhere the divisor is 0; the immediate −1 is the other corner. -/
theorem wit_Division :
    ∀ x ∈ ([(0x086, op3 .i32), (0x087, op3 .n32), (0x086, { op3 .i32 with b := 0xFF, c := 0xFF, mod := 0x100 }),
      (0x087, { op3 .i16 with b := 0xFF, c := 0xFF, mod := 0x100 })] : List (BitVec 10 × Op)),
      LaneReady base (curOf base) x.1 x.2 none := ready_all (by decide)

theorem wit_Logic :
    ∀ x ∈ ([(0x090, op3 .n32), (0x091, op3 .n32), (0x092, op3 .i8), (0x093, { op3 .n16 with b := 0 }), (0x094, op3 .i32)] :
      List (BitVec 10 × Op)), LaneReady base (curOf base) x.1 x.2 none := ready_all (by decide)

/-- Counts of 31 and of a register's, and SHL with an affine result. -/
theorem wit_Shifts :
    (∀ x ∈ ([(0x099, { op3 .n32 with b := 0, mod := 31 }), (0x09A, { op3 .i32 with mod := 32 }), (0x09B, { op3 .n32 with mod := 32 })] :
      List (BitVec 10 × Op)), LaneReady base (curOf base) x.1 x.2 none)
    ∧ ∀ o ∈ ([{ op3 .i32 with b := 0, mod := 31 }, { op3 .i32 with d := 0x80, a := 0xF9, b := 0, mod := 2 }, { op3 .i8 with b := 0, mod := 8 }] : List Op),
      LaneReady base (curOf base) 0x098 o
        (if affOk o && o.var == 0 then
          (affineSrc (curOf base) o.a).map fun (x : Word × Word) => (x.1 <<< o.kInt.toNat, x.2 <<< o.kInt.toNat)
        else none) := by
  refine ⟨ready_all (by decide), ?_⟩
  intro o ho
  simp only [List.mem_cons, List.not_mem_nil, or_false] at ho
  rcases ho with rfl | rfl | rfl <;> exact ready_of (by decide)

theorem wit_BitFields :
    ∀ x ∈ ([(0x0A0, { op3 .i32 with b := 0, c := 32, mod := 0x11F }), (0x0A0, op3 .n32), (0x0A1, { op3 .i32 with c := 4, mod := 0x01F }),
      (0x0A2, { op3 .n32 with b := 0 }), (0x0A3, { op3 .n8 with b := 0 }), (0x0A4, { op3 .n32 with b := 0 })] : List (BitVec 10 × Op)),
      LaneReady base (curOf base) x.1 x.2 none := ready_all (by decide)

/-- Every condition code of CMP, and `p7` as its destination. -/
theorem wit_CompareSelectMove :
    (∀ x ∈ (((List.range 6).map fun k => (0x0A8, { op3 .i32 with d := 0xE1, mod := BitVec.ofNat 9 k })) ++ [(0x0A8, { op3 .n8 with d := 0xE7 })] :
      List (BitVec 10 × Op)), Issues base (curOf base) x.1 x.2)
    ∧ LaneReady base (curOf base) 0x0A9 { op3 .i32 with c := 0xE1 } none
    ∧ ∀ o ∈ ([{ op3 .i32 with b := 0 }, { op3 .i32 with a := 0, b := 0, c := 5, mod := 0x100 }, { op3 .n32 with d := 0x80, a := 0xF9, b := 0 }] : List Op),
      LaneReady base (curOf base) 0x0AA o (if affOk o && !o.immBit then affineSrc (curOf base) o.a else none) := by
  refine ⟨issues_all (by decide), ready_of (by decide), ?_⟩
  intro o ho
  simp only [List.mem_cons, List.not_mem_nil, or_false] at ho
  rcases ho with rfl | rfl | rfl <;> exact ready_of (by decide)

theorem wit_Shuffles :
    ∀ x ∈ ([(0x0B0, op3 .none), (0x0B1, { op3 .none with b := 0, mod := 31 }), (0x0B2, { op3 .none with b := 0 }),
      (0x0B3, { op3 .none with mod := 32 }), (0x0B4, { op3 .none with b := 0 })] : List (BitVec 10 × Op)),
      LaneReady base (curOf base) x.1 x.2 none := ready_all (by decide)

theorem wit_LaneOperations :
    LaneReady base (curOf base) 0x0B5 { op3 .none with c := 4 } none
    ∧ (∀ o ∈ ([{ op3 .i32 with d := 0x80, a := 0xA1, b := 0xA2 }, { op3 .n32 with d := 1, a := 0xA1, b := 0, c := 4, mod := 0x100 }] : List Op),
      Issues base (curOf base) 0x0B8 o ∧ laneFaults base (curOf base) o = []
      ∧ shapeFaults base (curOf base) 0x0B8 o (if affOk o then some (laneVal (curOf base) o.a 0, laneStep (curOf base) o) else none) = [])
    ∧ (∀ x ∈ ([(0x0B9, { op0 with d := 1, a := 2, mod := 31 }), (0x0B9, { op0 with d := 1, a := 2, b := 0xA1, mod := 32 })] :
      List (BitVec 10 × Op)), LaneReady base (curOf base) x.1 x.2 none)
    ∧ Issues base (curOf base) 0x0BA { op0 with d := 1, a := 2, mod := 31 } := by
  refine ⟨ready_of (by decide), ?_, ready_all (by decide), issues_of (by decide)⟩
  intro o ho
  simp only [List.mem_cons, List.not_mem_nil, or_false] at ho
  rcases ho with rfl | rfl <;> exact ⟨issues_of (by decide), by decide, by decide⟩

theorem wit_PredicateLogic :
    (∀ x ∈ ([(0x018, { op0 with d := 0xE1, a := 0xE2, b := 0xE3 }), (0x019, { op0 with d := 0xE1, a := 0xE2, b := 0xE3 }),
      (0x01A, { op0 with d := 0xE7, a := 0xE2, b := 0xE3 }), (0x01B, { op0 with d := 0xE1, a := 0xE2, b := 0xE7 }),
      (0x01C, { op0 with d := 0xE0, a := 0xE2 }), (0x01D, { op0 with d := 0xE1, a := 0xE2 }), (0x01E, { op0 with d := 0xE1, a := 2 })] :
      List (BitVec 10 × Op)), Issues base (curOf base) x.1 x.2)
    ∧ LaneReady base (curOf base) 0x01F { op0 with d := 1, a := 0xE2 } none := ⟨issues_all (by decide), ready_of (by decide)⟩

/-- Its last clause is about a uniform or affine destination. -/
theorem wit_Votes :
    (∀ x ∈ ([(0x020, { op0 with d := 0xE1, a := 0xE2 }), (0x021, { op0 with d := 0xE1, a := 0xE7 }),
      (0x022, { op0 with d := 0xE1, a := 0xE2 })] : List (BitVec 10 × Op)), Issues base (curOf base) x.1 x.2)
    ∧ (∀ x ∈ ([(0x023, { op0 with d := 1, a := 0xE2 }), (0x024, { op0 with d := 1, a := 0xE2 }), (0x025, { op0 with d := 0x7F, a := 0xE2 })] :
      List (BitVec 10 × Op)), LaneReady base (curOf base) x.1 x.2 none)
    ∧ isAff 0x80 = true ∧ isUni 0xDF = true :=
  ⟨issues_all (by decide), ready_all (by decide), by decide, by decide⟩

theorem wit_FloatArithmetic :
    ∀ x ∈ ([(0x100, op3 .f32), (0x101, op3 .bf16), (0x102, op3 .f16), (0x103, { op3 .f16x2 with c := 4 }), (0x10B, op3 .f32),
      (0x10C, { op3 .f32 with b := 0 }), (0x10D, { op3 .f16x2 with c := 4 }), (0x100, { op3 .f32 with mod := 0x040 })] : List (BitVec 10 × Op)),
      LaneReady base (curOf base) x.1 x.2 none := ready_all (by decide)

theorem wit_FloatExact :
    (∀ x ∈ ([(0x104, op3 .f32), (0x105, op3 .f16), (0x106, { op3 .f32 with b := 0 }), (0x107, { op3 .bf16x2 with b := 0 }),
      (0x10A, op3 .f32), (0x109, { op3 .f32 with b := 0 }), (0x109, { op3 .f16x2 with b := 0 })] : List (BitVec 10 × Op)),
      LaneReady base (curOf base) x.1 x.2 none)
    ∧ ∀ x ∈ ((List.range 6).map fun k => (0x108, { op3 .f32 with d := 0xE1, mod := BitVec.ofNat 9 k }) : List (BitVec 10 × Op)),
      Issues base (curOf base) x.1 x.2 := ⟨ready_all (by decide), issues_all (by decide)⟩

theorem wit_Functions :
    ∀ x ∈ ([(0x110, { op3 .f32 with b := 0 }), (0x111, { op3 .f32 with b := 0 }), (0x112, { op3 .f32 with b := 0 }),
      (0x113, { op3 .f32 with b := 0 }), (0x114, { op3 .f32 with b := 0 }), (0x115, { op3 .f32 with b := 0 })] : List (BitVec 10 × Op)),
      LaneReady base (curOf base) x.1 x.2 none := ready_all (by decide)

/-- The source type stands in the C field (R410). -/
theorem wit_Conversions :
    (∀ x ∈ ([(0x118, { op3 .f16 with b := 0, c := 11 }), (0x119, { op3 .i32 with b := 0, c := 11 }), (0x119, { op3 .i64 with d := 2, b := 0, c := 3 }),
      (0x11A, { op3 .f32 with b := 0, c := 3 }), (0x11B, { op3 .e4m3 with c := 11 }), (0x11C, { op3 .f32 with c := 13 }),
      (0x11D, op3 .f16x2), (0x11E, { op3 .f16x2 with b := 0, mod := 1 }), (0x120, op3 .e4m3), (0x121, { op3 .f32 with b := 0 })] :
      List (BitVec 10 × Op)), LaneReady base (curOf base) x.1 x.2 none)
    ∧ Issues base (curOf base) 0x122 (op3 .e2m1) := ⟨ready_all (by decide), issues_of (by decide)⟩

theorem wit_Reductions :
    ∀ x ∈ ([(0x128, { op3 .i32 with b := 0 }), (0x128, { op3 .f32 with b := 0 }), (0x129, { op3 .f32 with b := 0 }),
      (0x12A, { op3 .i64 with d := 2, b := 0 }), (0x12B, { op3 .n32 with b := 0 }), (0x12C, { op3 .n32 with b := 0 }),
      (0x12D, { op3 .n32 with b := 0 })] : List (BitVec 10 × Op)), LaneReady base (curOf base) x.1 x.2 none := ready_all (by decide)

/-! ### Premises met: tile predicates, control values, control flow -/

/-- Guards of a path: all of it, none of it (p0 is 0 at reset), and part of it. -/
def gNone (o : Op) : Op := { o with gp := 0 }

/-- p0 holds in lane 0 alone: a guard on it is neither all nor none. -/
def part : State := baseG fun g => { g with r := { g.r with p := [(0, 1)] } }

theorem guard_all : pathGuard (curOf base) op0 = .all := by decide
theorem guard_none : pathGuard (curOf base) (gNone op0) = .none := by decide
theorem guard_some : pathGuard (curOf part) (gNone op0) = .some := by decide

theorem wit_TilePredicates :
    (∀ x ∈ ([(0x230, { op0 with d := 0xF0, a := 0xA0 }), (0x231, { op0 with d := 0xF7, a := 0xF1, b := 0xF2 }),
      (0x232, { op0 with d := 0xF0, a := 0xF0, b := 0xF1 }), (0x233, { op0 with d := 0xF0, a := 0xF1 }),
      (0x234, { op0 with d := 0xF0, a := 0xF1 }), (0x234, { op0 with d := 0xA2, a := 0xF1 }), (0x230, { op0 with gp := 0, d := 0xF0, a := 0xA0 })] :
      List (BitVec 10 × Op)), Issues base (curOf base) x.1 x.2)
    ∧ pathGuard (curOf base) op0 ≠ .some ∧ pathGuard (curOf base) (gNone op0) ≠ .some
    ∧ tmovFaults base (curOf base) { op0 with d := 0xA2, a := 0xF1 } = [] :=
  ⟨issues_all (by decide), by decide, by decide, by decide⟩

/-- RDSR of every name, into a pair where its value is 64 bits wide. -/
def rdsr (n : Nat) : Op := { op0 with d := 0xA2, b := BitVec.ofNat 8 (n / 256), c := BitVec.ofNat 8 n }

theorem wit_ControlValues :
    (∀ n ∈ [0x000, 0x001, 0x002, 0x00D, 0x010, 0x014, 0x018, 0x01C, 0x020],
      (srName (rdsr n).imm16.toNat).isSome = true ∧ LaneReady base (curOf base) 0x290 (rdsr n) none)
    ∧ (∀ x ∈ ([(0x292, { op0 with d := 0xA2 }), (0x1A8, { op0 with d := 1, c := 7 })] : List (BitVec 10 × Op)),
      LaneReady base (curOf base) x.1 x.2 none) := by
  refine ⟨?_, ready_all (by decide)⟩
  intro n hn
  simp only [List.mem_cons, List.not_mem_nil, or_false] at hn
  rcases hn with rfl | rfl | rfl | rfl | rfl | rfl | rfl | rfl | rfl <;> exact ⟨by decide, ready_of (by decide)⟩

/-- WRSR of LWIN from s1, which holds a window of 16 units from offset 0, or none. -/
def wrLwin : Op := { op0 with a := 0xA1, c := 0x20 }
def lwinFree : State := baseG fun g => { g with r := { g.r with s := [(1, 0x00100000)] } }
def lwinBusy : State :=
  { lwinFree with cores := { lwinFree.cores with chans := [((1, 0), [{
      op := 9, blk := 7, gid := 0, kind := .neighbour, src := 0, dst := 0, len := 64, rblk := 1, site := site0 }])] } }
def lwinTaken : State := { lwinFree with cores := { lwinFree.cores with windows := [(0, { blk := 9, offs := 0, size := 1 })] } }

theorem wit_ControlValues_wrsr :
    (∀ s ∈ [lwinFree, lwinBusy, lwinTaken], Issues s (curOf s) 0x291 wrLwin ∧ pathGuard (curOf s) wrLwin = .all
      ∧ lwinFaults s (curOf s) wrLwin = [])
    ∧ lwinFree.winTaken (curOf lwinFree).blk = false ∧ lwinFree.winBusy (curOf lwinFree).run.blk = false
    ∧ lwinBusy.winTaken (curOf lwinBusy).blk = false ∧ lwinBusy.winBusy (curOf lwinBusy).run.blk = true
    ∧ lwinTaken.winTaken (curOf lwinTaken).blk = true := by
  refine ⟨?_, by decide, by decide, by decide, by decide, by decide⟩
  intro s hs
  simp only [List.mem_cons, List.not_mem_nil, or_false] at hs
  rcases hs with rfl | rfl | rfl <;> exact ⟨issues_of (by decide), by decide, by decide⟩
/-- A word offset of 4 in the immediate. -/
def braOp : Op := { op0 with c := 4 }
/-- BRA.D with target 4 words on and J 6 words on. -/
def bradOp : Op := { op0 with c := 4, ext := .extn false 0 0 (6 * 2 ^ 10) }

/-- A PAD of tag 0 stands 8 bytes on, and the pair v2 holds its address. -/
def padded : State :=
  let s := State.reset.withFetchWord 128 (0x0023800000000000 * 2 ^ 64)
  { s with agenda := [], cores := { s.cores with cur := some (0, 0), blocks := s.cores.blocks.map fun b =>
      { b with groups := b.groups.map fun g => { g with r := { g.r with v := vec 2 8 ++ vec 3 0x00FF8000 } } } } }
def jmpiOp : Op := { op0 with a := 2 }
def padAt : DWord := fetchPc + 8

theorem wit_Branches :
    Steps base (curOf base) 0x000 op0 (fallThrough (curOf base) op0) ∧ Steps base (curOf base) 0x008 op0 (fallThrough (curOf base) op0)
    ∧ Steps base (curOf base) 0x001 braOp ((curOf base).path.pc + (braOp.imm16.signExtend 64 <<< 3)) ∧ pathGuard (curOf base) braOp = .all
    ∧ Steps base (curOf base) 0x001 (gNone braOp) ((curOf base).path.pc + 8) ∧ pathGuard (curOf base) (gNone braOp) = .none :=
  ⟨steps_of (by decide), steps_of (by decide), steps_of (by decide), by decide, steps_of (by decide), by decide⟩

theorem wit_Branches_jmpi :
    Steps padded (curOf padded) 0x003 jmpiOp padAt ∧ pathGuard (curOf padded) jmpiOp = .all
    ∧ (∀ l ∈ lanesOf (curOf padded).path.mask, pairVal (curOf padded) jmpiOp.a l = padAt)
    ∧ padCheck padded (curOf padded) padAt jmpiOp.tag = .ok := ⟨steps_of (by decide), by decide, by decide, by decide⟩

theorem wit_Branches_agreed :
    Steps base (curOf base) 0x002 bradOp ((curOf base).path.pc + (bradOp.imm16.signExtend 64 <<< 3)) ∧ (curOf base).path.rg = 0
    ∧ pathGuard (curOf base) bradOp ≠ .some ∧ pathGuard (curOf base) bradOp ≠ .none
    ∧ Steps base (curOf base) 0x002 (gNone bradOp) ((curOf base).path.pc + 16) ∧ pathGuard (curOf base) (gNone bradOp) = .none :=
  ⟨steps_of (by decide), by decide, by decide, by decide, steps_of (by decide), by decide⟩

theorem wit_Branches_divergent :
    let c := curOf part
    let o := gNone bradOp
    let target := c.path.pc + (o.imm16.signExtend 64 <<< 3)
    let j := c.path.pc + ((o.param.extractLsb' 10 16).signExtend 64 <<< 3)
    part.current = some c ∧ commonFaults part c 0x002 o = [] ∧ c.path.rg = 0 ∧ pathGuard c o = .some
    ∧ c.path.depth + 1 ≤ frameLimit c.blk ∧ pushBlocked c.grp c.run.slotB c.path = false ∧ j ≠ target ∧ j ≠ c.path.pc + 16 := by
  decide

/-- A path at some depth, in the middle of some regions and calls, over a stack prepared by f. -/
def deep (p : Path → Path) (f : State → Block → State) : State :=
  let s := baseG fun g => { g with pa := g.pa.map p }
  match s.cores.blocks with
  | b :: _ => f s b
  | [] => s

/-- At depth 1 under a fork frame whose count is n. -/
def forked (n : Nat) : State := deep (fun p => { p with depth := 1 }) fun s b => s.setFrame b 0 1 24 1 n

theorem wit_Joins :
    (∀ n ∈ [2, 255], let s := forked n
      s.current = some (curOf s) ∧ commonFaults s (curOf s) 0x004 op0 = [] ∧ s.traceOff ∧ topKind s (curOf s) 0 = true
      ∧ (curOf s).path.rg = 0 ∧ 1 < frameNum s (curOf s).blk (curOf s).run.gid (curOf s).path.depth 24 1)
    ∧ (let s := forked 1
      let c := curOf s
      s.current = some c ∧ commonFaults s c 0x004 op0 = [] ∧ s.traceOff ∧ topKind s c 0 = true ∧ c.path.rg = 0
      ∧ frameNum s c.blk c.run.gid c.path.depth 24 1 = 1 ∧ c.path.depth = 1
      ∧ BitVec.ofNat 32 (frameNum s c.blk c.run.gid c.path.depth 16 4) ||| c.path.mask ≠ 0)
    ∧ base.traceOff ∧ topKind base (curOf base) 0 = false ∧ Steps base (curOf base) 0x004 op0 (fallThrough (curOf base) op0) := by
  refine ⟨?_, by unfold State.traceOff; decide, by unfold State.traceOff; decide, by decide, steps_of (by decide)⟩
  intro n hn
  simp only [List.mem_cons, List.not_mem_nil, or_false] at hn
  rcases hn with rfl | rfl <;> (unfold State.traceOff; decide)

/-- CALL 4 words on. -/
def callOp : Op := { op0 with c := 4 }
/-- The return count at 2 and at 3, with as many return entries. -/
def called (n : Nat) : State := deep (fun p => { p with rc := n, rets := List.replicate n 0x40 }) fun s _ => s
/-- CALLI by the pair v2, with the PAD of `padded`. -/
def calliOp : Op := { op0 with a := 2 }
/-- Two faces that call different targets, in a region that face X has half the lanes of. -/
def twoFaces : State := deep (fun p => { p with rg := 1, fx := [0xFFFF] }) fun s _ => s
def callTwo : Op := { op0 with c := 4, ext := .face true true 0 0 0 0 8 }

theorem wit_Calls_call :
    (∀ n ∈ [0, 2], let s := called n
      Steps s (curOf s) 0x005 callOp (callNext s (curOf s) callOp false) ∧ pathGuard (curOf s) callOp = .all
      ∧ callMelds s (curOf s) callOp false = true ∧ (curOf s).path.rc < 3)
    ∧ (let s := called 3
      Steps s (curOf s) 0x005 callOp (callNext s (curOf s) callOp false) ∧ pathGuard (curOf s) callOp = .all
      ∧ callMelds s (curOf s) callOp false = true ∧ 3 ≤ (curOf s).path.rc
      ∧ (curOf s).path.depth + 1 ≤ frameLimit (curOf s).blk ∧ pushBlocked (curOf s).grp (curOf s).run.slotB (curOf s).path = false) := by
  refine ⟨?_, steps_of (by decide), by decide, by decide, by decide, by decide, by decide⟩
  intro n hn
  simp only [List.mem_cons, List.not_mem_nil, or_false] at hn
  rcases hn with rfl | rfl <;> exact ⟨steps_of (by decide), by decide, by decide, by decide⟩

theorem wit_Calls_calli :
    let c := curOf padded
    Steps padded c 0x006 calliOp (callNext padded c calliOp true) ∧ pathGuard c calliOp = .all
    ∧ callMelds padded c calliOp true = true ∧ c.path.rc < 3 ∧ calliFaults padded c calliOp = []
    ∧ PadsOk c calliOp (calliPads padded c calliOp) padded := by
  refine ⟨steps_of (by decide), by decide, by decide, by decide, by decide, ?_⟩
  have h : calliPads padded (curOf padded) calliOp = [(padAt, 0xFFFFFFFF)] := by decide
  rw [h]
  exact ⟨by decide, trivial⟩

theorem wit_Calls_unmeld :
    let c := curOf twoFaces
    let ret := c.path.pc + BitVec.ofNat 64 callTwo.len
    twoFaces.current = some c ∧ commonFaults twoFaces c 0x005 callTwo = [] ∧ pathGuard c callTwo = .all
    ∧ callMelds twoFaces c callTwo false = false ∧ c.path.depth + 2 ≤ frameLimit c.blk
    ∧ pushBlocked c.grp c.run.slotB c.path = false ∧ (callTargets twoFaces c callTwo false).1 ≠ ret
    ∧ (callTargets twoFaces c callTwo false).2 ≠ ret := by decide

theorem wit_Calls_ret :
    (∀ n ∈ [1, 3], let s := called n
      Steps s (curOf s) 0x007 { op0 with a := 0xF8 } 0x40 ∧ pathGuard (curOf s) { op0 with a := 0xF8 } = .all
      ∧ retUnmelds s (curOf s) = false ∧ 1 ≤ (curOf s).path.rc ∧ (curOf s).path.rc ≤ 3
      ∧ (curOf s).path.rets.getLast? = some 0x40)
    ∧ (let s := baseG fun g => { g with pa := g.pa.map fun p => { p with rc := 1, rets := [0x40] }, r := { g.r with v := vec 2 0x48 } }
      Steps s (curOf s) 0x007 { op0 with a := 2 } 0x48 ∧ pathGuard (curOf s) { op0 with a := 2 } = .all
      ∧ retUnmelds s (curOf s) = false ∧ 1 ≤ (curOf s).path.rc ∧ (curOf s).path.rc ≤ 3
      ∧ (∀ l ∈ lanesOf (curOf s).path.mask, pairVal (curOf s) 2 l = 0x48) ∧ (0x48 : DWord).toNat % 8 = 0) := by
  refine ⟨?_, steps_of (by decide), by decide, by decide, by decide, by decide, by decide, by decide⟩
  intro n hn
  simp only [List.mem_cons, List.not_mem_nil, or_false] at hn
  rcases hn with rfl | rfl <;> exact ⟨steps_of (by decide), by decide, by decide, by decide, by decide, by decide⟩

/-- MELD of p1. -/
def meldOp : Op := { op0 with a := 0xE1 }
/-- In n regions, the first four held by the path, the rest in frames. -/
def melded (n : Nat) : State :=
  deep (fun p => { p with rg := n, fx := List.replicate (min n 4) 1, depth := n - 4 }) fun s b =>
    if 4 < n then s.newFrame b 0 1 1 [(12, 2, n), (16, 4, 1)] else s

theorem wit_Regions :
    (∀ n ∈ [0, 3], let s := melded n
      Steps s (curOf s) 0x010 meldOp (fallThrough (curOf s) meldOp) ∧ (curOf s).path.rg < 4)
    ∧ (let s := melded 4
      Steps s (curOf s) 0x010 meldOp (fallThrough (curOf s) meldOp) ∧ 4 ≤ (curOf s).path.rg
      ∧ (curOf s).path.depth + 1 ≤ frameLimit (curOf s).blk ∧ pushBlocked (curOf s).grp (curOf s).run.slotB (curOf s).path = false
      ∧ s.traceOff)
    ∧ (∀ n ∈ [1, 4], let s := melded n
      Steps s (curOf s) 0x011 op0 (fallThrough (curOf s) op0) ∧ 1 ≤ (curOf s).path.rg ∧ (curOf s).path.rg ≤ 4
      ∧ ¬((topKind s (curOf s) 3 = true ∨ topKind s (curOf s) 6 = true) ∧ topNum s (curOf s) 12 2 = (curOf s).path.rg))
    ∧ (let s := melded 5
      let c := curOf s
      s.current = some c ∧ commonFaults s c 0x011 op0 = [] ∧ 4 < c.path.rg ∧ topKind s c 1 = true ∧ c.path.mask ≠ 0
      ∧ reachesJoin s c { c.path with depth := c.path.depth - 1 } (fallThrough c op0) = false) := by
  refine ⟨?_, ⟨steps_of (by decide), by decide, by decide, by decide, by unfold State.traceOff; decide⟩, ?_, by decide⟩
  · intro n hn
    simp only [List.mem_cons, List.not_mem_nil, or_false] at hn
    rcases hn with rfl | rfl <;> exact ⟨steps_of (by decide), by decide⟩
  · intro n hn
    simp only [List.mem_cons, List.not_mem_nil, or_false] at hn
    rcases hn with rfl | rfl <;> exact ⟨steps_of (by decide), by decide, by decide, by decide⟩

/-- Under a loop frame of kind k, opened at region depth 0, with these fields. -/
def looped (k : Nat) (f : List (Nat × Nat × Nat)) : State :=
  deep (fun p => { p with depth := 1 }) fun s b => s.newFrame b 0 1 k ([(12, 2, 0)] ++ f)
def loopOp : Op := { op0 with a := 0xA1, c := 4 }
/-- s1 holds n. -/
def s1 (n : Word) : State := baseG fun g => { g with r := { g.r with s := if n = 0 then [] else [(1, n)] } }
/-- p1 chooses lane 0. -/
def chosen (s : State) : State :=
  { s with cores := { s.cores with blocks := s.cores.blocks.map fun b =>
      { b with groups := b.groups.map fun g => { g with r := { g.r with p := [(1, 1)] } } } } }

theorem wit_Loops_mloop :
    let c := curOf base
    base.current = some c ∧ commonFaults base c 0x012 meldOp = [] ∧ c.path.depth + 1 ≤ frameLimit c.blk
    ∧ pushBlocked c.grp c.run.slotB c.path = false ∧ c.path.mask ≠ 0 ∧ base.traceOff := by
  unfold State.traceOff
  decide

theorem wit_Loops_mnext :
    (let s := chosen (looped 3 [(0, 8, 0x40), (16, 4, 3)])
    s.current = some (curOf s) ∧ commonFaults s (curOf s) 0x013 meldOp = [] ∧ loopTop s (curOf s) 3 = true
    ∧ chosenLanes s (curOf s) meldOp ≠ 0)
    ∧ (let s := looped 3 [(0, 8, 0x40), (16, 4, 3)]
      let c := curOf s
      s.current = some c ∧ commonFaults s c 0x013 meldOp = [] ∧ loopTop s c 3 = true ∧ chosenLanes s c meldOp = 0
      ∧ frameNum s c.blk c.run.gid c.path.depth 16 4 ≠ 0
      ∧ reachesJoin s c { c.path with depth := c.path.depth - 1 } (fallThrough c meldOp) = false) := by
  decide +kernel

theorem wit_Loops_loop :
    (∀ n ∈ [1, 0xFFFFFFFF], let s := s1 n
      s.current = some (curOf s) ∧ commonFaults s (curOf s) 0x00A loopOp = [] ∧ pathGuard (curOf s) loopOp = .all
      ∧ loopCount (curOf s) loopOp ≠ 0 ∧ (curOf s).path.depth + 1 ≤ frameLimit (curOf s).blk
      ∧ pushBlocked (curOf s).grp (curOf s).run.slotB (curOf s).path = false ∧ (curOf s).path.mask ≠ 0 ∧ s.traceOff)
    ∧ Steps base (curOf base) 0x00A loopOp ((curOf base).path.pc + (loopOp.imm16.signExtend 64 <<< 3))
    ∧ loopSkips (curOf base) loopOp = true
    ∧ Steps base (curOf base) 0x00A (gNone loopOp) ((curOf base).path.pc + (loopOp.imm16.signExtend 64 <<< 3))
    ∧ loopSkips (curOf base) (gNone loopOp) = true := by
  refine ⟨?_, steps_of (by decide), by decide, steps_of (by decide), by decide⟩
  intro n hn
  simp only [List.mem_cons, List.not_mem_nil, or_false] at hn
  rcases hn with rfl | rfl <;> (unfold State.traceOff; decide +kernel)

theorem wit_Loops_lend :
    (∀ n ∈ [2, 0xFFFFFFFF], let s := looped 6 [(0, 8, 0x40), (8, 4, n)]
      s.current = some (curOf s) ∧ commonFaults s (curOf s) 0x00B op0 = [] ∧ loopTop s (curOf s) 6 = true
      ∧ 1 < frameNum s (curOf s).blk (curOf s).run.gid (curOf s).path.depth 8 4 ∧ (curOf s).path.mask ≠ 0 ∧ s.traceOff)
    ∧ (let s := looped 6 [(0, 8, 0x40), (8, 4, 1)]
      let c := curOf s
      s.current = some c ∧ commonFaults s c 0x00B op0 = [] ∧ loopTop s c 6 = true
      ∧ frameNum s c.blk c.run.gid c.path.depth 8 4 = 1 ∧ c.path.mask ≠ 0
      ∧ reachesJoin s c { c.path with depth := c.path.depth - 1 } (fallThrough c op0) = false) := by
  refine ⟨?_, by decide +kernel⟩
  intro n hn
  simp only [List.mem_cons, List.not_mem_nil, or_false] at hn
  rcases hn with rfl | rfl <;> (unfold State.traceOff; decide +kernel)

/-- A store of the group that is not answered. -/
def unanswered : State :=
  { base with fab := { base.fab with reqs := [{
      id := 0, kind := .store, who := .group (curOf base).run.blk 0 9, core := 0, line := 0, parts := [], pc := 0, srcid := 0
      phase := .flying, sent := 0 }], nextId := 1 } }

/-- The same where the instruction is not the first of its run. -/
def unansweredMid : State :=
  { unanswered with cores := { unanswered.cores with runs := unanswered.cores.runs.map fun r => { r with count := 5 } } }

theorem wit_EndAndWait_midRun :
    let c := curOf unansweredMid
    unansweredMid.current = some c ∧ commonFaults unansweredMid c 0x009 op0 = [] ∧ c.path.depth = 0 ∧ guardedIn c op0 = c.path.mask
      ∧ c.path.mask ≠ 0 ∧ c.grp.exited = false ∧ c.grp.park = none ∧ groupSlot c.grp (!c.run.slotB) = none
      ∧ (unansweredMid.sendDepotOf c.run.blk c.run.gid).acked c.run.blk c.run.gid = false ∧ c.run.count ≠ 0 := by decide

theorem wit_EndAndWait :
    (Steps part (curOf part) 0x009 (gNone op0) (fallThrough (curOf part) (gNone op0)) ∧ (curOf part).path.depth = 0
      ∧ (curOf part).grp.exited = false ∧ guardedIn (curOf part) (gNone op0) ≠ (curOf part).path.mask)
    ∧ (let c := curOf base
      base.current = some c ∧ commonFaults base c 0x009 op0 = [] ∧ c.path.depth = 0 ∧ guardedIn c op0 = c.path.mask
      ∧ c.path.mask ≠ 0 ∧ c.grp.exited = false ∧ c.grp.park = none ∧ Released base c)
    ∧ (let c := curOf unanswered
      unanswered.current = some c ∧ commonFaults unanswered c 0x009 op0 = [] ∧ c.path.depth = 0 ∧ guardedIn c op0 = c.path.mask
      ∧ c.path.mask ≠ 0 ∧ c.grp.exited = false ∧ c.grp.park = none ∧ groupSlot c.grp (!c.run.slotB) = none ∧ c.run.count = 0
      ∧ (unanswered.sendDepotOf c.run.blk c.run.gid).acked c.run.blk c.run.gid = false)
    ∧ Steps base (curOf base) 0x029 op0 (fallThrough (curOf base) op0) ∧ pathGuard (curOf base) op0 = .all
    ∧ (∀ o ∈ ([{ op0 with c := 1 }, { op0 with b := 0xFF, c := 0xFF }] : List Op),
      Issues base (curOf base) 0x02A o ∧ pathGuard (curOf base) o = .all ∧ o.imm16 ≠ 0)
    ∧ Steps base (curOf base) 0x02A op0 (fallThrough (curOf base) op0) ∧ op0.imm16 = 0 := by
  refine ⟨⟨steps_of (by decide), by decide, by decide, by decide⟩,
    ⟨by decide, by decide, by decide, by decide, by decide, by decide, by decide, released_of (by decide)⟩, by decide, steps_of (by decide),
    by decide, ?_, steps_of (by decide), by decide⟩
  intro o ho
  simp only [List.mem_cons, List.not_mem_nil, or_false] at ho
  rcases ho with rfl | rfl <;> exact ⟨issues_of (by decide), by decide, by decide⟩

/-- BRK where a stop is armed. -/
def armed : State := base.setReg .dbgStopc 0 1

theorem wit_Traps :
    (let c := curOf base
    base.current = some c ∧ commonFaults base c 0x028 op0 = [] ∧ guardedIn c op0 ≠ 0 ∧ joinFault base c (fallThrough c op0) = []
    ∧ commonFaults base c 0x02B op0 = [] ∧ pathGuard c op0 = .all ∧ (base.reg .dbgStopc 0).getLsbD 0 = false
    ∧ c.grp.cands = [] ∧ c.grp.recorded = false ∧ pendLive c.grp = false ∧ c.blk.stop ≠ some .cancel)
    ∧ (let c := curOf armed
      armed.current = some c ∧ commonFaults armed c 0x02B op0 = [] ∧ pathGuard c op0 = .all
      ∧ (armed.reg .dbgStopc 0).getLsbD 0 = true ∧ joinFault armed c (fallThrough c op0) = [] ∧ armed.traceOff
      ∧ armed.clk.gt + 4096 < 2 ^ 64) := by
  unfold State.traceOff
  decide

/-- Some whole-path instructions, with the guard none and partial. -/
theorem wit_WholePathGuards :
    (Instr.parts (.yield (gNone op0)) = some (0x029, gNone op0))
    ∧ (∀ x ∈ ([(0x029, gNone op0), (0x1A0, gNone op0), (0x1A9, gNone op0), (0x230, { gNone op0 with d := 0xF0, a := 0xA0 }),
      (0x280, { gNone op0 with d := 0xA0, a := 0xA2 }), (0x291, gNone wrLwin)] : List (BitVec 10 × Op)),
      (Steps base (curOf base) x.1 x.2 (fallThrough (curOf base) x.2) ∧ pathGuard (curOf base) x.2 = .none)
      ∧ part.current = some (curOf part) ∧ commonFaults part (curOf part) x.1 x.2 = [] ∧ pathGuard (curOf part) x.2 = .some
      ∧ joinFault part (curOf part) (fallThrough (curOf part) x.2) = []) := by
  refine ⟨rfl, ?_⟩
  intro x hx
  simp only [List.mem_cons, List.not_mem_nil, or_false] at hx
  rcases hx with rfl | rfl | rfl | rfl | rfl | rfl <;> exact ⟨⟨steps_of (by decide), by decide⟩, by decide, by decide, by decide, by decide⟩

/-- Control forms that no lane of the path is guarded into, and the same guarded into some. -/
theorem wit_WholePathGuards_control :
    (∀ x ∈ ([(0x003, jmpiOp), (0x005, callOp), (0x006, calliOp), (0x007, { op0 with a := 0xF8 })] : List (BitVec 10 × Op)),
      Steps base (curOf base) x.1 (gNone x.2) (fallThrough (curOf base) (gNone x.2)) ∧ pathGuard (curOf base) (gNone x.2) = .none
      ∧ (curOf base).path.loop = none)
    ∧ (Steps base (curOf base) 0x00A (gNone { op0 with a := 0xA1, c := 4 }) ((curOf base).path.pc + 32)
      ∧ pathGuard (curOf base) (gNone { op0 with a := 0xA1, c := 4 }) = .none)
    ∧ ∀ x ∈ ([(0x001, braOp), (0x00A, { op0 with a := 0xA1, c := 4 }), (0x003, jmpiOp), (0x005, callOp), (0x006, calliOp),
        (0x007, { op0 with a := 0xF8 })] : List (BitVec 10 × Op)),
      part.current = some (curOf part) ∧ commonFaults part (curOf part) x.1 (gNone x.2) = []
      ∧ pathGuard (curOf part) (gNone x.2) = .some := by
  refine ⟨?_, ⟨steps_of (by decide), by decide⟩, by decide⟩
  intro x hx
  simp only [List.mem_cons, List.not_mem_nil, or_false] at hx
  rcases hx with rfl | rfl | rfl | rfl <;> exact ⟨steps_of (by decide), by decide, by decide⟩

/-- Engine forms: their tile predicate off, no lane guarded in, and some. -/
def extOp : Op := { op0 with ext := .extn false 0 0 0 }
def tileOff : Op := { op0 with ext := .extn true 0 0 0 }

theorem wit_WholePathGuards_engines :
    (∀ x ∈ ([(0x201, extOp), (0x206, extOp), (0x207, extOp)] : List (BitVec 10 × Op)),
      Steps base (curOf base) x.1 (gNone x.2) (fallThrough (curOf base) (gNone x.2)) ∧ pathGuard (curOf base) (gNone x.2) = .none
      ∧ part.current = some (curOf part) ∧ commonFaults part (curOf part) x.1 (gNone x.2) = []
      ∧ tileOn (curOf part) (gNone x.2) = true ∧ pathGuard (curOf part) (gNone x.2) = .some
      ∧ joinFault part (curOf part) (fallThrough (curOf part) (gNone x.2)) = [])
    ∧ (Steps base (curOf base) 0x201 tileOff (fallThrough (curOf base) tileOff) ∧ tileOn (curOf base) tileOff = false)
    ∧ (Issues part (curOf part) 0x234 (gNone { op0 with d := 0xA2, a := 0xF1 })
      ∧ pathGuard (curOf part) (gNone { op0 with d := 0xA2, a := 0xF1 }) = .some) := by
  refine ⟨?_, ⟨steps_of (by decide), by decide⟩, issues_of (by decide), by decide⟩
  intro x hx
  simp only [List.mem_cons, List.not_mem_nil, or_false] at hx
  rcases hx with rfl | rfl | rfl <;> exact ⟨steps_of (by decide), by decide, by decide, by decide, by decide, by decide, by decide⟩

/-! ### Premises met: memory and synchronisation -/

/-- Accesses of v1: scratch from `lane`, plain; global from the pair a2. -/
def scrOp : Op := { op0 with ty := .n8, d := 1, a := 0xF9, mod := 0x004 }
def gloOp : Op := { op0 with ty := .n32, d := 1, a := 0x82, c := 0x40 }
def gatOp : Op := { op0 with ty := .n32, d := 1, a := 2 }

theorem base_clear : base.memClear (curOf base).run.blk (curOf base).run.gid = true := by decide
theorem base_released : Released base (curOf base) := released_of (by decide)
theorem base_traceOff : base.traceOff := by
  unfold State.traceOff
  decide

theorem wit_ScratchLoads :
    (let c := curOf base
    let ls := activeLanes base c scrOp
    inScratch scrOp = true ∧ Accesses base c 0x180 scrOp true (lanePlaces base c scrOp ls)
      ∧ scrUncorr base c true scrOp.ty.bytes (lanePlaces base c scrOp ls) = [])
    ∧ (let c := curOf base
      let o : Op := { scrOp with a := 2 }
      let ls := activeLanes base c o
      inScratch o = true ∧ Accesses base c 0x182 o true (lanePlaces base c o ls)
      ∧ scrUncorr base c true o.ty.bytes (lanePlaces base c o ls) = [])
    ∧ (let c := curOf base
      let o : Op := { scrOp with ty := .n32, a := 0xF8, b := 0x7F, c := 0xFC }
      inScratch o = true ∧ Accesses base c 0x185 o true (lduPlace base c o)
      ∧ scrUncorr base c true o.ty.bytes (lduPlace base c o) = [] ∧ shapeFaults base c 0x185 o none = [])
    ∧ (let c := curOf base
      let o : Op := { op0 with d := 4, a := 0xF8, mod := 0x006 }
      let ls := activeLanes base c o
      Issues base c 0x186 o ∧ ls ≠ 0 ∧ tileFaults base c o = []
      ∧ scrUncorr base c true 4 ((tileParts c o ls).map fun p => (p.1 % 32, p.2)) = []) :=
  ⟨⟨by decide, accesses_of (by decide), by decide⟩, ⟨by decide, accesses_of (by decide), by decide⟩,
    ⟨by decide, accesses_of (by decide), by decide, by decide⟩, ⟨issues_of (by decide), by decide, by decide, by decide⟩⟩

theorem wit_ScratchStores :
    (let c := curOf base
    inScratch scrOp = true ∧ Accesses base c 0x181 scrOp true (lanePlaces base c scrOp (activeLanes base c scrOp))
      ∧ (startOf base c scrOp).memClear c.run.blk c.run.gid = true)
    ∧ (let c := curOf base
      let o : Op := { scrOp with mod := 0x0A4 }
      inScratch o = true ∧ Accesses base c 0x181 o true (lanePlaces base c o (activeLanes base c o)) ∧ (relOf o).isSome = true
      ∧ Released base c ∧ (startOf base c o).memClear c.run.blk c.run.gid = true)
    ∧ (let c := curOf base
      let o : Op := { scrOp with a := 2 }
      inScratch o = true ∧ Accesses base c 0x183 o true (lanePlaces base c o (activeLanes base c o))
      ∧ (startOf base c o).memClear c.run.blk c.run.gid = true)
    ∧ (let c := curOf base
      let o : Op := { op0 with d := 4, a := 0xF8, mod := 0x006 }
      Issues base c 0x187 o ∧ activeLanes base c o ≠ 0 ∧ tileFaults base c o = []) :=
  ⟨⟨by decide, accesses_of (by decide), by decide⟩,
    ⟨by decide, accesses_of (by decide), by decide, base_released, by decide⟩,
    ⟨by decide, accesses_of (by decide), by decide⟩, ⟨issues_of (by decide), by decide, by decide⟩⟩

theorem wit_GlobalLoads :
    (let c := curOf base
    let ls := activeLanes base c gloOp
    inScratch gloOp = false ∧ Accesses base c 0x180 gloOp false (lanePlaces base c gloOp ls)
      ∧ badPlaces (lanePlaces base c gloOp ls) = [])
    ∧ (let c := curOf base
      let ls := activeLanes base c gatOp
      inScratch gatOp = false ∧ Accesses base c 0x182 gatOp false (lanePlaces base c gatOp ls)
      ∧ badPlaces (lanePlaces base c gatOp ls) = [])
    ∧ (let c := curOf base
      let o : Op := { gloOp with d := 0xA1, a := 0xA2 }
      inScratch o = false ∧ Accesses base c 0x185 o false (lduPlace base c o) ∧ badPlaces (lduPlace base c o) = []
      ∧ shapeFaults base c 0x185 o none = [])
    ∧ Issues base (curOf base) 0x184 { op0 with a := 0x82 } :=
  ⟨⟨by decide, accesses_of (by decide), by decide⟩, ⟨by decide, accesses_of (by decide), by decide⟩,
    ⟨by decide, accesses_of (by decide), by decide, by decide⟩, issues_of (by decide)⟩

/-- An atomic on the pair v2, with v3 as operand and, for ACAS, v4; with a result, and without. -/
def atomOp : Op := { op0 with ty := .n32, d := 1, a := 2, b := 4 }

theorem wit_GlobalStoresAndAtomics :
    (let c := curOf base
    let ls := activeLanes base c gloOp
    inScratch gloOp = false ∧ Accesses base c 0x181 gloOp false (lanePlaces base c gloOp ls)
      ∧ badPlaces (lanePlaces base c gloOp ls) = [] ∧ sideFull base c = false)
    ∧ (let c := curOf base
      let ls := activeLanes base c gatOp
      inScratch gatOp = false ∧ Accesses base c 0x183 gatOp false (lanePlaces base c gatOp ls)
      ∧ badPlaces (lanePlaces base c gatOp ls) = [])
    ∧ ∀ x ∈ ([(0x190, atomOp), (0x190, { atomOp with d := 0, mod := 1 }), (0x191, { atomOp with ty := .i64, d := 6 }), (0x192, atomOp),
        (0x193, atomOp), (0x194, atomOp), (0x195, atomOp), (0x196, atomOp), (0x197, { atomOp with c := 5 }),
        (0x198, { atomOp with ty := .f32 })] : List (BitVec 10 × Op)),
      Accesses base (curOf base) x.1 x.2 false (atomPlaces base (curOf base) x.2) ∧ badPlaces (atomPlaces base (curOf base) x.2) = [] := by
  refine ⟨⟨by decide, accesses_of (by decide), by decide, by decide⟩, ⟨by decide, accesses_of (by decide), by decide⟩, ?_⟩
  intro x hx
  simp only [List.mem_cons, List.not_mem_nil, or_false] at hx
  rcases hx with rfl | rfl | rfl | rfl | rfl | rfl | rfl | rfl | rfl | rfl <;> exact ⟨accesses_of (by decide), by decide⟩

/-- The first word of program scratch holds an uncorrectable error. -/
def badScr : State := { base with fab := { base.fab with bad := [spaceKey (scratchSpace (curOf base).blk.core) (curOf base).blk.ext] } }

/-- An address one byte off, an offset at which the last byte lies beyond program scratch, and a word with an error. -/
theorem wit_AccessFaults :
    (let c := curOf base
    let o : Op := { gloOp with c := 0x41 }
    Instr.parts (.ld o) = some (0x180, o) ∧ Issues base c 0x180 o ∧ inScratch o = false
      ∧ (lanePlaces base c o (activeLanes base c o)).filter (fun p => p.2.toNat % o.ty.bytes != 0) ≠ [])
    ∧ (let c := curOf base
      let o : Op := { scrOp with ty := .n32, a := 0xF8, b := 0x7F, c := 0xFC }
      let b := baseB fun b => { b with scr := 0x7FFF }
      Instr.parts (.st o) = some (0x181, o) ∧ Issues base c 0x181 o ∧ inScratch o = true
      ∧ (lanePlaces b (curOf b) o (activeLanes b (curOf b) o)).filter (fun p => decide ((curOf b).blk.scr < p.2.toNat + o.ty.bytes)) ≠ []
      ∧ Issues b (curOf b) 0x181 o ∧ ∀ p ∈ lanePlaces b (curOf b) o (activeLanes b (curOf b) o), p.2.toNat % o.ty.bytes = 0)
    ∧ (let s := badScr
      let o : Op := { scrOp with ty := .n32, a := 0xF8 }
      Instr.parts (.ld o) = some (0x180, o) ∧ Issues s (curOf s) 0x180 o ∧ inScratch o = true
      ∧ placeFaults (curOf s) true o.ty.bytes o.ty.bytes (lanePlaces s (curOf s) o (activeLanes s (curOf s) o)) = []
      ∧ (lanePlaces s (curOf s) o (activeLanes s (curOf s) o)).filter (fun p =>
          s.uncorrIn (spaceKey (scratchSpace (curOf s).blk.core) ((curOf s).blk.ext + p.2.toNat)) o.ty.bytes) ≠ []) :=
  ⟨⟨rfl, issues_of (by decide), by decide, by decide⟩,
    ⟨rfl, issues_of (by decide), by decide, by decide, issues_of (by decide), by decide⟩,
    ⟨rfl, issues_of (by decide), by decide, by decide, by decide⟩⟩

theorem wit_Fences_midRun :
    let c := curOf unansweredMid
    Issues unansweredMid c 0x1A0 op0 ∧ pathGuard c op0 = .all
      ∧ (unansweredMid.sendDepotOf c.run.blk c.run.gid).acked c.run.blk c.run.gid = false ∧ c.run.count ≠ 0 :=
  ⟨issues_of (by decide), by decide, by decide, by decide⟩

theorem wit_Fences :
    (∀ o ∈ ([op0, { op0 with mod := 0x140 }] : List Op),
      Steps base (curOf base) 0x1A0 o (fallThrough (curOf base) o) ∧ pathGuard (curOf base) o = .all)
    ∧ Released base (curOf base)
    ∧ (let c := curOf unanswered
      Issues unanswered c 0x1A0 op0 ∧ pathGuard c op0 = .all
      ∧ (unanswered.sendDepotOf c.run.blk c.run.gid).acked c.run.blk c.run.gid = false)
    ∧ Steps base (curOf base) 0x1A9 op0 (fallThrough (curOf base) op0) := by
  refine ⟨?_, base_released, ⟨issues_of (by decide), by decide, by decide⟩, steps_of (by decide)⟩
  intro o ho
  simp only [List.mem_cons, List.not_mem_nil, or_false] at ho
  rcases ho with rfl | rfl <;> exact ⟨steps_of (by decide), by decide⟩

/-- The barrier object at offset 0 of program scratch: a word that a state holds there. -/
def objWord (x : Nat) (s : State) : State :=
  let key := spaceKey (scratchSpace (curOf s).blk.core) ((curOf s).blk.ext + 0)
  { s with fab := { s.fab with mem := s.fab.mem.setNum key 8 x } }
/-- An instruction on the object at the offset that `zero` gives. -/
def objOp : Op := { op0 with a := 0xF8 }
def arwtOp : Op := { objOp with d := 0xA0 }
/-- Its EXPECT is 1, then 2. -/
def exp1 : State := objWord (1 * 2 ^ 32) base
def exp2 : State := objWord (2 * 2 ^ 32) base

theorem exp_released : Released exp1 (curOf exp1) ∧ Released exp2 (curOf exp2) :=
  ⟨released_of (by decide), released_of (by decide)⟩

theorem wit_BarrierObjects :
    (pathGuard (curOf base) objOp = .all ∧ objFaults (curOf base) objOp = [] ∧ Issues base (curOf base) 0x1A1 { objOp with b := 0xA1 })
    ∧ (pathGuard (curOf exp1) objOp = .all ∧ objFaults (curOf exp1) objOp = [] ∧ Issues exp1 (curOf exp1) 0x1A2 objOp
      ∧ exp1.traceOff ∧ phaseWaiters (curOf exp1).blk 0 = [])
    ∧ (Issues exp2 (curOf exp2) 0x1A2 objOp ∧ exp2.traceOff)
    ∧ (let o : Op := { objOp with mod := 1 }
      Steps base (curOf base) 0x1A3 o (fallThrough (curOf base) o) ∧ hasImprecise (curOf base).grp = false
      ∧ base.phaseOf (curOf base).blk 0 ≠ waitPhase (curOf base) o)
    ∧ (Issues base (curOf base) 0x1A3 objOp ∧ base.phaseOf (curOf base).blk 0 = waitPhase (curOf base) objOp)
    ∧ (Steps exp1 (curOf exp1) 0x1A4 arwtOp (fallThrough (curOf exp1) arwtOp) ∧ hasArrived (curOf exp1) = false)
    ∧ (Issues exp2 (curOf exp2) 0x1A4 arwtOp ∧ hasArrived (curOf exp2) = false)
    ∧ (let s := baseG fun g => { g with arrA := true }
      Issues s (curOf s) 0x1A4 arwtOp ∧ hasArrived (curOf s) = true ∧ s.memClear (curOf s).run.blk (curOf s).run.gid = true
      ∧ s.phaseOf (curOf s).blk 0 = (FMap.get 0 (curOf s).grp.r.s (arwtOp.d.toNat - 0xA0)).toNat % 2) := by
  refine ⟨⟨by decide, by decide, issues_of (by decide)⟩, ⟨by decide, by decide, issues_of (by decide), ?_, by decide⟩,
    ⟨issues_of (by decide), ?_⟩, ⟨steps_of (by decide), by decide, by decide⟩, ⟨issues_of (by decide), by decide⟩,
    ⟨steps_of (by decide), by decide⟩, ⟨issues_of (by decide), by decide⟩, ⟨issues_of (by decide), by decide, by decide, by decide⟩⟩
  all_goals unfold State.traceOff
  all_goals decide

/-- A second group of the block. -/
def second (f : Group → Group) : State := baseB fun b => { b with groups := b.groups ++ [f { fetchGroup with gid := 1 }] }
def inBar : State :=
  second fun g => { g with park := some { cond := .barBlk, slotB := false, op := { op0 with mod := 0x040 } } }
def barBlkOp : Op := { op0 with mod := 0x040 }
/-- BAR.clu 1 with the number of participants in s1. -/
def barCluOp : Op := { op0 with a := 0xA1, mod := 0x081 }

theorem wit_HardwareBarriers :
    (∀ s ∈ [inBar, second id], ((curOf s).blk.groups.map fun g => g.gid).Nodup ∧ Issues s (curOf s) 0x1A5 barBlkOp
      ∧ pathGuard (curOf s) barBlkOp = .all ∧ barPath s (curOf s) barBlkOp = [] ∧ Released s (curOf s)
      ∧ hasArrived (curOf s) = false)
    ∧ (∀ g ∈ (curOf inBar).blk.groups, g.gid ≠ (curOf inBar).run.gid → g.exited = true ∨ inBarBlk g = true)
    ∧ (curOf inBar).grp.exited = false
    ∧ (∃ g ∈ (curOf (second id)).blk.groups, g.gid ≠ (curOf (second id)).run.gid ∧ g.exited = false ∧ inBarBlk g = false)
    ∧ (∀ n ∈ [1, 2], let s := s1 n
      let c := curOf s
      (c.blk.groups.map fun g => g.gid).Nodup ∧ Issues s c 0x1A5 barCluOp ∧ pathGuard c barCluOp = .all
      ∧ barPath s c barCluOp = [] ∧ Released s c ∧ barFull (s.cluster (c.blk.core / 4)) c.blk.key barCluOp.kMem.toNat = false)
    ∧ (barEntry ((s1 1).cluster 0) (curOf (s1 1)).blk.key 1).count + 1 = (laneVal (curOf (s1 1)) barCluOp.a 0).toNat
    ∧ (barEntry ((s1 2).cluster 0) (curOf (s1 2)).blk.key 1).count + 1 ≠ (laneVal (curOf (s1 2)) barCluOp.a 0).toNat
    ∧ ((curOf (s1 1)).run.blk, (curOf (s1 1)).run.gid) ∉ (barEntry ((s1 1).cluster 0) (curOf (s1 1)).blk.key 1).inside := by
  refine ⟨?_, by decide, by decide, ⟨{ fetchGroup with gid := 1 }, by decide, by decide, rfl, rfl⟩, ?_, by decide, by decide, by decide⟩
  · intro s hs
    simp only [List.mem_cons, List.not_mem_nil, or_false] at hs
    rcases hs with rfl | rfl <;>
      exact ⟨by decide, issues_of (by decide), by decide, by decide, released_of (by decide), by decide⟩
  · intro n hn
    simp only [List.mem_cons, List.not_mem_nil, or_false] at hn
    rcases hn with rfl | rfl <;>
      exact ⟨by decide, issues_of (by decide), by decide, by decide, released_of (by decide), by decide⟩

/-- WAITN of the array counter, at most n. -/
def waitnOp (n : Nat) : Op := { op0 with mod := 1, b := BitVec.ofNat 8 (n / 256), c := BitVec.ofNat 8 n }
/-- WAITMEM of the word at the pair s2 or the offset s2 against s0, which it equals: until it differs, and until it does not. -/
def waitmemOp : Op := { op0 with ty := .n32, d := 0xA1, a := 0xA2, b := 0xA0 }
def waitmemScr : Op := { waitmemOp with mod := 0x005 }
def waitmemNe : Op := { waitmemOp with mod := 0x004 }

theorem wit_Waits :
    (∀ n ∈ [0, 63], Steps base (curOf base) 0x1A6 (waitnOp n) (fallThrough (curOf base) (waitnOp n))
      ∧ pathGuard (curOf base) (waitnOp n) = .all ∧ (curOf base).grp.cnt.get (classOfNum (waitnOp n).kMem.toNat) ≤ (waitnOp n).imm16.toNat
      ∧ hasImprecise (curOf base).grp = false)
    ∧ (let s := baseG fun g => { g with cnt := { g.cnt with arr := 1 } }
      Issues s (curOf s) 0x1A6 (waitnOp 0) ∧ (waitnOp 0).imm16.toNat < (curOf s).grp.cnt.get (classOfNum (waitnOp 0).kMem.toNat))
    ∧ (Issues base (curOf base) 0x1A7 waitmemOp ∧ pathGuard (curOf base) waitmemOp = .all ∧ waitmemFaults base (curOf base) waitmemOp = []
      ∧ inScratch waitmemOp = false ∧ vaLegal (pairVal (curOf base) waitmemOp.a 0) = true)
    ∧ (Steps base (curOf base) 0x1A7 waitmemScr (fallThrough (curOf base) waitmemScr) ∧ waitmemFaults base (curOf base) waitmemScr = []
      ∧ inScratch waitmemScr = true ∧ base.memClear (curOf base).run.blk (curOf base).run.gid = true ∧ hasImprecise (curOf base).grp = false
      ∧ waitHolds (curOf base) waitmemScr (base.scrRead (curOf base).blk (waitPlace (curOf base) waitmemScr) waitmemScr.ty.bytes) = true)
    ∧ (Issues base (curOf base) 0x1A7 waitmemNe ∧ waitmemFaults base (curOf base) waitmemNe = [] ∧ inScratch waitmemNe = true
      ∧ base.memClear (curOf base).run.blk (curOf base).run.gid = true
      ∧ waitHolds (curOf base) waitmemNe (base.scrRead (curOf base).blk (waitPlace (curOf base) waitmemNe) waitmemNe.ty.bytes) = false) := by
  refine ⟨?_, ⟨issues_of (by decide), by decide⟩, ⟨issues_of (by decide), by decide, by decide, by decide, by decide⟩,
    ⟨steps_of (by decide), by decide, by decide, by decide, by decide, by decide⟩, ⟨issues_of (by decide), by decide, by decide, by decide, by decide⟩⟩
  intro n hn
  simp only [List.mem_cons, List.not_mem_nil, or_false] at hn
  rcases hn with rfl | rfl <;> exact ⟨steps_of (by decide), by decide, by decide, by decide⟩

/-! ### Premises met: engines -/

/-- An engine instruction with the given PARAM. -/
def engOp (param : Nat) : Op := { op0 with ext := .extn false 0 0 (BitVec.ofNat 50 param) }

def arrReady (s : State) (opc : BitVec 10) (o : Op) (own : List FaultInfo) : Prop :=
  EngineReady s (curOf s) opc o (own ++ countFaults (curOf s) .arr (guardedIn (curOf s) o))
  ∧ (bookingOf (s.cluster 0) (curOf s).run.blk (curOf s).run.gid = none → freeBooking (s.cluster 0) ≠ none)

/-- The words MSTAT, MSTREAM and MDRAIN.FOLD are worked for in chapter 22. -/
def mstatOp : Op := { engOp 0x1FEC with a := 0xF8, mod := 1 }
def mstatScr : Op := { engOp 0x1FC0 with a := 0xF8 }
def mstreamOp : Op := { engOp 0x3FC00 with a := 0xF8, b := 0xF8 }
def mdrainOp : Op := { engOp 0x0000FC00 with ty := .f32, a := 0xF8, b := 0xA0 }
def mdrainReg : Op := { engOp 0x1C00 with ty := .f32, d := 0x78, mod := 1 }

theorem wit_ArrayOperations :
    (let c := curOf base
    let d := statDesc mstatOp
    arrReady base 0x200 mstatOp (misalign c mstatOp (uniNat c mstatOp.a % 64 != 0) (uniNat c mstatOp.a)
      ++ (if mstatOp.kEng.getLsbD 0 then [] else scrRange c mstatOp (uniNat c mstatOp.a) (imageBytes d)))
    ∧ sparseFault base c mstatOp (mstatOp.kEng.getLsbD 0) (uniNat c mstatOp.a) d = none
    ∧ (d.sparse = true → mstatOp.kEng.getLsbD 0 = true → base.statWaits c.blk (uniNat c mstatOp.a) d = false))
    ∧ arrReady base 0x201 (engOp 0) [] ∧ arrReady base 0x202 (engOp 0) [] ∧ arrReady base 0x206 (engOp 0) []
    ∧ arrReady base 0x207 (engOp 3) []
    ∧ (mdrainOp.kEng.getLsbD 0 = false ∧ arrReady base 0x204 mdrainOp (drainFaults (curOf base) mdrainOp)
      ∧ arrReady base 0x205 mdrainOp (drainFaults (curOf base) mdrainOp))
    ∧ (mdrainReg.kEng.getLsbD 0 = true ∧ arrReady base 0x204 mdrainReg (drainFaults (curOf base) mdrainReg)
      ∧ arrReady base 0x205 mdrainReg (drainFaults (curOf base) mdrainReg)) := by
  refine ⟨⟨⟨engine_of (by decide), fun _ => by decide⟩, by decide, by decide⟩, ⟨engine_of (by decide), fun _ => by decide⟩,
    ⟨engine_of (by decide), fun _ => by decide⟩, ⟨engine_of (by decide), fun _ => by decide⟩,
    ⟨engine_of (by decide), fun _ => by decide⟩, ⟨by decide, ⟨engine_of (by decide), fun _ => by decide⟩,
    ⟨engine_of (by decide), fun _ => by decide⟩⟩, ⟨by decide, ⟨engine_of (by decide), fun _ => by decide⟩,
    ⟨engine_of (by decide), fun _ => by decide⟩⟩⟩

/-- MSTREAM needs a plane that the block expects in ACTIVE. -/
def planed : State := baseB fun b => { b with expA := some { fmt := 0, nc := 256, kb := 32, meta_ := false, sparse := false } }

theorem wit_ArrayOperations_mstream : arrReady planed 0x203 mstreamOp (streamFaults (curOf planed) mstreamOp) :=
  ⟨engine_of (by decide +kernel), fun _ => by decide⟩

theorem wit_QuarterOperations :
    (∀ x ∈ ([(0x210, { engOp 0 with ty := .i8, d := 0xE8, a := 0, b := 8 }), (0x212, { engOp 0 with d := 0xEF }), (0x213, { engOp 0 with d := 0xE8 }),
      (0x211, { engOp 0 with ty := .f32, d := 8, a := 0xE8 })] : List (BitVec 10 × Op)),
      Issues base (curOf base) x.1 x.2 ∧ tileOn (curOf base) x.2 = true ∧ activeLanes base (curOf base) x.2 ≠ 0)
    ∧ (curOf base).grp.cnt.get .qmu < 63 := by
  refine ⟨?_, by decide⟩
  intro x hx
  simp only [List.mem_cons, List.not_mem_nil, or_false] at hx
  rcases hx with rfl | rfl | rfl | rfl <;> exact ⟨issues_of (by decide), by decide, by decide⟩

/-- COPY.FET and COPY.SPL of 64 bytes on channel 7, and COPYR. -/
def copyLen : State := baseG fun g => { g with r := { g.r with s := [(12, 64)] } }
def copyFet : Op := { engOp 7 with a := 0xA0, b := 0xA2, c := 0xAC }
def copySpl : Op := { engOp 0 with a := 0xA2, b := 0xA0, c := 0xAC, mod := 1 }
def copyrOp : Op := { engOp 0 with ty := .n32, a := 0xA2, b := 0xA0, c := 0xAC, mod := 1 }

theorem wit_Copies :
    (∀ o ∈ ([copyFet, copySpl] : List Op), EngineReady copyLen (curOf copyLen) 0x218 o (copyFaults false copyLen (curOf copyLen) o)
      ∧ (copyLen.chanOf (curOf copyLen).blk.core (o.pf 0 3)).length < 16)
    ∧ EngineReady copyLen (curOf copyLen) 0x219 copyrOp (copyFaults true copyLen (curOf copyLen) copyrOp) := by
  refine ⟨?_, engine_of (by decide)⟩
  intro o ho
  simp only [List.mem_cons, List.not_mem_nil, or_false] at ho
  rcases ho with rfl | rfl <;> exact ⟨engine_of (by decide), by decide⟩

/-- One step over one element; and a loop of one body instruction, an ADD that stands behind it. -/
def nestOp : Op := { op0 with ty := .i32, d := 0xA0, a := 0xA1, b := 0xA2, mod := 1, ext := .quad 1 }
def lbufOp (trips : Nat) : Op := { op0 with a := 0xF8, ext := .quad (BitVec.ofNat 180 (trips * 2 ^ 132)) }
def bodied : State :=
  { base with fab := { base.fab with mem := base.fab.mem.setNum (spaceKey 0 0 + 32) 8 0x1203860204000B00 } }

theorem wit_NestLoopAndMergePath :
    EngineReady base (curOf base) 0x220 nestOp (nestFaults (curOf base) nestOp)
    ∧ (∀ n ∈ [0, 2 ^ 32 - 1], ∃ b, bodied.readBody (curOf bodied) (lbufSel (lbufOp n)) (lbufLen (lbufOp n)) 0 ((curOf bodied).path.pc + 32) = .ok b 1)
    ∧ (lbufTrips (lbufOp 0) = 0 ∧ Steps bodied (curOf bodied) 0x221 (lbufOp 0) ((curOf bodied).path.pc + 32 + BitVec.ofNat 64 (8 * 1)))
    ∧ (lbufTrips (lbufOp (2 ^ 32 - 1)) ≠ 0 ∧ Steps bodied (curOf bodied) 0x221 (lbufOp (2 ^ 32 - 1)) ((curOf bodied).path.pc + 32))
    ∧ EngineReady base (curOf base) 0x228 { engOp 0 with d := 0xA0, a := 0xA2, b := 0xA4, c := 0xA5 }
        (mpathFaults (curOf base) { engOp 0 with d := 0xA0, a := 0xA2, b := 0xA4, c := 0xA5 }) := by
  refine ⟨engine_of (by decide), ?_, ⟨by decide, steps_of (by decide)⟩, ⟨by decide, steps_of (by decide)⟩, engine_of (by decide)⟩
  intro n hn
  simp only [List.mem_cons, List.not_mem_nil, or_false] at hn
  rcases hn with rfl | rfl <;> exact ⟨_, rfl⟩

/-- Tiles at offset 0 and dense rows of 32 elements from offset 0x400 on. -/
def dense (w : Word) : State := baseG fun g => { g with r := { g.r with s := [(1, 0x400), (2, w)] } }
def bmapOp : Op := { engOp 0 with ty := .n8, a := 0xA0, b := 0xA1, c := 0xA2 }

theorem wit_BitmapTiles :
    (let s := dense 64
    s.reg .dbgTrctl 0 = 0 ∧ EngineReady s (curOf s) 0x229 bmapOp (bmapEarly (curOf s) bmapOp)
    ∧ bmapFaults s (curOf s) bmapOp = [] ∧ packBytes bmapOp.ty 32 ≤ (laneVal (curOf s) bmapOp.c 0).toNat)
    ∧ (let s := dense 64
      EngineReady s (curOf s) 0x22A bmapOp (bpackFaults (curOf s) bmapOp) ∧ bpackBad s (curOf s) bmapOp = []) :=
  ⟨⟨by decide, engine_of (by decide +kernel), by decide +kernel, by decide⟩, engine_of (by decide +kernel), by decide +kernel⟩

/-- LAUNCH, LWAIT and LCANCEL by the pair s2. -/
def launchOp : Op := { op0 with d := 0xA0, a := 0xA2 }
def pod1 : PodLaunch :=
  { seq := 0, lrec := fetchRec, recVa := 0, issuer := .cmd 0 0, home := 0, reqId := 0, state := .committed }

theorem wit_Launches :
    (Issues base (curOf base) 0x280 launchOp ∧ pathGuard (curOf base) launchOp = .all ∧ (pairVal (curOf base) launchOp.a 0).toNat % 128 = 0
      ∧ Released base (curOf base))
    ∧ (Issues base (curOf base) 0x281 launchOp ∧ (pairVal (curOf base) launchOp.a 0).toNat % 64 = 0 ∧ vaLegal (pairVal (curOf base) launchOp.a 0) = true)
    ∧ (let s : State := { base with lau := { base.lau with pods := [pod1] } }
      let o : Op := { op0 with a := 0xA2 }
      Steps s (curOf s) 0x282 o (fallThrough (curOf s) o) ∧ s.lau.pods = [pod1] ∧ s.lau.reqs = [] ∧ pod1.state = .committed) :=
  ⟨⟨issues_of (by decide), by decide, by decide, released_of (by decide)⟩, ⟨issues_of (by decide), by decide, by decide⟩,
    ⟨steps_of (by decide), rfl, rfl, rfl⟩⟩

/-- Two groups of one partition: the issuing one gives 8 registers, the other, with 64, takes them. -/
def pairOf (f : Group → Group) : State :=
  baseB fun b => { b with groups := b.groups ++ [f { fetchGroup with gid := 4, w := 64, segs := [(128, 64)] }] }
def hitchGive : Op := { op0 with b := 1, c := 4 }
def waitsFor : State :=
  pairOf fun g => { g with park := some { cond := .hitch 0 8 false, slotB := false, op := { op0 with b := 1, c := 0, mod := 1 } } }

theorem wit_HitchExchange :
    (let c := curOf (pairOf id)
    Issues (pairOf id) c 0x288 hitchGive ∧ hitchBad c hitchGive = false ∧ (blockGroup? c.blk 4).isSome = true
      ∧ ∀ g ∈ c.blk.groups, hitchOf g = none)
    ∧ (let c := curOf waitsFor
      Issues waitsFor c 0x288 hitchGive ∧ hitchBad c hitchGive = false
      ∧ ∃ q, blockGroup? c.blk 4 = some q ∧ hitchOf q = some (c.run.gid, 8, !true) ∧ (∀ g ∈ c.blk.groups, g.gid ≠ 4 → hitchOf g = none)
        ∧ (c.blk.groups.filter fun g => g.gid == c.run.gid || g.gid == 4).length = 2 ∧ pendLive c.grp = false ∧ pendLive q = false
        ∧ c.grp.cands = [] ∧ q.cands = [] ∧ 8 + 8 ≤ c.grp.w ∧ q.w + 8 ≤ 128 ∧ (hitchPair 8 c.grp q).2.segs.length ≤ 4
        ∧ ∀ e ∈ q.r.v, e.1 < 32 * q.w) := by
  refine ⟨⟨issues_of (by decide), by decide, by decide, by decide⟩, issues_of (by decide), by decide, _, rfl, ?_⟩
  decide

/-- A next state there is, for one instruction of each frame. -/
theorem wit_Frames :
    base.current = some (curOf base)
    ∧ (∃ t, exec (.add (op3 .i32)) base = .next t) ∧ 0x080 ∈ laneOpcodes
    ∧ (∃ t, exec (.pmov { op0 with d := 0xE1, a := 0xE2 }) base = .next t) ∧ 0x01D ∈ predOpcodes
    ∧ (∃ t, exec (.tset { op0 with d := 0xF0, a := 0xA0 }) base = .next t)
    ∧ (∃ t, exec (.ld gloOp) base = .next t) ∧ (∃ t, exec (.nop op0) base = .next t) ∧ (∃ t, exec (.st gloOp) base = .next t) :=
  ⟨by decide, ⟨_, rfl⟩, by decide, ⟨_, rfl⟩, by decide, ⟨_, rfl⟩, ⟨_, rfl⟩, ⟨_, rfl⟩, ⟨_, rfl⟩⟩

/-- One instruction of every clause of the frames, with a next state. -/
theorem wit_AccessFrames :
    (∃ t, exec (.bra braOp) base = .next t) ∧ (∃ t, exec (.braD bradOp) base = .next t) ∧ (∃ t, exec (.loop { op0 with a := 0xA1 }) base = .next t)
    ∧ (∃ t, exec (.meld meldOp) base = .next t) ∧ (∃ t, exec (.mloop { op0 with a := 0xE1 }) base = .next t)
    ∧ (∃ t, exec (.call callOp) base = .next t) ∧ (∃ t, exec (.jmpi jmpiOp) padded = .next t) ∧ (∃ t, exec (.calli calliOp) padded = .next t)
    ∧ (∃ t, exec (.lbuf op0) base = .next t) ∧ (∃ t, exec (.cbar objOp) base = .next t) ∧ (∃ t, exec (.arrive objOp) base = .next t)
    ∧ (∃ t, exec (.arwt arwtOp) base = .next t) ∧ isUni arwtOp.d = true ∧ (∃ t, exec (.barBlk op0) base = .next t)
    ∧ (∃ t, exec (.waitmem { op0 with ty := .n32, d := 0xA2 }) base = .next t) ∧ isUni 0xA2 = true
    ∧ (∃ t, exec (.qzero { op0 with d := 0xE8 }) base = .next t) ∧ (∃ t, exec (.bmap op0) base = .next t)
    ∧ (∃ t, exec (.bpack op0) base = .next t) ∧ (∃ t, exec (.exit op0) base = .next t) ∧ (∃ t, exec (.brk op0) base = .next t)
    ∧ (∃ t, exec (.launch { op0 with a := 0xA2 }) base = .next t) :=
  ⟨⟨_, rfl⟩, ⟨_, rfl⟩, ⟨_, rfl⟩, ⟨_, rfl⟩, ⟨_, rfl⟩, ⟨_, rfl⟩, ⟨_, rfl⟩, ⟨_, rfl⟩, ⟨_, rfl⟩, ⟨_, rfl⟩, ⟨_, rfl⟩, ⟨_, rfl⟩, by decide, ⟨_, rfl⟩,
    ⟨_, rfl⟩, by decide, ⟨_, rfl⟩, ⟨_, rfl⟩, ⟨_, rfl⟩, ⟨_, rfl⟩, ⟨_, rfl⟩, ⟨_, rfl⟩⟩

/-- A byte of the scratch that no leaf's companion word is. -/
theorem wit_AccessFrames_companion : ¬ inCompanion base 0 (spaceKey (scratchSpace 0) 0) := by
  let hit (c : Checked) : Bool := match c with
    | .ok _ _ _ die addr =>
      spaceKey die (addr + 4096) ≤ spaceKey (scratchSpace 0) 0 && spaceKey (scratchSpace 0) 0 < spaceKey die (addr + 4096) + 8
    | _ => false
  have hc : hit (base.check (homeOf (base.resolve 0)) .fetch (base.resolve 0)) = false := by decide +kernel
  have ht : ∀ e ∈ base.fab.tlb, ¬(spaceKey e.die (e.addr + 4096) ≤ spaceKey (scratchSpace 0) 0
      ∧ spaceKey (scratchSpace 0) 0 < spaceKey e.die (e.addr + 4096) + 8) := by decide +kernel
  rintro (⟨e, he, h⟩ | ⟨key, e, size, die, addr, h, hw⟩)
  · exact ht e he h
  · rw [h] at hc
    simp only [hit, Bool.and_eq_false_iff, decide_eq_false_iff_not] at hc
    exact hc.elim (fun k => k hw.1) fun k => k hw.2

/-! ### Premises met: events of the package -/

/-- The same with every semaphore the firmware's. -/
def evF (x : Input) : State := (List.range 16).foldl (fun s n => s.setReg .fwcSem n 3) (ev x)

/-- The firmware runs. -/
def evUp (x : Input) : State := { evF x with fw := { (evF x).fw with boot := .firmware } }

theorem wit_PowerEvents_writes :
    (∀ n ∈ [0, 63], ∀ v ∈ ([0x14, 0x46] : List DWord), let s := evF { n := n, v := v }
      let tail (lo : Nat) : Nat := if s.field .pwrVtail n lo 7 = s.field .pwrVcl n 0 7 then v.toNat % 128 else s.field .pwrVtail n lo 7
      WriteOpen s .pwrVcl n ∧ s.clusterIdle n = true ∧ v.toNat % 128 ≤ 70 ∧ ∀ lo ∈ tailBits, tailOk (v.toNat % 128) (tail lo) = true)
    ∧ (let s : State := { base with inp := { n := 0, v := 0x14 } }
      WriteOpen s .pwrVcl 0 ∧ s.clusterIdle 0 = false)
    ∧ (let s := evF { n := 63, v := 0x141414 }
      WriteOpen s .pwrVtail 63 ∧ s.clusterIdle 63 = true ∧ ∀ lo ∈ tailBits, tailOk (s.field .pwrVcl 63 0 7) (s.inp.v.toNat / 2 ^ lo % 128) = true)
    ∧ (∀ f ∈ ([18, 44] : List DWord), let s := evF { n := 5, v := f }
      WriteOpen s .clkClf 5 ∧ s.clusterIdle 5 = true ∧ 18 ≤ f.toNat % 64 ∧ f.toNat % 64 ≤ 44)
    ∧ WriteOpen (evF { n := 1, v := 5 }) .pwrCstat 1
    ∧ (∀ v ∈ ([1, 16] : List DWord), WriteOpen (evF { n := 1, v := v }) .cxaCad 1 ∧ 1 ≤ v.toNat % 32 ∧ v.toNat % 32 ≤ 16)
    ∧ (∀ v ∈ ([100, 1200] : List DWord), WriteOpen (evF { n := 3, v := v }) .pwrPlim 3 ∧ 100 ≤ v.toNat % 2048 ∧ v.toNat % 2048 ≤ 1200)
    ∧ (WriteOpen (evF { v := 1 }) .clkGtctl 0 ∧ (1 : DWord).getLsbD 0 = true) := by
  refine ⟨?_, ⟨writeOpen_of (by decide), by decide⟩, ⟨writeOpen_of (by decide), by decide, by decide⟩, ?_, writeOpen_of (by decide), ?_, ?_,
    ⟨writeOpen_of (by decide), by decide⟩⟩
  · intro n hn v hv
    simp only [List.mem_cons, List.not_mem_nil, or_false] at hn hv
    rcases hn with rfl | rfl <;> rcases hv with rfl | rfl <;> exact ⟨writeOpen_of (by decide), by decide, by decide, by decide⟩
  · intro f hf
    simp only [List.mem_cons, List.not_mem_nil, or_false] at hf
    rcases hf with rfl | rfl <;> exact ⟨writeOpen_of (by decide), by decide, by decide, by decide⟩
  · intro v hv
    simp only [List.mem_cons, List.not_mem_nil, or_false] at hv
    rcases hv with rfl | rfl <;> exact ⟨writeOpen_of (by decide), by decide, by decide⟩
  · intro v hv
    simp only [List.mem_cons, List.not_mem_nil, or_false] at hv
    rcases hv with rfl | rfl <;> exact ⟨writeOpen_of (by decide), by decide, by decide⟩

theorem wit_PowerEvents_rest :
    (let s := (ev { n := 2 }).modPower 2 fun p => { p with slewing := true, rails := (ev {}).railTargets 2, relock := true }
    (s.powerOf 2).slewing = true ∧ (s.powerOf 2).rails = s.railTargets 2 ∧ (s.powerOf 2).relock = true)
    ∧ (let r : Reading := { sensor := .core 0, celsius := 115 }
      let s := ev { msg := .readings [r] }
      s.inp.msg = .readings [r] ∧ 115 ≤ r.celsius)
    ∧ (let r : Reading := { sensor := .stack 11, celsius := 114 }
      let s := ev { msg := .readings [r] }
      s.inp.msg = .readings [r] ∧ r.celsius < 115)
    ∧ (let s := ev { msg := .bandwidth [512, 0] [[9]] }
      s.inp.msg = .bandwidth [512, 0] [[9]])
    ∧ (let s := (evUp { n := 3, v := 0x2B }).setField .fwcBstat 0 28 4 1
      let s : State := { s with fw := { s.fw with failed := [11] } }
      s.fw.boot = .firmware ∧ s.fw.down = false ∧ s.pollFails 3 0x2B = true) := by
  decide

/-- Brought up: PHASE 1 of the firmware, supplies and references good, clocks released, stacks trained, the alternative
measured. -/
def broughtUpState : State :=
  let s := evUp {}
  let four (x : Nat) : FMap Nat := (List.range 4).map fun d => (d, x)
  let s : State := { s with
    clk := { s.clk with run := true, ref := 1000 }, th := { s.th with vsr := four 1 }
    fw := { s.fw with meas := [(4, 1)], passed := (List.range 12).map fun st => (st, 0x3E) } }
  let s := s.setField .fwcBstat 0 28 4 1
  let s := (List.range 4).foldl (fun s d => s.setField .clkRefstat d 0 1 1) s
  let s := (List.range 64).foldl (fun s cl =>
    ((s.setField .clkClf cl 31 1 1).setField .pwrCstat cl 0 1 0).setField .pwrVcl cl 31 1 0) s
  let s := (List.range 18).foldl (fun s k => s.modCplr k fun p => { p with tried := 1 }) s
  (List.range 12).foldl (fun s st => s.setField .hbmTstat st 29 1 1) s

theorem wit_PowerEvents_ready : broughtUpState.broughtUp = true := by decide +kernel

theorem wit_BringUpEvents_hbm :
    (∀ n ∈ [0, 11], WriteOpen (evF { n := n, v := 8 }) .hbmTctl n)
    ∧ (hbmMode ((8 : DWord).toNat / 16 % 16) = true ∧ (8 : DWord).getLsbD 1 = false ∧ (8 : DWord).toNat % 16 = 8)
    ∧ hbmMode ((15 : DWord).toNat % 16) = false
    ∧ (let s : State := { ev { n := 3 } with fw := { (ev {}).fw with training := [(3, 2, 0)] } }
      s.fw.training.find? (fun x => x.1 == 3) = some (3, 2, 0)) := by
  refine ⟨?_, by decide, by decide, by decide⟩
  intro n hn
  simp only [List.mem_cons, List.not_mem_nil, or_false] at hn
  rcases hn with rfl | rfl <;> exact writeOpen_of (by decide)

/-- A control port in a state of its LTSM. -/
def ported (n ltsm : Nat) (x : Input) : State := (ev x).modUcie n fun p => { p with ltsm := ltsm }

theorem wit_BringUpEvents_ports :
    (∀ n ∈ [0, 1], WriteOpen (evF { n := n }) .uciPctl n ∧ PortIs (evF { n := n }) n (fun p => p.ltsm = 0))
    ∧ (WriteOpen (ported 1 2 { n := 1 }) .uciPctl 1 ∧ PortIs (ported 1 2 { n := 1 }) 1 (fun p => p.ltsm ≠ 0))
    ∧ (ported 1 2 { n := 1 }).portUp 1 = true
    ∧ (3 : DWord).toNat ∉ hostOpcodes
    ∧ (let s := ported 1 1 { n := 1, v := 3 }
      PortIs s 1 (fun p => p.ltsm = 1) ∧ s.inp.v.extractLsb' 0 2 ≠ 0 ∧ s.fw.boot ≠ .rom)
    ∧ (let s : State := (ported 1 1 { n := 1 }).setField .fwcBstat 0 16 4 2
      let s : State := { s with fw := { s.fw with boot := .rom } }
      PortIs s 1 (fun p => p.ltsm = 1) ∧ s.inp.v.extractLsb' 0 2 = 0 ∧ s.fw.boot = .rom ∧ s.fw.down = false ∧ s.field .fwcBstat 0 16 4 = 2
      ∧ ∀ k, k ≠ 1 → ∀ p, s.lnk.ucie[k]? = some p → p.ltsm = 0) := by
  refine ⟨?_, ⟨writeOpen_of (by decide), ⟨_, rfl, by decide⟩⟩, by decide, by decide, ⟨⟨_, rfl, by decide⟩, by decide, by decide⟩,
    ⟨⟨_, rfl, by decide⟩, by decide, by decide, by decide, by decide, ?_⟩⟩
  · intro n hn
    simp only [List.mem_cons, List.not_mem_nil, or_false] at hn
    rcases hn with rfl | rfl <;> exact ⟨writeOpen_of (by decide), ⟨_, rfl, by decide⟩⟩
  · intro k hk p hp
    match k with
    | 0 => cases hp; rfl
    | 1 => exact absurd rfl hk
    | _ + 2 => cases hp

/-- A request of copy channel 0 of core 0, in the given phase. -/
def req0 (kind : AccKind) (phase : Phase) : Req :=
  { id := 5, kind := kind, core := 0, who := .channel 0 0, line := 0
    parts := [{ lane := 0, va := 0, size := 4, data := 7 }], phase := phase }
def withReq (r : Req) (x : Input) : State := { ev x with fab := { (ev x).fab with reqs := [r], nextId := 6 } }

theorem wit_BringUpEvents_cxl :
    (let r := req0 .load (.cxl 0 0 64)
    let s := withReq r { n := 5 }
    s.req? 5 = some r ∧ r.phase = .cxl 0 0 64 ∧ s.inp.on = false ∧ (∀ b ∈ s.fab.bad ++ s.fab.cbad, b < 64 ∨ 64 + 64 ≤ b) ∧ r.kind = .load ∧ r.acq = none ∧ r.rel = none)
    ∧ (let r := req0 .load (.cxl 0 0 64)
      let s := withReq r { n := 5, on := true }
      s.req? 5 = some r ∧ r.phase = .cxl 0 0 64 ∧ s.inp.on = true)
    ∧ (ev { n := 5 }).req? 5 = none
    ∧ (let r := req0 .load (.cxl 1 0 64)
      let s : State := { withReq r { n := 5 } with clk := { (ev {}).clk with ref := 1 } }
      s.req? 5 = some r ∧ (1 : Nat) ≠ 0 ∧ 1 ≤ s.clk.ref ∧ s.standsStill r.core = false) := by decide

theorem wit_BringUpEvents_boot :
    (let s : State := { ev { v := 1 } with fw := { (ev {}).fw with boot := .hostWait } }
    s.fw.boot = .hostWait ∧ s.fw.down = false ∧ s.inp.v.getLsbD 0 = true)
    ∧ (∀ slot ∈ [0, 3], let s := (evF { msg := .fuse (.revoke slot) }).setField .fwcBstat 0 28 4 3
      s.owns s.inp.who 6 = true ∧ s.bootPhase = 3 ∧ s.fw.down = false ∧ s.inp.msg = .fuse (.revoke slot) ∧ slot < 4)
    ∧ (∀ bit ∈ [0, 63], let s := (evF { msg := .fuse (.svn bit) }).setField .fwcBstat 0 28 4 3
      s.owns s.inp.who 6 = true ∧ s.bootPhase = 3 ∧ s.fw.down = false ∧ s.inp.msg = .fuse (.svn bit) ∧ bit < 64) := by decide

/-- A Coupler port in some state. -/
def coupled (k : Nat) (f : CplrPort → CplrPort) (s : State) : State := s.modCplr k f
def portIn (k : Nat) (st : CplrState) (x : Input) : State := coupled k (fun p => { p with state := st, lanes := 0xFF }) (ev x)
def packet0 : Packet := { hdr := 0, data := [] }

theorem wit_CouplerEvents_training :
    (∀ k ∈ [0, 17], WriteOpen (evF { n := k }) .cplrPctl k ∧ ((evF { n := k }).cplr k).state = .disabled)
    ∧ (∀ v ∈ ([0x02020202, 0x50505050] : List DWord), WriteOpen (evF { n := 3, v := v }) .cplrVlthr 3
      ∧ ∀ i, i < 4 → 2 ≤ v.toNat / 2 ^ (8 * i) % 256 ∧ v.toNat / 2 ^ (8 * i) % 256 ≤ 80)
    ∧ (let s := portIn 17 .detect { n := 17, v := 0x0F }
      (s.cplr 17).state = .detect ∧ 4 ≤ ((List.range 8).filter fun i => (s.inp.v.extractLsb' 0 8).getLsbD i).length)
    ∧ (let s : State := { portIn 17 .detect { n := 17 } with clk := { (ev {}).clk with ref := 100000 } }
      (s.cplr 17).state = .detect ∧ (s.cplr 17).since + 100000 ≤ s.clk.ref)
    ∧ (let s := portIn 17 .poll { n := 17 }
      (s.cplr s.inp.n).state = .poll)
    ∧ (let s := portIn 17 .align { n := 17 }
      (s.cplr s.inp.n).state = .align)
    ∧ (let s := portIn 17 .equal { n := 17, v := 0xFF }
      (s.cplr s.inp.n).state = .equal ∧ widthCode (s.inp.v.extractLsb' 0 8) ≠ 0)
    ∧ (∀ m ∈ [0, 287], let s := portIn 17 .config { n := 17, m := m }
      (s.cplr s.inp.n).state = .config ∧ (s.cplr s.inp.n).loop = false ∧ s.inp.m < 288)
    ∧ (let s := portIn 17 .retrain { n := 17, v := 0x0F }
      s.retraining 17 0 = true ∧ widthCode (s.inp.v.extractLsb' 0 8) ≠ 0)
    ∧ (let s := coupled 17 (fun p => { p with passed := 1 }) (portIn 17 .retrain { n := 17, m := 287 })
      s.retraining 17 1 = true ∧ (s.cplr 17).loop = false ∧ s.inp.m < 288 ∧ s.planeCheck 17 s.inp.m = true)
    ∧ (coupled 17 (fun p => { p with passed := 2 }) (portIn 17 .retrain { n := 17 })).retraining 17 2 = true
    ∧ (let s : State := { portIn 17 .retrain { n := 17 } with clk := { (ev {}).clk with ref := 50000 } }
      retrainOver (s.cplr s.inp.n) s.clk.ref = true) := by
  refine ⟨?_, ?_, by decide, by decide, by decide, by decide, by decide, by decide, by decide, by decide, by decide, by decide⟩
  · intro k hk
    simp only [List.mem_cons, List.not_mem_nil, or_false] at hk
    rcases hk with rfl | rfl <;> exact ⟨writeOpen_of (by decide), by decide⟩
  · intro v hv
    simp only [List.mem_cons, List.not_mem_nil, or_false] at hv
    rcases hv with rfl | rfl <;> exact ⟨writeOpen_of (by decide), by decide⟩

theorem wit_CouplerEvents_flits :
    (let s := portIn 0 .active { n := 0, v := 2 }
    let s : State := { s with lnk := { s.lnk with queue := [(2, 1, packet0)], mgmt := some 0 } }
    (s.cplr 0).state = .active ∧ (s.cplr 0).fresh = false ∧ (s.cplr 0).resend = none ∧ (s.cplr 0).stopIn.getLsbD (s.inp.v.toNat % 4) = false
      ∧ (s.cplr 0).replay.length < 512 ∧ (s.pick 0 2 15 s.lnk.queue).1 ≠ [])
    ∧ (let s := coupled 0 (fun p => { p with replay := [(3, [])], resend := some 3 }) (portIn 0 .active {})
      (s.cplr 0).state = .active ∧ (s.cplr 0).fresh = false ∧ (s.cplr 0).resend = some 3 ∧ (s.cplr 0).replay = [(3, [])])
    ∧ ((coupled 0 (fun p => { p with fresh := true }) (portIn 0 .active {})).cplr 0).fresh = true
    ∧ (let s := coupled 0 (fun p => { p with stopIn := 2 }) (portIn 0 .active { v := 1 })
      (s.cplr 0).resend = none ∧ laneOpen (s.cplr 0) (s.inp.v.toNat % 4) = false)
    ∧ flitSound [] = false
    ∧ (portIn 0 .active {}).livePlanes ≠ [] := by
  decide

/-- A flit of one empty message on virtual lane 2, in sequence. -/
def flit1 : List Byte := flitBytes (flitHeader 0 0 false false 2 0 1 1) (bytesLE 16 0)

set_option maxRecDepth 100000 in
theorem wit_CouplerEvents_sound :
    let s := portIn 0 .active { bytes := flit1 }
    (s.cplr 0).state = .active ∧ flitSound s.inp.bytes = true ∧ ((flitHead s.inp.bytes).extractLsb' 28 4).toNat = 1
    ∧ (flitHead s.inp.bytes).getLsbD 38 = false ∧ flitSeq (flitHead s.inp.bytes) = (s.cplr 0).expect
    ∧ (FMap.get [] (s.cplr 0).rx (flitVl (flitHead s.inp.bytes))).length < 128 := by
  decide +kernel

theorem wit_CouplerEvents_gtick :
    (let s : State := { portIn 0 .active {} with clk := { (ev {}).clk with master := true } }
    s.clk.master = true ∧ s.livePlanes ≠ [])
    ∧ (let s := portIn 0 .active {}
      let s : State := { s with lnk := { s.lnk with pkg := some 3 }, clk := { s.clk with mpkg := 3 } }
      2 < s.own ∧ 2 ≤ s.clk.mpkg ∧ s.livePlanes ≠ []) := by decide

theorem wit_RegisterEvents_writes :
    (WriteOpen (evF { n := 255, v := 1 }) .evcSel 255 ∧ selOk 1 = true ∧ selOk 0xFFFF = false)
    ∧ WriteOpen (evF { n := 255, m := 15 }) .dbgLchi (32 * 255 + 15) ∧ WriteOpen (evF { n := 0, m := 0 }) .dbgLclo 0
    ∧ (WriteOpen (evF { n := 63, v := 0x80000000 }) .fidInj 63 ∧ (0x80000000 : DWord).getLsbD 31 = true)
    ∧ WriteOpen (evF {}) .dbgStopc 0 ∧ WriteOpen (evF {}) .dbgStopt 0
    ∧ (∀ r ∈ ([.cxlReqto, .cplrE2eto, .queQuant, .xltPfto, .dspStallto, .dspRsvto, .dspLead, .xltHvec, .fwcElvec, .dbgTrbase, .dbgTrsz,
        .dbgTrctl] : List RegName), WriteOpen (evF { reg := r }) r 0)
    ∧ (WriteOpen (evF { n := 6 }) .fwcWdog 6 ∧ WriteOpen (evF { v := 7 }) .fwcMextgo 0)
    ∧ WriteOpen (evF { reg := .pwrTable, n := 15, v := 0x80101412 }) .pwrTable 15 := by
  refine ⟨⟨writeOpen_of (by decide), by decide, by decide⟩, writeOpen_of (by decide), writeOpen_of (by decide),
    ⟨writeOpen_of (by decide), by decide⟩, writeOpen_of (by decide), writeOpen_of (by decide), ?_, ⟨writeOpen_of (by decide), writeOpen_of (by decide)⟩,
    writeOpen_of (by decide)⟩
  intro r hr
  simp only [List.mem_cons, List.not_mem_nil, or_false] at hr
  rcases hr with rfl | rfl | rfl | rfl | rfl | rfl | rfl | rfl | rfl | rfl | rfl | rfl <;> exact writeOpen_of (by decide)

theorem wit_RegisterEvents_rest :
    (let s := (ev {}).setReg .dbgStopc 0 1
    (s.reg .dbgStopc 0).getLsbD 0 = true ∧ s.reg .dbgStopt 0 = BitVec.ofNat 64 s.clk.gt)
    ∧ (let h : WatchHit := { srck := 1, lanes := 1, pc := 2, hid := 3, gtick := 4, value := 5 }
      let s := ev { m := 7, msg := .hit h }
      s.inp.msg = .hit h ∧ (s.reg .dbgWstat s.inp.m).getLsbD 63 = false)
    ∧ (let s : State := { ev {} with dbg := { (ev {}).dbg with trace := [(0, [1]), (0, [2])] }, clk := { (ev {}).clk with ref := 13 } }
      s.dbg.trace = (0, [1]) :: [(0, [2])] ∧ 0 + traceWait ≤ s.clk.ref)
    ∧ (∀ n ∈ [0, 15], (ev {}).semOwner n = 0) ∧ (ev {}).mayAcquire .firmware = true
    ∧ (let up (p : UciePort) : UciePort := { p with ltsm := 2 }
      let s := (((ev { msg := .writers [.portA, .portB] }).modUcie 0 up).modUcie 1 up).setField .fwcBstat 0 28 4 3
      s.semOwner 15 = 0 ∧ 3 ≤ s.bootPhase ∧ s.portUp 0 = true ∧ s.portUp 1 = true)
    ∧ (let s := ev { reg := .cplrPstat, n := 17 }
      s.inp.n < regCount s.inp.reg ∧ laneKey s.inp.reg s.inp.n = none)
    ∧ (let s := ev { reg := .dbgLca, n := 3 }
      s.inp.n < regCount s.inp.reg ∧ laneKey s.inp.reg s.inp.n = some 12)
    ∧ (let s := ev { reg := .queCtl, n := 31, who := .portA }
      s.inp.n < regCount s.inp.reg ∧ guardOfReg s.inp.reg = some 0 ∧ firmOnly s.inp.reg = false ∧ s.owns s.inp.who 0 = false
      ∧ regThere s.inp.reg s.inp.n = true)
    ∧ (∀ n ∈ [1, 6], let s : State := { ev { n := n } with
          fw := { (ev {}).fw with wdog := [(1, 1), (6, 1)] }, clk := { (ev {}).clk with ref := 1 } }
      s.wdogDue s.inp.n = true)
    ∧ (let s : State := { ev {} with fw := { (ev {}).fw with wdog := [(0, 1)] }, clk := { (ev {}).clk with ref := 1 } }
      s.wdogDue 0 = true) := by decide

/-! ### Premises met: events of the fabric -/

/-- The line that `withFetchWord` maps, and a request for it. -/
def line0 : DWord := base.resolve fetchPc
def reqAt (line : DWord) (kind : AccKind) (phase : Phase) : Req :=
  { id := 5, kind := kind, core := 0, who := .channel 0 0, line := line
    parts := [{ lane := 0, va := line, size := 4, data := 7 }], phase := phase }
def homed (r : Req) : State := { base with fab := { base.fab with reqs := [r], nextId := 6 }, inp := { n := 5 } }

theorem wit_HomeEvents_performed :
    ∀ kind ∈ [AccKind.load, .store, .atom], let r := reqAt line0 kind .flying
      let s := homed r
      s.req? 5 = some r ∧ s.isHalting = false ∧ r.merge = 0 ∧ isPeer r = false ∧ s.mayReach r = true ∧ r.scr = false ∧ vaRgn r.line ≤ 4 ∧ r.acq = none ∧ r.rel = none
      ∧ ∃ key e size die addr, s.check (homeOf r.line) r.kind r.line = .ok key e size die addr
        ∧ ∀ b ∈ s.fab.bad ++ s.fab.cbad, b < targetKey (homeOf r.line) e size r.line ∨ targetKey (homeOf r.line) e size r.line + 64 ≤ b := by
  intro kind hk
  simp only [List.mem_cons, List.not_mem_nil, or_false] at hk
  rcases hk with rfl | rfl | rfl <;>
    exact ⟨by decide, by decide, rfl, rfl, by decide, rfl, by decide, rfl, rfl, _, _, _, _, _, rfl, by decide⟩

theorem wit_HomeEvents_scratch :
    let r := { reqAt 0 .load .flying with scr := true }
    (homed r).req? 5 = some r ∧ (homed r).mayReach r = true ∧ r.scr = true ∧ r.fill = false := by decide

/-- Region 1 has no root: its pages are absent. Region 7 does not exist; another package is a package away. -/
theorem wit_HomeEvents_absent :
    (let r := reqAt (line0 + (1#64 <<< 44)) .load .flying
    (homed r).mayReach r = true ∧ (homed r).check (homeOf r.line) r.kind r.line = .absent 0 ∧ defers r = false
      ∧ ((homed r).parkedAt (homeOf r.line)).length < 4096 ∧ r.came = none)
    ∧ (let r := reqAt (line0 + (1#64 <<< 44)) .store .flying
      (homed r).mayReach r = true ∧ (homed r).check (homeOf r.line) r.kind r.line = .absent 0 ∧ defers r = true)
    ∧ (let r := reqAt line0 .load .flying
      let s := homed r
      let s : State := { s with fab := { s.fab with tlb := s.fab.tlb.map fun t => { t with leaf := 0x8000000000000000 } } }
      s.mayReach r = true ∧ ∃ st cause, s.check (homeOf r.line) r.kind r.line = .fail st cause) := by
  refine ⟨by decide, by decide, by decide, _, _, rfl⟩

theorem wit_HomeEvents_away :
    (let r := reqAt (1#64 <<< 47) .load .flying
    (homed r).mayLeave r = true ∧ (homed r).livePlanes = [])
    ∧ (let r := reqAt (1#64 <<< 47) .load .flying
      let s := (homed r).modCplr 0 fun p => { p with state := .active }
      s.mayLeave r = true ∧ s.livePlanes ≠ [] ∧ s.tagsFor 1 = true ∧ r.kind = .load ∧ r.held = [] ∧ s.freeTag = some 0
      ∧ vaPkg r.line = 1)
    ∧ (let r := reqAt (1#64 <<< 47) .load .away
      let s := homed r
      let a : Away := { id := 5, piece := 0, pkg := 1, tag := 0, granule := 0, due := 1 }
      let s : State := { s with lnk := { s.lnk with away := [a] }, clk := { s.clk with ref := 1 } }
      a ∈ s.lnk.away ∧ r.phase = .away ∧ awayDue s.clk.ref a = true ∧ ∀ q ∈ s.fab.reqs, q.id = 5 → s.standsStill q.core = false) := by
  decide +kernel

/-- A group's operation 9 awaits the request's answer. -/
def op9 (kind : AccKind) (dest : Dest) : LongOp := { id := 9, site := site0, kind := kind, ty := .n32, dest := dest, left := 1 }
def answered (kind : AccKind) (dest : Dest) (phase : Phase) : State :=
  let s := baseG fun g => { g with ops := [op9 kind dest] }
  { s with fab := { s.fab with reqs := [{ reqAt line0 kind phase with who := .group (curOf base).run.blk 0 9 }], nextId := 6 }, inp := { n := 5 } }

theorem wit_HomeEvents_answers :
    (let r := reqAt line0 .load .answered
    (homed r).req? 5 = some r ∧ returnsData r = true ∧ ∀ p ∈ (homed r).fab.proms, p.req ≠ 5)
    ∧ (let s := answered .load (.vec 1 1) .answered
      ∃ grp o, s.group? (curOf base).run.blk 0 = some grp ∧ grp.ops.find? (fun x => x.id == 9) = some o ∧ o.dest ≠ .none)
    ∧ (let s := answered .store .none .answered
      ∃ grp o, s.group? (curOf base).run.blk 0 = some grp ∧ grp.ops.find? (fun x => x.id == 9) = some o ∧ o.dest = .none ∧ o.left = 1)
    ∧ (let r := reqAt line0 .load (.failed 6 0)
      (homed r).req? 5 = some r ∧ (homed r).inp.who ≠ .portA ∧ r.phase = .failed 6 0 ∧ r.kind ≠ .prefetch)
    ∧ (let s := answered .store .none (.failed 6 0)
      ∃ grp o, s.group? (curOf base).run.blk 0 = some grp ∧ grp.ops.find? (fun x => x.id == 9) = some o ∧ o.kind = .store ∧ 6 < 7)
    ∧ ((answered .store .none .deferred).freeSlot 0 = some 0)
    ∧ (let s : State := { homed (reqAt line0 .load (.parked 0)) with clk := { base.clk with ref := 10000000 } }
      s.pftoOver 0 0 = true) := by
  refine ⟨by decide, ⟨_, _, rfl, rfl, by decide⟩, ⟨_, _, rfl, rfl, rfl, rfl⟩, by decide, ⟨_, _, rfl, rfl, rfl, by decide⟩, by decide, by decide +kernel⟩

/-- A deferred store of core 0, in slot 3 of its side log. -/
def entry0 : SideEntry :=
  { slot := 3, core := 0, req := { reqAt line0 .store .flying with who := .group (curOf base).run.blk 0 9, slot := some 3 }, home := 0
    page := line0, since := 0 }
def logged : State :=
  let s := baseG fun g => { g with ops := [op9 .store .none] }
  { s with fab := { s.fab with side := [entry0] }, clk := { s.clk with ref := 10000000 }, inp := { n := 0, m := 3 } }

theorem wit_FabricEvents_side :
    (let w : Wake := { home := 0, page := line0, size := 65536, cores := [0] }
    let s : State := { logged with fab := { logged.fab with wakes := [w] }, inp := { n := 0, m := 0, k := line0.toNat } }
    s.fab.wakes.find? (fun w => w.home == s.inp.m && w.page == BitVec.ofNat 64 s.inp.k && w.cores.contains s.inp.n) = some w)
    ∧ (let w : Wake := { home := 0, page := line0, size := 65536, cores := [], marks := [(0, [5])] }
      let r := reqAt line0 .store .answered
      let s : State := { homed r with fab := { (homed r).fab with wakes := [w] }, inp := { n := 0, m := 0, k := line0.toNat } }
      s.fab.wakes.find? (fun w => w.home == s.inp.m && w.page == BitVec.ofNat 64 s.inp.k) = some w ∧ w.cores = []
      ∧ (∀ x ∈ w.marks, x.1 = s.inp.n)
      ∧ ∀ x ∈ w.marks, ∀ id ∈ x.2, ∀ q ∈ s.fab.reqs, q.id = id → reqDone q = true)
    ∧ (logged.fab.side.find? (fun e => e.core == 0 && e.slot == 3 && logged.pftoOver e.core e.since) = some entry0
      ∧ entry0.req.who = .group (curOf base).run.blk 0 9 ∧ entry0.req.slot.isSome = true
      ∧ ∃ grp o, logged.group? (curOf base).run.blk 0 = some grp ∧ grp.ops.find? (fun x => x.id == 9) = some o) := by
  refine ⟨by decide, by decide, by decide, rfl, rfl, _, _, rfl, rfl⟩

/-- The issuing run stalls at issue in front of a full side log. -/
def full : State :=
  let s := base
  { s with
    fab := { s.fab with side := List.replicate 256 entry0 }
    clk := { s.clk with ref := 10000000 }
    inp := { n := 1, m := 0 }
    cores := { s.cores with runs := s.cores.runs.map fun r => { r with stall := some 0, full := some line0 } } }

theorem wit_FabricEvents_full :
    ∃ run c, full.cores.runs.find? (fun r => r.blk == full.inp.n && r.gid == full.inp.m) = some run ∧ run.stall = some 0
      ∧ run.full.isSome = true ∧ full.curOf run.blk run.gid run.slotB = some c ∧ full.pftoOver run.core 0 = true ∧ sideFull full c = true :=
  ⟨_, _, rfl, rfl, rfl, rfl, by decide, by decide +kernel⟩

theorem wit_FabricEvents_rest :
    (∃ e, base.fab.tlb.filter (fun e => e.home == 0) = [e])
    ∧ (let s : State := { base with clk := { base.clk with ref := 1024 } }
      s.fab.epoch < s.clk.ref / 1024)
    ∧ (let p : Promote := { id := 4, core := 0, req := 5 }
      let s : State := { base with fab := { base.fab with proms := [p] }, inp := { n := 0, m := 4 } }
      p ∈ s.fab.proms ∧ p.core = s.inp.n ∧ p.id = s.inp.m ∧ p.waits = none)
    ∧ (let p : Promote := { id := 4, core := 0, req := 5, waits := some [] }
      let s : State := { base with fab := { base.fab with proms := [p] }, inp := { n := 4 } }
      s.fab.proms.find? (fun p => p.id == s.inp.n) = some p ∧ ([] : List Nat).all s.performed = true)
    ∧ (∀ r ∈ [RegName.xltRootl, .xltRoots, .xltRoot5, .xltRoot6], isRoot r = true ∧ WriteOpen (evF { reg := r }) r 0)
    ∧ WriteOpen (evF {}) .xltHring 0 ∧ WriteOpen (evF {}) .xltHhead 0 ∧ WriteOpen (evF {}) .fwcElog 0 ∧ WriteOpen (evF {}) .fwcElhead 0 := by
  refine ⟨⟨_, rfl⟩, by decide, by decide, by decide, ?_, writeOpen_of (by decide), writeOpen_of (by decide), writeOpen_of (by decide),
    writeOpen_of (by decide)⟩
  intro r hr
  simp only [List.mem_cons, List.not_mem_nil, or_false] at hr
  rcases hr with rfl | rfl | rfl | rfl <;> exact ⟨by decide, writeOpen_of (by decide)⟩

/-! ### Premises met: queues, host and commands -/

/-- A launch port, on the state of an event. -/
def ring (n : Nat) (p : LPort) (x : Input) : State := { evF x with que := { (evF x).que with ports := [(n, p)] } }

theorem wit_QueueAndHostEvents_writes :
    (∀ v ∈ ([0, 4 * 2 ^ 16, 12 * 2 ^ 16] : List DWord), let s := evF { n := 31, v := v }
      WriteOpen s .queCtl 31 ∧ s.bindable 31 = true ∧ szOk (v.extractLsb' 16 4).toNat = true)
    ∧ szOk ((3 * 2 ^ 16 : DWord).extractLsb' 16 4).toNat = false ∧ szOk ((13 * 2 ^ 16 : DWord).extractLsb' 16 4).toNat = false
    ∧ (∀ on ∈ [false, true], let s := evF { n := 0, v := 0x1000, on := on }
      WriteOpen s (if on then .queCbase else .queBase) 0 ∧ s.bindable 0 = true ∧ ringBaseOk (s.inp.v &&& 0xFFFFFFFFFFFFF000) = true)
    ∧ ringBaseOk (0x0000600000000000 &&& 0xFFFFFFFFFFFFF000) = false
    ∧ (∀ st ∈ [PortState.paused, .faulted], let s := ring 0 { state := st } { v := 1 }
      WriteOpen s .queGo 0 ∧ s.inp.v.toNat % 2 ^ 32 = 1 ∧ ((s.lport 0).state = .paused ∨ (s.lport 0).state = .faulted)) := by
  refine ⟨?_, by decide, by decide, ?_, by decide, ?_⟩
  · intro v hv
    simp only [List.mem_cons, List.not_mem_nil, or_false] at hv
    rcases hv with rfl | rfl | rfl <;> exact ⟨writeOpen_of (by decide), by decide, by decide⟩
  · intro on hon
    simp only [List.mem_cons, List.not_mem_nil, or_false] at hon
    rcases hon with rfl | rfl <;> exact ⟨writeOpen_of (by decide), by decide, by decide⟩
  · intro st hst
    simp only [List.mem_cons, List.not_mem_nil, or_false] at hst
    rcases hst with rfl | rfl <;> exact ⟨writeOpen_of (by decide), by decide, by decide⟩

/-- A command's bytes: its operation code, its job, and further bytes as one number. -/
def entry (opc n : Nat) : List Byte := bytesLE 64 (opc + n)
def cmd (opc n : Nat) (f : Cmd → Cmd) : Cmd := f { id := 1, port := 0, count := 0, bytes := entry opc n, started := true }
def cmdS (c : Cmd) : State := { ev { n := 1 } with que := { (ev {}).que with cmds := [c] } }
/-- The same where the answer to request 5 has come: eight bytes with the value 9. -/
def cmdGot (c : Cmd) : State :=
  { cmdS c with fab := { (cmdS c).fab with got := [{
      id := 5, kind := .load, core := 0, who := .unit 7 1, line := 0, parts := [{ lane := 0, va := 0, size := 8 }], phase := .answered
      vals := [9] }] } }

theorem got_of (c : Cmd) (h : c.req = some 5) : ∃ q bs, c.req = some q ∧ (cmdGot c).unitAns q = .ok bs := ⟨5, _, h, rfl⟩

/-- An idle ring that holds commands may fetch. -/
def idleMet (w : Word) : Bool :=
  let s := ring 31 { state := .idle, sz := 4, wakeA := w } { n := 31 }
  let p := s.lport 31
  p.state == .idle && p.fetch == none && (s.cmdsOf 31).isEmpty && tailOf p != p.head && decide ((tailOf p - p.head).toNat ≤ 2 ^ p.sz.toNat)

theorem wit_QueueAndHostEvents_ring :
    (let s := ring 0 { state := .running, qcnt := 1 } {}
    (s.lport 0).qcnt = 1 ∧ (s.lport 0).state = .running)
    ∧ idleMet 1 = true ∧ idleMet 16 = true
    ∧ (let s := ring 0 { state := .running, sz := 4, wakeA := 1, fetch := some 5 } {}
      let s : State := { s with fab := { s.fab with got := (cmdGot (cmd 1 0 id)).fab.got } }
      (s.lport 0).fetch = some 5 ∧ (∃ bs, s.unitAns 5 = .ok bs) ∧ ∀ c ∈ s.cmdsOf 0, c.status = none)
    ∧ (let s := ring 0 { state := .running, sz := 4, wakeA := 17 } {}
      let p := s.lport 0
      p.state = .running ∧ p.fetch = none ∧ (∀ c ∈ s.cmdsOf 0, c.status = none) ∧ 2 ^ p.sz.toNat < (tailOf p - p.head).toNat)
    ∧ (let c := cmd 1 0 fun c => { c with status := some 0, req := some 5 }
      let s : State := { cmdGot c with inp := { n := 0 } }
      (s.cmdsOf s.inp.n).find? (fun c => c.status.isSome && c.req.isSome) = some c ∧ ∃ bs, s.unitAns 5 = .ok bs)
    ∧ (let c := cmd 1 0 fun c => { c with started := false }
      let s : State := { ring 0 { state := .running } {} with que := { (ring 0 { state := .running } {}).que with cmds := [c] } }
      (s.cmdsOf 0).find? (fun c => !c.started) = some c ∧ s.cmd? c.id = some c ∧ (s.lport 0).state = .running ∧ c.status = none
      ∧ (c.bytes.getD 1 0).getLsbD 0 = false) := by
  refine ⟨by decide, by decide +kernel, by decide +kernel, ⟨by decide, ⟨_, rfl⟩, by decide⟩, by decide, ⟨by decide, ⟨_, rfl⟩⟩, by decide +kernel⟩

theorem wit_QueueAndHostEvents_host :
    (let s := ported 1 2 { n := 1, m := 31, k := 64, msg := .target (.mem 0x40), bytes := [1] }
    s.portUp 1 = true ∧ s.hostBusy 1 = false ∧ vaLegal 0x40 = true ∧ s.inp.k ≠ 0 ∧ s.inp.bytes ≠ [] ∧ s.inp.m < 32)
    ∧ (let s := ported 0 2 { n := 0, msg := .target (.reg .queHead 31) }
      s.portUp 0 = true ∧ s.hostBusy 0 = false) := by decide

/-- A LAUNCH request that has ended, for the commands that wait for one. -/
def ended : LaunchReq :=
  { id := 3, issuer := .cmd 0 1, va := 0, job := 0, primax := 0, dies := 0xF, status := some .committed, result := some (1, 0, false) }

theorem wit_CommandEvents_launch :
    ((cmdS (cmd 1 0 id)).running? 1 1).isSome = true ∧ (cmd 1 0 id).runs = []
    ∧ (let c := cmd 1 0 fun c => { c with runs := [3] }
      let s : State := { cmdS c with lau := { (cmdS c).lau with reqs := [ended] } }
      s.running? 1 1 = some c ∧ s.launchReq? 3 = some ended ∧ ended.result.isSome = true)
    ∧ (let c := cmd 2 (1 * 2 ^ 128) fun c => { c with step := 1, req := some 5 }
      (cmdGot c).running? 1 2 = some c ∧ c.step = 1 ∧ c.idx < cmdNum c 16 4 ∧ c.req = some 5)
    ∧ (let c := cmd 2 0 fun c => { c with step := 2, runs := [3] }
      let s : State := { cmdS c with lau := { (cmdS c).lau with reqs := [ended] } }
      s.running? 1 2 = some c ∧ c.step = 2 ∧ (∀ r ∈ s.runsOf c, r.result.isSome = true) ∧ (cmdNum c 20 4 = 0 ∨ s.graphDone (cmdNum c 20 4) = true))
    ∧ (let c := cmd 3 (9 * 2 ^ 128) fun c => { c with req := some 5 }
      (cmdGot c).running? 1 3 = some c ∧ c.req = some 5 ∧ cmdNum c 16 8 ≤ 9)
    ∧ (let c := cmd 3 (1 * 2 ^ 192) id
      let s : State := { cmdS c with clk := { (cmdS c).clk with ref := 1 } }
      s.running? 1 3 = some c ∧ cmdNum c 24 4 ≠ 0 ∧ c.since + cmdNum c 24 4 ≤ s.clk.ref)
    ∧ (let c := cmd 4 0 id
      (cmdS c).running? 1 4 = some c ∧ c.step = 0)
    ∧ (let c := cmd 4 0 fun c => { c with step := 1, runs := [6] }
      let s : State := { cmdS c with lau := { (cmdS c).lau with reqs := [ended] } }
      s.running? 1 4 = some c ∧ c.step ≠ 0 ∧ ∀ x ∈ c.runs, (s.cancelResult (cmdNum c 8 1) (s.cancelIdent c) (some (cmdNum c 4 3)) x).isSome = true) := by decide +kernel

theorem wit_CommandEvents_got :
    ∃ q bs, (cmd 2 (1 * 2 ^ 128) fun c => { c with step := 1, req := some 5 }).req = some q
      ∧ (cmdGot (cmd 2 (1 * 2 ^ 128) fun c => { c with step := 1, req := some 5 })).unitAns q = .ok bs := got_of _ rfl

/-- MAP of one 64 KiB page of this package's region 0 with a valid local leaf, where the region has a root. -/
def mapBytes : Nat := (0x1FF * 2 ^ 47) * 2 ^ 64 + 0x8E00000000000000 * 2 ^ 128 + 1 * 2 ^ 256
def mapCmd0 (step : Nat) : Cmd := cmd 5 mapBytes fun c => { c with step := step }
def mapS (step : Nat) : State := (cmdS (mapCmd0 step)).setReg .xltRootl 0 0x8000000000002000

theorem wit_CommandEvents_map_illegal :
    let c := cmd 5 (0x0000700000000000 * 2 ^ 64) id
    (cmdS c).running? 1 5 = some c ∧ vaLegal ((cmdS c).resolve (BitVec.ofNat 64 (cmdNum c 8 8))) = false := by decide +kernel

/-- What the MAP clauses ask of a command at a step. -/
def mapMet (step : Nat) : Bool :=
  let c := mapCmd0 step
  let s := mapS step
  let e := BitVec.ofNat 64 (cmdNum c 16 8)
  let size := entrySize e
  let va := s.resolve (BitVec.ofNat 64 (cmdNum c 8 8))
  let base : DWord := BitVec.ofNat 64 (va.toNat / size * size)
  s.running? 1 5 == some c && vaLegal va && s.isOwn va && vaLegal base && s.isOwn base
    && e.getLsbD 63 && cmdNum c 32 4 == 1 && c.step == step && c.idx == 0 && decide (vaRgn base ≤ 3)
    && (s.leavesIn base (size / 65536)).isEmpty && decide (s.fab.siding.length ≤ 4096)
    && (homesOf base).all (fun h => !s.sided (frameOf h (entryOf e 0) size)) && !s.wakesIn base.toNat size && s.rooted base

theorem wit_CommandEvents_map : ∀ step ∈ [0, 1, 3], mapMet step = true := by decide +kernel

/-! ### Premises met: the other commands -/

/-- Region 0 with one 2 MiB leaf: the root and its table hold one pointer each. -/
def treeMem : Memory :=
  let put (m : Memory) (a : Nat) (e : DWord) : Memory := m.setNum (spaceKey 0 a) 8 e.toNat
  put (put (put [] 0x2000 0x8080000000003000) 0x3000 0x8080000000004000) 0x4000 0x9E00000000000000

/-- That memory, and a command. -/
def onePage (c : Cmd) : State := { mapS 0 with que := { (mapS 0).que with cmds := [c] }, fab := { (mapS 0).fab with mem := treeMem } }

def pageCmd (opc : Nat) (f : Cmd → Cmd) : Cmd := cmd opc ((0x1FF * 2 ^ 47) * 2 ^ 64 + 1 * 2 ^ 128) f
def cmdVa (c : Cmd) : DWord := BitVec.ofNat 64 (cmdNum c 8 8)

theorem wit_CommandEvents_unmap :
    (let c := pageCmd 6 id
    let s := onePage c
    let r := s.rangeOf (cmdVa c) (cmdNum c 16 4)
    s.running? 1 6 = some c ∧ vaLegal (cmdVa c) = true ∧ c.step = 0 ∧ (s.leavesIn r.1 r.2).length = 1)
    ∧ (let c := pageCmd 6 fun c => { c with step := 2, frames := [(0, 0, 65536)] }
      (cmdS c).running? 1 6 = some c ∧ vaLegal (cmdVa c) = true ∧ c.step = 2 ∧ c.frames.length + (cmdS c).fab.siding.length ≤ 4096) := by
  decide +kernel

theorem wit_CommandEvents_pages :
    (let c := pageCmd 7 id
    (onePage c).running? 1 7 = some c ∧ vaLegal (cmdVa c) = true)
    ∧ (let c := pageCmd 8 id
      (onePage c).running? 1 8 = some c ∧ vaLegal (cmdVa c) = true ∧ c.step = 0)
    ∧ (let c := pageCmd 8 fun c => { c with step := 1, waits := [9] }
      (cmdS c).running? 1 8 = some c ∧ vaLegal (cmdVa c) = true ∧ c.step ≠ 0 ∧ c.acc = 0 ∧ ∀ id ∈ c.waits, (cmdS c).performed id = true) := by
  decide +kernel

/-- WLOAD of eight bytes at an offset, to all dies. -/
def wloadCmd (off : Nat) (f : Cmd → Cmd) : Cmd := cmd 9 (0xF * 2 ^ 64 + off * 2 ^ 96 + 8 * 2 ^ 192) f

theorem wit_CommandEvents_wload :
    (let c := wloadCmd 0 id
    let s : State := { cmdS c with clk := { (cmdS c).clk with ref := 1 } }
    s.running? 1 9 = some c ∧ c.step = 0 ∧ s.wloadHeld c (BitVec.ofNat 4 (cmdNum c 8 1)) (cmdNum c 12 4) (cmdNum c 24 8) = false)
    ∧ (let c := wloadCmd (2 ^ 30 - 8) fun c => { c with step := 1, req := some 5 }
      (cmdGot c).running? 1 9 = some c ∧ c.step ≠ 0 ∧ c.idx < cmdNum c 24 8 ∧ (∃ q, c.req = some q) ∧ cmdNum c 12 4 + c.idx + 8 = 2 ^ 30)
    ∧ (let c := wloadCmd 0 fun c => { c with step := 1, idx := 8 }
      (cmdS c).running? 1 9 = some c ∧ c.step ≠ 0 ∧ cmdNum c 24 8 ≤ c.idx) := by
  refine ⟨by decide +kernel, ⟨by decide +kernel, by decide, by decide, ⟨_, rfl⟩, by decide⟩, by decide +kernel⟩

/-- QUIESCE of dies, a hold or a release. -/
def quiesceCmd (act mask : Nat) (f : Cmd → Cmd) : Cmd := cmd 10 (mask * 2 ^ 64 + act * 2 ^ 72) f

theorem wit_CommandEvents_quiesce :
    (let c := quiesceCmd 1 0xF id
    (cmdS c).running? 1 10 = some c ∧ cmdNum c 9 1 = 1 ∧ c.step = 0)
    ∧ (let c := quiesceCmd 1 0xF fun c => { c with step := 1 }
      (cmdS c).running? 1 10 = some c ∧ cmdNum c 9 1 = 1 ∧ c.step ≠ 0
      ∧ ∀ b ∈ (cmdS c).cores.blocks, b.core / 64 ∉ maskDies (BitVec.ofNat 4 (cmdNum c 8 1)))
    ∧ (let c := quiesceCmd 0 0xF id
      (cmdS c).running? 1 10 = some c ∧ cmdNum c 9 1 = 0) := by
  decide +kernel

theorem wit_CommandEvents_partition :
    (∀ bad ∈ [false, true], let c := cmd 11 ((if bad then 241 else 240) * 2 ^ 128 + 1 * 2 ^ 72) id
    (cmdS c).running? 1 11 = some c ∧ c.step = 0 ∧ (cmdS c).partBad c = bad)
    ∧ (let c := cmd 11 0 fun c => { c with step := 1, idx := 15 }
      (cmdS c).running? 1 11 = some c ∧ c.step ≠ 0
      ∧ ∀ b ∈ (cmdS c).cores.blocks, ¬(recJob b.lrec = c.acc ∧ (BitVec.ofNat 4 c.idx).getLsbD (b.core / 64) = true)) := by
  decide +kernel

theorem wit_CommandEvents_counters :
    (let c := cmd 12 (255 * 2 ^ 128 + 1 * 2 ^ 144) id
    (cmdS c).running? 1 12 = some c ∧ c.step = 0)
    ∧ (let c := cmd 12 ((0x1FF * 2 ^ 47) * 2 ^ 64) fun c => { c with step := 1, data := [1, 2] }
      (cmdS c).running? 1 12 = some c ∧ c.step ≠ 0 ∧ c.idx < c.data.length ∧ c.req = none
      ∧ vaLegal (BitVec.ofNat 64 (cmdNum c 8 8 + c.idx)) = true)
    ∧ (let c := cmd 12 0 fun c => { c with step := 1, data := [1, 2], idx := 2 }
      (cmdS c).running? 1 12 = some c ∧ c.step ≠ 0 ∧ c.data.length ≤ c.idx) := by
  decide +kernel

theorem wit_CommandEvents_attest :
    (∀ room ∈ [0, 4096], let c := cmd 13 (room * 2 ^ 256) fun c => { c with step := 1, data := [0x10, 0x84, 0, 0] }
      let s : State := { cmdS c with fw := { (cmdS c).fw with boot := .firmware } }
      s.running? 1 13 = some c ∧ c.step = 1 ∧ s.fw.boot = .firmware ∧ s.fw.down = false)
    ∧ (let c := cmd 13 0 fun c => { c with step := 2, data := [0x10, 0x7F, 1, 0], idx := 4 }
      (cmdS c).running? 1 13 = some c ∧ c.step = 2 ∧ c.data.length ≤ c.idx) := by
  decide +kernel

theorem wit_CommandEvents_lmap :
    ∀ v ∈ ([0x80000000, 0x8000033F] : List DWord), let s := evF { n := 3, m := 63, v := v }
      s.inp.n < 4 ∧ s.inp.m < 64 ∧ WriteOpen s .dspLmap 255 ∧ s.portsQuiet = true ∧ s.cores.blocks = [] := by
  intro v hv
  simp only [List.mem_cons, List.not_mem_nil, or_false] at hv
  rcases hv with rfl | rfl <;> exact ⟨by decide, by decide, writeOpen_of (by decide), by decide, by decide⟩

/-! ### Premises met: launches -/

/-- The 128 bytes of a record of five extents. -/
def recBytes (r : LaunchRec) : List Byte :=
  bytesLE 8 r.ctl.toNat ++ r.dims.flatMap (fun x => bytesLE 4 x.toNat) ++ bytesLE 4 r.span.toNat ++ bytesLE 8 r.lbase.toNat
    ++ bytesLE 8 r.feat.toNat ++ bytesLE 8 r.res.toNat ++ bytesLE 8 r.wsmask.toNat ++ bytesLE 8 r.entry.toNat
    ++ bytesLE 8 r.arg.toNat ++ bytesLE 8 r.cblk.toNat ++ bytesLE 4 r.graph.toNat ++ bytesLE 4 r.phase.toNat
    ++ bytesLE 4 r.job.toNat ++ bytesLE 4 r.place.toNat ++ bytesLE 8 r.seed.toNat ++ bytesLE 8 r.clist.toNat ++ bytesLE 8 r.rsvd.toNat

theorem test_record_bytes : recOfBytes (recBytes fetchRec) = fetchRec := by decide +kernel

/-- The state of an event with launches, and this power class's row. -/
def lauS (x : Input) (f : Launches → Launches) : State :=
  { ev x with
    lau := f (ev x).lau, clk := { (ev x).clk with ref := 1 }, th := { (ev x).th with rows := [(recPclass fetchRec, (18, 20, 1))] } }

def lreq0 : LaunchReq := { id := 3, issuer := .cmd 0 1, va := 0x1FF#64 <<< 47, job := 0, primax := 3, dies := 0xF }
def key0 : LaunchId := { pod := 0, seq := 0 }
def pod0 (st : PodState) : PodLaunch :=
  { seq := 0, lrec := fetchRec, recVa := 0x1FF#64 <<< 47, issuer := .cmd 0 1, home := 0, reqId := 3, state := st }
def pkg0 : PkgLaunch := { key := key0, lrec := fetchRec, rsvto := 100000 }
def ctx0 (st : CtxState) : Ctx := { core := 0, key := key0, state := st, next := 0, last := 2 }
def fault0 : FaultRecord :=
  { code := 4, flags := 0, mdepth := 0, stat := 0, gid := 0, depth := 0, pc := 0, lanes := 1, aux := 0, addr := 0, gtick := 0, tile := 0
    die := 0, lcore := 0, pcore := 0, engine := 0, job := 0 }
def answer0 (no : Option NoReason) : AnswerMsg := { key := key0, pkg := 0, cores := 1, no := no }

theorem wit_LaunchEvents_request :
    (let s := lauS { n := 3 } fun l => { l with reqs := [lreq0] }
    s.inp.bytes.length ≠ 128 ∧ s.launchReq? 3 = some lreq0 ∧ lreq0.pod = none ∧ lreq0.status = none ∧ lreq0.bytes.length < 128
    ∧ lreq0.req = none ∧ vaLegal lreq0.va = true ∧ lreq0.va.toNat % 128 = 0)
    ∧ (let r : LaunchReq := { lreq0 with bytes := recBytes fetchRec }
      let s := lauS { n := 3 } fun l => { l with reqs := [r] }
      let lr := recOfReq r
      s.launchReq? 3 = some r ∧ 128 ≤ r.bytes.length ∧ s.earlierOpen r = false ∧ recBad lr = false ∧ s.classValid lr = true
      ∧ recJob lr = r.job ∧ recPrio lr ≤ r.primax ∧ recDmask lr &&& ~~~r.dies = 0 ∧ (joinIdents s.lau.idents (identsOf lr)).isSome = true
      ∧ (recPkgs s.own lr).headD s.own = s.own)
    ∧ (let r : LaunchReq := { lreq0 with bytes := bytesLE 128 0 }
      let s := lauS { n := 3 } fun l => { l with reqs := [r] }
      s.launchReq? 3 = some r ∧ 128 ≤ r.bytes.length ∧ s.earlierOpen r = false ∧ recBad (recOfReq r) = true)
    ∧ (let r : LaunchReq := { lreq0 with bytes := recBytes fetchRec, job := 7 }
      let s := lauS { n := 3 } fun l => { l with reqs := [r] }
      s.launchReq? 3 = some r ∧ 128 ≤ r.bytes.length ∧ s.earlierOpen r = false ∧ recBad (recOfReq r) = false
      ∧ s.classValid (recOfReq r) = true ∧ recJob (recOfReq r) ≠ r.job)
    ∧ (ev { m := 5, bytes := recBytes fetchRec }).inp.bytes.length = 128 := by decide +kernel

theorem wit_LaunchEvents_reserve :
    ((lauS {} fun l => { l with pods := [pod0 .waiting] }).pod? 0 = some (pod0 .waiting) ∧ (pod0 .waiting).state = .waiting)
    ∧ (let p : PodLaunch := { pod0 .waiting with clear := some [1] }
      let s := lauS { on := true, m := 1 } fun l => { l with pods := [p] }
      s.inp.on = true ∧ s.pod? 0 = some p ∧ p.clear = some [1])
    ∧ (let s := lauS { msg := .banks 8, key := { pod := 9, seq := 0 } } id
      s.inp.msg = .banks 8)
    ∧ (let p : PodLaunch := { pod0 .zeroing with line := 2 }
      (lauS {} fun l => { l with pods := [p] }).pod? 0 = some p ∧ p.state = .zeroing ∧ p.req = none ∧ (podPkgs p).length < p.line)
    ∧ (∀ no ∈ [none, some NoReason.nogang], let a := answer0 no
      let s := lauS { msg := .answer a } fun l => { l with pods := [pod0 .reserving] }
      s.inp.msg = .answer a ∧ a.key.pod = s.own ∧ s.pod? a.key.seq = some (pod0 .reserving) ∧ (pod0 .reserving).state = .reserving
      ∧ a.pkg ∈ podPkgs (pod0 .reserving) ∧ (∀ b ∈ (pod0 .reserving).answers, b.pkg ≠ a.pkg)
      ∧ (pod0 .reserving).answers.length + 1 = (podPkgs (pod0 .reserving)).length)
    ∧ (let r : ReserveMsg := { key := key0, record := fetchRec, rsvto := 100000, prevS := 0 }
      let s := lauS { msg := .reserve r } id
      s.inp.msg = .reserve r ∧ s.pkgLaunch? r.key = none)
    ∧ (let p : PkgLaunch := { pkg0 with dies := [{ die := 3, asked := 0 }] }
      let s := lauS { n := 3 } fun l => { l with pkgs := [p] }
      s.pkgLaunch? s.inp.key = some p ∧ (∃ d ∈ p.dies, d.die = 3 ∧ d.answer = none) ∧ 3 ∉ s.lau.holds)
    ∧ (let p : PkgLaunch := { pkg0 with dies := [{ die := 3, asked := 0, answer := some (some 64) }] }
      let s := lauS {} fun l => { l with pkgs := [p] }
      s.pkgLaunch? s.inp.key = some p ∧ p.answer = none ∧ ∀ d ∈ p.dies, d.answer ≠ none) := by decide +kernel

theorem wit_LaunchEvents_timeouts :
    (let p : PkgLaunch := { pkg0 with dies := [{ die := 3, asked := 0 }], rsvto := 0 }
    let s := lauS { n := 3, msg := .level .die } fun l => { l with pkgs := [p] }
    s.inp.msg = .level .die ∧ s.pkgLaunch? s.inp.key = some p ∧ ∃ d ∈ p.dies, d.die = 3 ∧ d.answer = none ∧ d.asked + p.rsvto / 4 ≤ s.clk.ref)
    ∧ (let p : PodLaunch := { pod0 .reserving with rsvto := 0 }
      let s := lauS { n := 0, msg := .level .package } fun l => { l with pods := [p] }
      s.inp.msg = .level .package ∧ s.inp.key.pod = s.own ∧ s.pod? s.inp.key.seq = some p ∧ p.state = .reserving
      ∧ p.start + p.rsvto / 2 ≤ s.clk.ref ∧ 0 ∈ podPkgs p ∧ ∀ b ∈ p.answers, b.pkg ≠ 0)
    ∧ (let p : PodLaunch := { pod0 .reserving with rsvto := 0 }
      let s := lauS { n := 0, msg := .level .pod } fun l => { l with pods := [p] }
      s.inp.msg = .level .pod ∧ s.inp.key.pod = s.own ∧ s.pod? s.inp.key.seq = some p ∧ p.state = .reserving
      ∧ p.start + p.rsvto ≤ s.clk.ref ∧ podPkgs p = [0] ∧ p.answers = [])
    ∧ (let p : PkgLaunch := { pkg0 with answer := some (answer0 none, 0), rsvto := 0 }
      let s := lauS {} fun l => { l with pkgs := [p] }
      s.pkgLaunch? s.inp.key = some p ∧ p.s = none ∧ p.answer = some (answer0 none, 0) ∧ (answer0 none).no = none ∧ 0 + p.rsvto ≤ s.clk.ref)
    ∧ (let c : Ctx := { ctx0 .active with stall := some 0 }
      let s : State := { lauS {} fun l => { l with ctxs := [c] } with clk := { (ev {}).clk with ref := 20000 } }
      s.ctx? 0 s.inp.key = some c ∧ c.stall = some 0 ∧ c.state = .active ∧ c.next < c.last
      ∧ 0 + (s.reg .dspStallto 0).toNat % 2 ^ 32 = s.clk.ref) := by decide +kernel

theorem wit_LaunchEvents_commit :
    (∀ late ∈ [false, true], let c : CommitMsg := { key := key0, s := 0, lo := 0, hi := 1 }
    let s : State := { lauS { msg := .commit c } fun l => { l with pkgs := [pkg0] } with
      clk := { (ev {}).clk with gt := if late then 4001 else 4000 } }
    s.inp.msg = .commit c ∧ s.pkgLaunch? c.key = some pkg0 ∧ pkg0.s = none ∧ (if late then c.s + 4000 < s.clk.gt else s.clk.gt ≤ c.s + 4000))
    ∧ (let s := lauS {} fun l => { l with pkgs := [pkg0] }
      s.pkgLaunch? s.inp.key = some pkg0 ∧ pkg0.s = none)
    ∧ (let c := ctx0 .armed
      let s := lauS {} fun l => { l with ctxs := [c], pkgs := [{ pkg0 with s := some 0 }] }
      s.ctx? 0 s.inp.key = some c ∧ s.startOf s.inp.key = some 0 ∧ c.state = .armed ∧ 0 ≤ s.clk.gt)
    ∧ (∀ st ∈ ([.hungry, .closing] : List CtxState), ∀ hi ∈ [4, 5], let c : Ctx := { ctx0 st with last := 0, asked := true }
      let s := lauS { n := 65, m := 4, k := hi } fun l => { l with ctxs := [{ c with core := 65 }], pkgs := [pkg0] }
      s.inp.n / 256 = s.own ∧ s.pod? s.inp.key.seq = none ∧ s.physical (s.inp.n / 64 % 4) (s.inp.n % 64) = 65
      ∧ s.ctx? 65 s.inp.key = some { c with core := 65 } ∧ c.last ≤ c.next ∧ s.pkgLaunch? s.inp.key = some pkg0
      ∧ (s.inp.m < s.inp.k ∨ s.inp.k ≤ s.inp.m))
    ∧ (let k : LaunchId := { pod := 9, seq := 0 }
      let c : Ctx := { ctx0 .active with key := k }
      let s := lauS { on := true, m := 300, key := k } fun l => { l with ctxs := [c], pkgs := [{ pkg0 with key := k }] }
      s.inp.on = true ∧ k.pod ≠ s.own ∧ s.pickVictim k 0 256 = some c ∧ splitOf c s.clk.ref = some (1, 2, { c with last := 1 }))
    ∧ (∀ st ∈ ([.active, .armed] : List CtxState), let c := ctx0 st
      let h : Ctx := { ctx0 .hungry with core := 255, last := 0 }
      let s := lauS { n := 0, m := 255 } fun l => { l with ctxs := [c, h] }
      s.ctx? 0 s.inp.key = some c ∧ s.ctx? 255 s.inp.key = some h ∧ h.state = .hungry ∧ h.asked = false ∧ h.last ≤ h.next
      ∧ (c.state = .active ∨ c.state = .armed) ∧ c.next + 2 = c.last) := by decide +kernel

theorem wit_LaunchEvents_counts :
    (let p : PkgLaunch := { pkg0 with counts := [(3, { retired := 1, never := 0, cancelled := 0 })] }
    let s := lauS { n := 3 } fun l => { l with pkgs := [p] }
    s.pkgLaunch? s.inp.key = some p ∧ s.countsDue p 3 = true)
    ∧ (let c : TileCounts := { retired := 1, never := 0, cancelled := 0 }
      let s := lauS { msg := .counts c } fun l => { l with pods := [pod0 .committed] }
      s.inp.msg = .counts c ∧ s.inp.key.pod = s.own ∧ s.pod? s.inp.key.seq = some (pod0 .committed)
      ∧ podRunning (pod0 .committed) = true ∧ ∀ x ∈ (pod0 .committed).counts, countSum x.2 ≤ countSum c)
    ∧ (let s := lauS { msg := .counts { retired := 1, never := 0, cancelled := 0 }, key := { pod := 9, seq := 0 } } id
      s.inp.key.pod ≠ s.own)
    ∧ (let p : PodLaunch := { pod0 .committed with counts := [(0, { retired := 1, never := 0, cancelled := 0 })] }
      let s := lauS {} fun l => { l with pods := [p] }
      s.pod? 0 = some p ∧ podRunning p = true ∧ countSum (podCounts p) = recTiles p.lrec ∧ p.fin = none)
    ∧ (let p : PodLaunch := { pod0 .committed with counts := [(0, { retired := 1, never := 0, cancelled := 0 })], fin := some [] }
      let s := lauS {} fun l => { l with pods := [p] }
      s.pod? 0 = some p ∧ podRunning p = true ∧ countSum (podCounts p) = recTiles p.lrec ∧ p.fin = some []
      ∧ vaLegal p.lrec.cblk = true)
    ∧ (let p : PodLaunch := { pod0 .done with req := some 5 }
      let s0 := lauS {} fun l => { l with pods := [p], pkgs := [{ pkg0 with s := some 0 }] }
      let s : State := { s0 with fab := { s0.fab with got := (cmdGot (cmd 1 0 id)).fab.got } }
      s.pod? 0 = some p ∧ p.state = .done ∧ p.req = some 5 ∧ s.own ∈ podPkgs p ∧ ∃ u, s.unitAns 5 = .ok u)
    ∧ (let s := lauS { msg := .fault fault0 } fun l => { l with pods := [pod0 .committed] }
      s.inp.msg = .fault fault0 ∧ s.inp.key.pod = s.own ∧ s.pod? s.inp.key.seq = some (pod0 .committed)
      ∧ podRunning (pod0 .committed) = true ∧ (pod0 .committed).state = .committed)
    ∧ (let k : LaunchId := { pod := 9, seq := 0 }
      let s := lauS { msg := .fault fault0, key := k } fun l => { l with pkgs := [{ pkg0 with key := k }] }
      s.inp.msg = .fault fault0 ∧ s.inp.key.pod ≠ s.own ∧ (s.pkgLaunch? s.inp.key).isSome = true)
    ∧ (let k : Park := { cond := .launch 3, slotB := false, op := { op0 with d := 0xA8 } }
      let r : LaunchReq := { lreq0 with status := some .committed }
      let s : State := { baseG (fun g => { g with park := some k }) with lau := { base.lau with reqs := [r] }, inp := { n := 1, m := 0 } }
      let g : Group := { fetchGroup with park := some k }
      s.inp.on = false ∧ s.group? s.inp.n s.inp.m = some g ∧ g.park = some k ∧ k.cond = .launch 3 ∧ s.launchReq? 3 = some r
      ∧ r.status = some .committed) := by
  refine ⟨by decide +kernel, by decide +kernel, by decide, by decide +kernel, by decide +kernel,
    ⟨by decide +kernel, by decide +kernel, by decide +kernel, by decide +kernel, _, rfl⟩, by decide +kernel, by decide +kernel, ?_⟩
  exact ⟨rfl, by decide, rfl, rfl, rfl, rfl⟩

/-! ### Premises met: blocks and engines -/

/-- The block of `base`, changed, with an event's operands, no run, and its launch here. -/
def blkS (x : Input) (f : Block → Block) : State :=
  let s := baseB f
  { s with inp := x, cores := { s.cores with runs := [] }, lau := { s.lau with pkgs := [pkg0], ctxs := [ctx0 .active] } }

def blk0 : Block :=
  { uid := 1, core := 0, key := key0, lrec := fetchRec, own := 0, tile := 0, ext := 0, extLen := 0x44000, scr := 0x40000, divs := 64
    accts := [0, 1, 2, 3], groups := [fetchGroup] }

/-- It is stopped, as it is asked. -/
def stopped (k : Stop) : Block := { blk0 with stop := some k, groups := [{ fetchGroup with stopped := true }] }

/-- Core 0 at its power class's operating point, and one launch that has started. -/
def openS (st : CtxState) : State :=
  let s := (lauS {} fun l => { l with pkgs := [{ pkg0 with s := some 0 }], ctxs := [ctx0 st], parts := [(0, 0, 0xF, [])] }).setReg .pwrCstat 0 0
  { s.setReg .clkClf 0 0x80000012 with clk := { s.clk with gt := 1 } }

def fits (s : State) (core : Nat) : Bool := match s.fit core fetchRec (fun _ => true) with | .ok _ => true | .no _ => false

theorem wit_BlockEvents_placement :
    (let s := openS .active
    s.issuers 0 = [{ pkg0 with s := some 0 }] ∧ s.coreOpen 0 fetchRec = true ∧ s.savedFor 0 key0 = [] ∧ s.ctx? 0 key0 = some (ctx0 .active)
    ∧ fits s 0 = true)
    ∧ (let s := openS .hungry
      s.ctx? 0 s.inp.key = some (ctx0 .hungry) ∧ s.pkgLaunch? s.inp.key = some { pkg0 with s := some 0 } ∧ s.coreOpen 0 fetchRec = true
      ∧ fits s 0 = true ∧ (ctx0 .hungry).ask ≤ s.clk.ref) := by decide +kernel

theorem wit_BlockEvents_ends :
    (let b : Block := { blk0 with groups := [{ fetchGroup with exited := true }] }
    let s := blkS { n := 1 } fun _ => b
    s.block? 1 = some b ∧ (∀ g ∈ b.groups, g.exited = true ∧ g.dead = false) ∧ s.quiet b false = true ∧ hasErrors b = false
    ∧ s.pkgLaunch? b.key = some pkg0)
    ∧ (∀ k ∈ ([.fault, .cancel, .flush] : List Stop), let b := stopped k
      let s := blkS { n := 1 } fun _ => b
      s.block? 1 = some b ∧ b.stop = some k ∧ s.allStopped b = true ∧ s.quiet b false = true ∧ s.quiet b true = true
      ∧ hasErrors b = false ∧ s.isGated (clusterOf b.core) = false ∧ s.pkgLaunch? b.key = some pkg0
      ∧ s.ctx? b.core b.key = some (ctx0 .active))
    ∧ (let p : PkgLaunch := { pkg0 with s := some 0 }
      let s := lauS { on := true } fun l => { l with pkgs := [p] }
      s.inp.on = true ∧ s.pkgLaunch? s.inp.key = some p ∧ p.canc = false ∧ p.s.isSome = true)
    ∧ (let s := lauS {} fun l => { l with pods := [pod0 .committed] }
      s.inp.on = false ∧ s.inp.key.pod = s.own ∧ s.pod? s.inp.key.seq = some (pod0 .committed) ∧ (pod0 .committed).state = .committed) := by
  decide +kernel

/-- A block without accumulator tiles that stops to be saved. -/
def saved0 : Block := { stopped .save with accts := [], scr := 1024 }

/-- The save pool is the mapped page of region 0. -/
def poolS : State :=
  let s := blkS { n := 1 } fun _ => saved0
  let s := ((s.setReg .dspSpbase 0 (0x1FF#64 <<< 47)).setReg .dspSpsize 0 32).setReg .xltRootl 0 0x8000000000002000
  { s.setReg .dspLmap 0 0x80000000 with fab := { s.fab with mem := treeMem }, lau := { s.lau with parts := [(0, 0, 0xF, [])] } }

theorem poolOpen {s : State} {b : Block} {start : Nat} {va : DWord} (h : s.poolCheck .store va (imgSize b) = none)
    (hb : s.imageBad b = false) :
    ∃ u, s.writeImage b start va = .ok u := by
  unfold State.writeImage
  rw [hb]
  generalize imageFields s b start = fs
  generalize List.map (fun i => ((8 * i, 8, 0) : ImgField)) _ = zs
  generalize s.poolCheck .store va (imgSize b) = r at h
  subst h
  exact ⟨_, rfl⟩

theorem wit_BlockEvents_save :
    let b := saved0
    let s := poolS
    let b' : Block := { b with groups := b.groups.map fun g => { g with park := none, stopped := false, pend := [] } }
    s.block? 1 = some b ∧ b.stop = some .save ∧ s.allStopped b = true ∧ s.quiet b true = true ∧ s.isGated (clusterOf b.core) = false
    ∧ hasErrors b = false ∧ (∀ g ∈ b.groups, g.park = none) ∧ s.poolFind (imgUnits b) = some 0
    ∧ s.placeable b.lrec = true
    ∧ ∃ u, s.writeImage b' ((s.startOf b.key).getD 0) (s.resolve (s.reg .dspSpbase 0) + BitVec.ofNat 64 (65536 * 0)) = .ok u := by
  refine ⟨by decide +kernel, by decide +kernel, by decide +kernel, by decide +kernel, by decide +kernel, by decide +kernel,
    by decide +kernel, by decide +kernel, by decide +kernel, poolOpen (by decide +kernel) (by decide +kernel)⟩

/-- Without a reading no core is a target. -/
theorem noTarget {s : State} {src : Nat} (h : s.th.temps = []) : s.migrationTarget src = none := by
  have ht (c : Nat) : s.temp (.core c) = none := by simp [State.temp, h, FMap.get]
  have hi (c : Nat) : s.isTarget src c = false := by simp [State.isTarget, ht]
  have hd (d : Nat) : s.targetOn src d = none := by
    unfold State.targetOn
    rw [List.filter_eq_nil_iff.mpr fun c _ => by simp [hi]]
    rfl
  simp [State.migrationTarget, List.findSome?_eq_none_iff, hd]

/-- A core whose blocks stop to move to core 64, the first of die 1, with that cluster's HOLD as given. -/
def moveS (hold : DWord) : State :=
  let s := (blkS {} fun _ => stopped .migrate).setReg .pwrCstat 16 hold
  { s with th := { s.th with moves := [(0, 64, 1)] }, lau := { s.lau with parts := [(0, 0, 0xF, [])] } }

theorem wit_BlockEvents_transfer :
    (let s := moveS 1
    s.th.moves.find? (fun x => x.1 == 0) = some (0, 64, 1) ∧ s.isGated (clusterOf 0) = false ∧ s.isGated (clusterOf 64) = false
      ∧ (0 : Nat) ≠ 64 ∧ s.blocksOn 0 ≠ [] ∧ (∀ b ∈ s.blocksOn 0, s.movable b = true) ∧ s.takesFrom 0 64 = false)
    ∧ (moveS 1).migrationTarget 0 = none
    ∧ (let s := (moveS 0).setReg .clkClf 16 0x80000012
      s.th.moves.find? (fun x => x.1 == 0) = some (0, 64, 1) ∧ s.isGated (clusterOf 0) = false ∧ s.isGated (clusterOf 64) = false
      ∧ s.blocksOn 0 ≠ [] ∧ (∀ b ∈ s.blocksOn 0, s.movable b = true) ∧ s.takesFrom 0 64 = true) :=
  ⟨by decide +kernel, noTarget (by decide +kernel), by decide +kernel⟩

theorem wit_BlockEvents_migration :
    (let s : State := { ev {} with th := { (ev {}).th with wants := [(0, 0)] } }
    s.th.wants.find? (fun w => w.1 == 0) = some (0, 0) ∧ 0 ≤ s.clk.ref ∧ s.hasGroups 0 = false)
    ∧ (let s0 := blkS {} id
      let s : State := { s0 with th := { s0.th with wants := [(0, 0)] } }
      s.th.wants.find? (fun w => w.1 == 0) = some (0, 0) ∧ s.hasGroups 0 = true) := by decide +kernel

/-- The state of an event with the one group of the block changed. -/
def grpS (x : Input) (f : Group → Group) : State := blkS x fun b => { b with groups := b.groups.map f }

/-- A group with one engine operation outstanding. -/
def withEng (k : EngClass) (g : Group) : Group := { g with engs := [{ id := 7, cls := k, site := site0 }], cnt := { copy := 1, arr := 1, qmu := 1, nest := 1 } }

theorem wit_EngineEvents_groups :
    (let s := grpS {} id
    (∀ r ∈ s.cores.runs, ¬(r.core = 0 ∧ r.part = 0)) ∧ (firstBy bidBefore (s.bidders 0 0)).isSome = true)
    ∧ (let s0 := grpS { n := 1 } id
      let s : State := { s0 with clk := { s0.clk with ref := 1024 } }
      s.block? 1 = some blk0 ∧ blockGroup? blk0 0 = some fetchGroup ∧ (s.readyGroup blk0 fetchGroup).isSome = true
      ∧ fetchGroup.lastRef + 1024 = s.clk.ref)
    ∧ (let o : LongOp := { id := 7, site := site0, kind := .load, ty := .i32, dest := .all 3, left := 0 }
      let g : Group := { fetchGroup with ops := [o], pend := [(3, 7)] }
      let s := grpS { n := 1, k := 7 } fun _ => g
      s.group? 1 0 = some g ∧ g.ops.find? (fun o => o.id == s.inp.k) = some o ∧ o.left = 0 ∧ o.errs = [] ∧ hitchOf g = none)
    ∧ (let k : Park := { cond := .sleep 0, slotB := false }
      let g : Group := { fetchGroup with park := some k }
      let s := grpS { n := 1 } fun _ => g
      s.group? 1 0 = some g ∧ g.park = some k ∧ k.cond = .sleep 0 ∧ 0 ≤ s.clk.ref) := by decide +kernel

def desc0 (k : CopyKind) : CopyDesc :=
  { op := 7, blk := 1, gid := 0, kind := k, src := 0, dst := 0x100, len := 100, rblk := 1, site := site0 }

/-- A descriptor at the head of channel 3 of core 0. -/
def chanS (x : Input) (d : CopyDesc) : State :=
  let s := grpS x (withEng .copy)
  { s with cores := { s.cores with chans := [((0, 3), [d])] } }

theorem wit_EngineEvents_copies :
    (let d := desc0 .neighbour
    let s := chanS { n := 0, m := 3 } d
    s.chanOf 0 3 = [d] ∧ d.failed = [] ∧ d.done < d.len ∧ d.kind = .neighbour ∧ s.sourceBad 0 d = false ∧ d.mirror = none ∧ d.bar = none
    ∧ (s.block? d.rblk).isSome = true)
    ∧ (let d : CopyDesc := { desc0 .fetch with src := 0x1FF#64 <<< 47 }
      let s := chanS { n := 0, m := 3 } d
      s.chanOf 0 3 = [d] ∧ d.failed = [] ∧ d.done < d.len ∧ d.kind = .fetch ∧ d.req = none ∧ d.data = []
      ∧ vaLegal (d.src + BitVec.ofNat 64 d.done) = true)
    ∧ (let d : CopyDesc := { desc0 .neighbour with done := 100 }
      let s := chanS { n := 0, m := 3 } d
      s.chanOf 0 3 = [d] ∧ d.failed = [] ∧ d.done = d.len ∧ 0 < d.len
      ∧ s.group? d.blk d.gid = some (withEng .copy fetchGroup) ∧ (withEng .copy fetchGroup).engs = [{ id := d.op, cls := .copy, site := site0 }])
    ∧ (let d := desc0 .weight
      let s0 := chanS { n := 0, m := 0 } d
      let s : State := { s0 with clk := { s0.clk with ref := 40 } }
      s.cores.chans = [((0, 3), [d])] ∧ (0 : Nat) / 64 = 0 ∧ d.kind = .weight ∧ d.failed = [] ∧ d.done < d.len ∧ s.sourceBad 0 d = false
      ∧ s.bankBusy 0 0 = false ∧ s.wsFree 0 (d.src.toNat + d.done) (beatLen d) = true ∧ (s.block? d.rblk).isSome = true) := by
  decide +kernel

def arrOp0 (k : ArrKind) : ArrOp := { op := 7, blk := 1, gid := 0, kind := k }

/-- Cluster 0 changed. -/
def cluS (x : Input) (f : Cluster → Cluster) : State :=
  let s := grpS x (withEng .arr)
  { s with cores := { s.cores with clus := [(0, f {})] } }

theorem wit_EngineEvents_array :
    (∀ slot ∈ [0, 15], let op := arrOp0 .mzero
    let port : ArrayPort := .stream
    let e : Booking := { slot := slot, blk := 1, gid := 0, ops := [op] }
    let s := cluS { port := port } fun c => { c with book := [e] }
    portOp (s.cluster 0) s.inp.port = none ∧ (s.block? e.blk).isSome = true
    ∧ choose (match s.inp.port with | .load => (s.cluster 0).last.1 | .stream => (s.cluster 0).last.2) (s.readyHeads 0 s.inp.port)
        = some (e, op, recPrio fetchRec))
    ∧ (let op := arrOp0 .mzero
      let s := cluS { port := .stream } fun c => { c with book := [{ slot := 15, blk := 1, gid := 0, ops := [op] }], stream := some op }
      portOp (s.cluster 0) s.inp.port = some op ∧ s.group? op.blk op.gid = some (withEng .arr fetchGroup)) := by decide +kernel

theorem wit_EngineEvents_units :
    (let q : QmuOp := { blk := 1, gid := 0, eng := some 7, op := none }
    let s0 := grpS { n := 1 } (withEng .qmu)
    let s : State := { s0 with cores := { s0.cores with qmus := [q] } }
    s.cores.qmus.find? (fun q => q.blk == 1 && q.gid == 0) = some q ∧ q.eng = some 7 ∧ s.group? 1 0 = some (withEng .qmu fetchGroup))
    ∧ (let x : NestOp := { op := 7, blk := 1, gid := 0, k := 1, ty := .i32, d := 4, a := 5, b := 6, p := 0 }
      let s0 := grpS { n := 1 } (withEng .nest)
      let s : State := { s0 with cores := { s0.cores with nests := [x] } }
      s.cores.nests.find? (fun x => x.blk == 1 && x.gid == 0) = some x ∧ (s.block? 1).isSome = true ∧ s.group? 1 0 = some (withEng .nest fetchGroup))
    ∧ (∀ n ∈ [1, 2 ^ 31 - 1], let q : MpathOp := {
        op := 7, core := 0, blk := 1, gid := 0, out := 0, rows := 0x1FF#64 <<< 47, n := n, p := 256, site := site0, srcid := 0 }
      let s0 := grpS {} (withEng .copy)
      let s : State := { s0 with cores := { s0.cores with mpaths := [(0, q)] } }
      s.mpathHead 0 = some q ∧ q.req = none ∧ mpathRuns q.n q.p = true ∧ q.failed = [] ∧ q.z = none
      ∧ vaLegal (q.rows + BitVec.ofNat 64 (4 * q.n)) = true)
    ∧ (let k : Park := { cond := .lwait 5 0, slotB := false, op := { op0 with d := 0xA8 } }
      let g : Group := { fetchGroup with park := some k }
      let s0 := grpS { n := 1 } fun _ => g
      let r : Req := {
        id := 5, kind := .load, core := 0, who := .watch 1 0, line := 0, parts := [{ lane := 0, va := 0, size := 8 }], phase := .answered
        vals := [2 ^ 63] }
      let s : State := { s0 with fab := { s0.fab with got := [r] } }
      s.group? 1 0 = some g ∧ g.park = some k ∧ (s.curOf 1 0 k.slotB).isSome = true ∧ k.cond = .lwait 5 0 ∧ s.got? 5 = some r
      ∧ r.phase = .answered ∧ 2 ^ 63 ≤ (r.vals.getD 0 0).toNat ∧ hasImprecise g = false) := by decide +kernel

/-- Long results of every kind of destination, with values in the first and the last lane. -/
theorem wit_EngineEvents_values :
    ∀ d ∈ [Dest.none, .vec 3 4, .uni 2, .all 3, .rows 8 8], ∀ t ∈ [Ty.i8, .n16, .e2m1, .i64],
      let o : LongOp := { id := 7, site := { site0 with fx := 1, lanes := 0x80000001 }, kind := .load, ty := t, dest := d, left := 0
                          vals := [(0, 0x1F0), (31, 0x8081)] }
      let g : Group := { fetchGroup with ops := [o], pend := [(3, 7)] }
      let s := grpS { n := 1, k := 7 } fun _ => g
      s.group? 1 0 = some g ∧ g.ops.find? (fun o => o.id == s.inp.k) = some o ∧ o.left = 0 ∧ o.errs = [] ∧ hitchOf g = none
        ∧ (o.vals.map fun e => e.1) = [0, 31] := by decide +kernel

/-- A booked operation at the head of the one entry of cluster 0, whose block holds a tile and both planes. -/
def grantS (port : ArrayPort) (tiles : List Nat) (op : ArrOp) : State :=
  let plane : Plane := { desc := { fmt := 0, nc := 2, kb := 32, meta_ := false, sparse := false }, owner := some 1 }
  let s := cluS { port := port } fun c => { c with
    book := [{ slot := 0, blk := 1, gid := 0, ops := [op] }], active := plane, shadow := plane
    acc := [(accKey 2 254 255, 0x3FF0000000000000), (accKey 2 255 0, 0x4000000000000000)], tail := [(accKey 2 255 0, 0x3F800000)] }
  { s with cores := { s.cores with blocks := s.cores.blocks.map fun b => { b with
      accts := tiles, groups := b.groups.map fun g => { g with ops := [{
        id := 9, site := site0, kind := .load, ty := .f32, dest := .rows 8 1, left := 1 }] } } } }

/-- The operations, at the last row and the last columns. -/
def grantKinds : List ArrKind :=
  [.mstat false 0 { fmt := 0, nc := 2, kb := 32, meta_ := false, sparse := false }, .mswap, .mswapRel,
    .mstream 0 false 0 32 0 (some { fmt := 0, nc := 2, kb := 32, meta_ := false, sparse := false }), .mfold, .mzero,
    .mdrainScr true 64 1024, .mdrainScr false 64 1024, .mdrainReg true 9, .mdrainReg false 9]

theorem wit_EngineEvents_grants :
    ∀ k ∈ grantKinds, ∀ tiles ∈ [[], [2]],
      let op : ArrOp := { arrOp0 k with row0 := 255, n := 1, cb0 := 0, ncb := 8, mask := 0xFFFFFFFF }
      let s := grantS (portOf k) tiles op
      portOp (s.cluster 0) s.inp.port = none
      ∧ (s.block? 1).any (fun b => (s.arrayBad 0 b op).isNone) = true
      ∧ (choose (match s.inp.port with | .load => (s.cluster 0).last.1 | .stream => (s.cluster 0).last.2)
          (s.readyHeads 0 s.inp.port)).any (fun x => x.2.1 == op) = true
      ∧ op.row0 + op.n = 256 ∧ op.cb0 + op.ncb = 8 := by decide +kernel

/-- A drain into registers that has been granted ends with its values. -/
theorem wit_EngineEvents_drained :
    let op := arrOp0 (.mdrainReg false 9)
    let l : LongOp := { id := 9, site := site0, kind := .load, ty := .f32, dest := .rows 8 1, left := 1, vals := [(0, 1), (31, 2)] }
    let s0 := cluS { port := .stream } fun c => { c with book := [{ slot := 15, blk := 1, gid := 0, ops := [op] }], stream := some op }
    let s : State := { s0 with cores := { s0.cores with blocks := s0.cores.blocks.map fun b => { b with
      groups := b.groups.map fun g => { g with ops := [l] } } } }
    portOp (s.cluster 0) s.inp.port = some op
    ∧ (s.group? 1 0).any (fun g => g.ops.find? (fun o => o.id == 9) == some l && g.engs == (withEng .arr fetchGroup).engs) = true
    ∧ l.errs = [] := by decide +kernel

/-- An ADD of the first words, two in a row, that meets no error. -/
theorem wit_EngineEvents_nest :
    let x : NestOp := { op := 7, blk := 1, gid := 0, k := 1, ty := .i32, d := 64, a := 0, b := 32, p := 2 }
    let s0 := grpS { n := 1 } (withEng .nest)
    let s : State := { s0 with cores := { s0.cores with nests := [x] } }
    s.cores.nests.find? (fun x => x.blk == 1 && x.gid == 0) = some x ∧ nestCount x.p = 2
    ∧ (s.block? 1).any (fun b => (s.nestFail b x).isNone) = true ∧ (s.group? 1 0).any (fun g => g.park.isNone) = true
    ∧ s.reg .dbgTrctl 0 = 0 := by decide +kernel

/-- An operation of the merge-path unit over the spec's example, four parts of 0, 3, 3, 5, 9 (R228), at some point of its work. -/
def mpath0 : MpathOp :=
  { op := 7, core := 0, blk := 1, gid := 0, out := 0x1FF#64 <<< 47, rows := 0x1FF#64 <<< 47, n := 4, p := 4, site := site0, srcid := 0 }
def mpathRead : MpathOp := { mpath0 with
  z := some 9, best := [some 0, some 0, some 2, some 3, some 4], ptrs := [0, 3, 3, 5, 9], pos := 5 }
def mpathS (q : MpathOp) (got : List Req) : State :=
  let s0 := grpS {} (withEng .nest)
  { s0 with cores := { s0.cores with mpaths := [(0, q)] }, fab := { s0.fab with got := got } }
def mpathAns (n : Nat) (vals : List DWord) : Req :=
  { id := 5, kind := .load, core := 0, who := .mpath 0, line := 0, phase := .answered, vals := vals
    parts := (List.range n).map fun i => { lane := i, va := 0, size := 8 } }

theorem mpathRead_splits : MpathSplits mpathRead 9 := by
  refine ⟨by decide, ?_⟩
  simp only [IsSplit]
  intro k hk
  have h : mpathRead.best = [some 0, some 0, some 2, some 3, some 4] := by decide
  have hp : mpathRead.ptrs = [0, 3, 3, 5, 9] := by decide
  have hpos : mpathRead.pos = 5 := by decide
  have hn : mpathRead.n = 4 := by decide
  have hpp : mpathRead.p = 4 := by decide
  rw [hpp] at hk
  rw [h, hp, hpos, hn, hpp]
  refine ⟨fun i hi => ?_, fun hi => ?_⟩ <;>
    (have : k = 0 ∨ k = 1 ∨ k = 2 ∨ k = 3 ∨ k = 4 := by omega) <;>
    (rcases this with rfl | rfl | rfl | rfl | rfl <;> simp at hi) <;>
    (subst hi; decide)

theorem mpath0_splits : MpathSplits { mpath0 with z := some 9 } 9 := by
  refine ⟨by decide, fun k _ => ⟨fun i hi => ?_, fun _ j hj => ?_⟩⟩
  · simp [mpath0] at hi
  · simp [mpath0] at hj

theorem wit_EngineEvents_mpathIdle :
    ∀ x ∈ [(0, 4), (2 ^ 31, 4), (4, 0), (4, 257)],
      let q : MpathOp := { mpath0 with n := x.1, p := x.2 }
      (mpathS q []).mpathHead 0 = some q ∧ q.req = none ∧ mpathRuns q.n q.p = false
      ∧ (mpathS q []).group? q.blk q.gid = some (withEng .nest fetchGroup) := by decide +kernel

theorem wit_EngineEvents_mpathLast :
    let q : MpathOp := { mpath0 with req := some 5 }
    let r := mpathAns 1 [9]
    (mpathS q [r]).mpathHead 0 = some q ∧ (mpathS q [r]).got? 5 = some r ∧ mpathRuns q.n q.p = true ∧ q.sent ≤ q.p ∧ q.z = none := by
  decide +kernel

theorem wit_EngineEvents_mpathPointers :
    let q : MpathOp := { mpath0 with req := some 5, z := some 9 }
    let r := mpathAns 5 [0, 3, 3, 5, 9]
    (mpathS q [r]).mpathHead 0 = some q ∧ (mpathS q [r]).got? 5 = some r ∧ q.pos ≤ q.n
      ∧ (r.vals.all fun v => decide (v.toNat < 2 ^ 32)) = true := by decide +kernel

theorem wit_EngineEvents_mpathWritten :
    let q : MpathOp := { mpathRead with req := some 5 }
    let r := mpathAns 5 []
    (mpathS q [r]).mpathHead 0 = some q ∧ (mpathS q [r]).got? 5 = some r ∧ q.z = some 9 ∧ q.failed = [] ∧ q.n < q.pos
      ∧ q.p < q.sent + r.parts.length ∧ (mpathS q [r]).group? q.blk q.gid = some (withEng .nest fetchGroup) := by decide +kernel

theorem wit_EngineEvents_mpathAsks :
    (let q : MpathOp := { mpath0 with z := some 9 }
    (mpathS q []).mpathHead 0 = some q ∧ q.req = none ∧ q.pos ≤ q.n ∧ vaLegal (q.rows + BitVec.ofNat 64 (4 * q.pos)) = true)
    ∧ (let q := mpathRead
      (mpathS q []).mpathHead 0 = some q ∧ q.req = none ∧ q.z = some 9 ∧ q.pos = q.n + 1 ∧ q.sent ≤ q.p
      ∧ ((mpathS q []).sideOf q.core).length < 256 ∧ vaLegal (q.out + BitVec.ofNat 64 (8 * q.sent)) = true) := by decide +kernel

/-- WAITMEM.NE on a word and on a doubleword whose answer differs from s3. -/
theorem wit_EngineEvents_waitmem :
    ∀ t ∈ [Ty.n32, .n64],
      let k : Park := { cond := .word 5 0, slotB := false, op := { op0 with ty := t, d := 0xA8, a := 0xA4, b := 0xA2 } }
      let g : Group := { fetchGroup with park := some k }
      let s0 := grpS { n := 1 } fun _ => g
      let r : Req := {
        id := 5, kind := .load, core := 0, who := .watch 1 0, line := 0, parts := [{ lane := 0, va := 0, size := 8 }], phase := .answered
        vals := [7] }
      let s : State := { s0 with fab := { s0.fab with got := [r] } }
      s.group? 1 0 = some g ∧ (s.curOf 1 0 k.slotB).any (fun c => waitHolds c k.op 7) = true ∧ s.got? 5 = some r
      ∧ inScratch k.op = false := by decide +kernel

/-! ### Decoding: words of the spec's worked encodings, and by the layout of R342 for families without one -/

/-- The words decode to the instruction, nothing is left, and the encoder gives the words back. -/
def reads (ws : List DWord) (i : Instr) : Bool :=
  (match decodeWords ws with | .ok (j, []) => j == i | _ => false) && encode i == ws

/-- chapter 16: `(p1) BRA.D alt, meet`. -/
theorem test_decode_branch : reads [0x4008800000000C00, 0xF000000000002800]
    (.braD { op0 with gp := 1, c := 0x6, ext := .extn false 0 0 0x2800 }) = true := by decide +kernel

/-- chapter 16: `CALL fx || fy` at 0x008. -/
theorem test_decode_call : reads [0x4017800000003E00, 0xFC0000000000FC00]
    (.call { op0 with c := 0x1F, ext := .face true true 0 0 0 0 0x003F }) = true := by decide +kernel

/-- chapter 16: `MELD p2 || p3`. -/
theorem test_decode_meld : reads [0x40438001C4000000, 0xFC038C0000000000]
    (.meld { op0 with a := 0xE2, ext := .face true true 0 0xE3 0 0 0 }) = true := by decide +kernel

/-- chapter 16: `PAD 0x5A`. -/
theorem test_decode_pad : reads [0x002380000000005A]
    (.pad { op0 with mod := 0x5A }) = true := by decide +kernel

/-- chapter 17: `MUL.N32 a2, lane, 4`. -/
theorem test_decode_integer : reads [0x020B8F05F2000900]
    (.mul { op0 with ty := .n32, d := 0x82, a := 0xF9, c := 0x4, mod := 0x100 }) = true := by decide +kernel

/-- chapter 18: `ST.rel.clu.N32 v7, [a4 + 8] ;;`. -/
theorem test_decode_store : reads [0x16078E0F080010A0]
    (.st { op0 with seam := 1, ty := .n32, d := 0x7, a := 0x84, c := 0x8, mod := 0xA0 }) = true := by decide +kernel

/-- chapter 18: `LDT v16, [s4], 4`. -/
theorem test_decode_rows : reads [0x061B802148000006]
    (.ldt { op0 with d := 0x10, a := 0xA4, mod := 0x6 }) = true := by decide +kernel

/-- chapter 18: `AADD.N32 v3, [v10], s5`. -/
theorem test_decode_atomic : reads [0x06438E06154A0000]
    (.aadd { op0 with ty := .n32, d := 0x3, a := 0xA, b := 0xA5 }) = true := by decide +kernel

/-- chapter 18: `WAITP.blk [s4], 1`. -/
theorem test_decode_wait : reads [0x068F800148000041]
    (.waitp { op0 with a := 0xA4, mod := 0x41 }) = true := by decide +kernel

/-- chapter 18: `FENCE.pkg`. -/
theorem test_decode_fence : reads [0x0683800000000100]
    (.fence { op0 with mod := 0x100 }) = true := by decide +kernel

/-- chapter 19: `MSTAT.ws s4, E2M1, 256, 1024, META` with `t2, 5`. -/
theorem test_decode_array : reads [0x4803800148000001, 0xFA1400000003FFEC]
    (.mstat { op0 with a := 0xA4, mod := 0x1, ext := .extn true 2 5 0x3FFEC }) = true := by decide +kernel

/-- chapter 19: `COPY.NBR.BAR 1, s6, s4, s8, 6, s10`. -/
theorem test_decode_copy : reads [0x48638155494D500A, 0xF000000000000031]
    (.copy { op0 with d := 0xAA, a := 0xA4, b := 0xA6, c := 0xA8, mod := 0xA, ext := .extn false 0 0 0x31 }) = true := by decide +kernel

/-- chapter 19: `HITCH.DON 5, 32`. -/
theorem test_decode_hitch : reads [0x0A23800000080A00]
    (.hitch { op0 with b := 0x4, c := 0x5 }) = true := by decide +kernel

/-- chapter 19: `RDSR s2, GTICK`. -/
theorem test_decode_special : reads [0x0A43814400000000]
    (.rdsr { op0 with d := 0xA2 }) = true := by decide +kernel

/-- chapter 19: `LBUF zero, 4, 1, 0b0101`. -/
theorem test_decode_loopBuffer : reads [0x88878001F0000000, 0xF000000000000005, 0xF000000000000000, 0xF000000000004000]
    (.lbuf { op0 with a := 0xF8, ext := .quad (5 + 0x4000 <<< 120) }) = true := by decide +kernel

/-- chapter 19: `FMUL.F32 v16, v0, v20 ;;`. -/
theorem test_decode_float : reads [0x140B962000280000]
    (.fmul { op0 with seam := 1, ty := .f32, d := 0x10, b := 0x14 }) = true := by decide +kernel

/-- `PAND p1, p2, p3` (R388). -/
theorem test_decode_predicate : reads [0x006381C3C5C60000]
    (.pand { op0 with d := 0xE1, a := 0xE2, b := 0xE3 }) = true := by decide +kernel

/-- `VOTE.ANY p1, p2`. -/
theorem test_decode_vote : reads [0x008781C3C4000000]
    (.voteAny { op0 with d := 0xE1, a := 0xE2 }) = true := by decide +kernel

/-- `SHFL.XOR v1, v2, 16`: VAR 0, K 16. -/
theorem test_decode_shuffle : reads [0x02CF800204000010]
    (.shflXor { op0 with d := 0x1, a := 0x2, mod := 0x10 }) = true := by decide +kernel

/-- `CVTI.I32.F32 v1, v2`: STY in C. -/
theorem test_decode_convert : reads [0x0467860204001600]
    (.cvti { op0 with ty := .i32, d := 0x1, a := 0x2, c := 0xB }) = true := by decide +kernel

/-- `REDADD.I32 v1, v2`. -/
theorem test_decode_reduce : reads [0x04A3860204000000]
    (.redadd { op0 with ty := .i32, d := 0x1, a := 0x2 }) = true := by decide +kernel

/-- `TAND t1, t2, t3`. -/
theorem test_decode_tile : reads [0x08C781E3E5E60000]
    (.tand { op0 with d := 0xF1, a := 0xF2, b := 0xF3 }) = true := by decide +kernel

/-- `QZERO m2`. -/
theorem test_decode_quarter : reads [0x484B81D400000000, 0xF000000000000000]
    (.qzero { op0 with d := 0xEA, ext := .extn false 0 0 0 }) = true := by decide +kernel

/-- `BPACK.F32 s1, s2, s3`. -/
theorem test_decode_sparse : reads [0x48AB960143454600, 0xF000000000000000]
    (.bpack { op0 with ty := .f32, a := 0xA1, b := 0xA2, c := 0xA3, ext := .extn false 0 0 0 }) = true := by decide +kernel

/-! ### Ill-formed terms: one for each check, which the check refuses -/

theorem test_bad_seam : (Instr.add { op3 .i32 with seam := 3 }).bad = some .badSeam := by decide
theorem test_bad_len : (Instr.nop { op0 with ext := .quad 0 }).bad = some .badLen := by decide
theorem test_bad_len_kind : (Instr.bra { op0 with ext := .extn false 0 0 0 }).bad = some .badLen := by decide +kernel
theorem test_bad_type : (Instr.add (op3 .e2m1)).bad = some .badType := by decide +kernel
theorem test_bad_guard : (Instr.mnext { op0 with gp := 1, a := 0xE1 }).bad = some .badGuard := by decide +kernel
theorem test_bad_mod : (Instr.andd { op3 .n32 with mod := 0x080 }).bad = some .badMod := by decide +kernel
theorem test_bad_scope : (Instr.barBlk { op0 with a := 0xA8, mod := 0x081 }).bad = some .badMod := by decide
theorem test_bad_field : (Instr.add { op3 .i32 with d := 0xE1 }).bad = some (.badField 0) := by decide +kernel
theorem test_bad_face : (Instr.add { op3 .i32 with ext := .face true true 0xE1 2 3 0 0 }).bad = some (.badField 1) := by
  decide +kernel
theorem test_bad_payload : (Instr.lbuf { op0 with a := 0xF8, ext := .quad (BitVec.allOnes 180) }).bad.isSome = true := by
  decide +kernel
/-- MARK of a second word, an unassigned opcode, and words that end early are refused on the words themselves. -/
theorem test_bad_words :
    decodeWords [0x4017800000003E00, 0x7C0000000000FC00] = .error (.badMark 1)
    ∧ decodeWords [0x0000000000000000 + (0x0FF <<< 50)] = .error .badType
    ∧ decodeWords [0x4017800000003E00] = .error .short := by
  refine ⟨?_, ?_, ?_⟩ <;> rfl

/-! ### Premises met: encodings and steps -/

theorem wit_DecodeEncode : (Instr.add (op3 .i32)).hasWords = true ∧ (Instr.add (op3 .i32)).wf = true := by decide +kernel

theorem wit_DecodedWords :
    decodeWords [0x1201860204000B00, 5] = .ok (.add { op0 with seam := 1, gp := 3, ty := .i32, d := 1, a := 2, c := 5, mod := 0x100 }, [5]) := by
  rfl

/-- ADD, the last instruction worked in chapter 15, where the next step fetches. -/
def addAt : State := State.reset.withFetchWord 64 0x1201860204000B00

theorem wit_StepRunsDecoded_words :
    addAt.agenda = [.issue 0 0]
    ∧ (let u : State := { addAt with agenda := [], cores := { addAt.cores with cur := some (0, 0) } }
      u.current = some (curOf u) ∧ (curOf u).path.loop = none ∧ ∃ w, u.fetchInstr (curOf u) (curOf u).path.pc = .words [w]
        ∧ w = 0x1201860204000B00) := by
  refine ⟨by decide +kernel, by decide +kernel, by decide +kernel, _, ?_, rfl⟩
  decide +kernel

theorem wit_StepRunsDecoded_refused :
    (let u := { State.reset.withFetchWord 64 (0x0FF <<< 50) with agenda := [], cores := { (State.reset.withFetchWord 64 (0x0FF <<< 50)).cores with cur := some (0, 0) } }
    u.current = some (curOf u) ∧ u.fetchInstr (curOf u) (curOf u).path.pc = .words [0x0FF <<< 50])
    ∧ ∃ e, decodeWords [0x0FF <<< 50] = .error e := by
  refine ⟨⟨by decide +kernel, by decide +kernel⟩, _, rfl⟩

/-- The fetching path changed. -/
def pathS (f : Path → Path) : State := baseG fun g => { g with pa := g.pa.map f }

/-- A loop buffer at the first place of one body instruction. -/
def lbuf0 (body : List (BitVec 10 × Op)) : LoopBuf :=
  { pc := fetchPc, trips := 2, trip := 0, place := 0, body := body, stride := 0, sel := 0 }

theorem wit_StepRunsDecoded_firm :
    let x : FwAccess := .load 0 5 0 0x40 8
    let s : State := { ev {} with agenda := [.firm x] }
    s.agenda = [.firm x] ∧ s.mustWait (.firm x) = false := by decide

theorem wit_StepRunsDecoded_other :
    (State.reset.agenda = [.event .powerOnReset {}] ∧ (ev {}).agenda = [])
    ∧ ({ ev {} with cores := { (ev {}).cores with cur := some (0, 0) } } : State).current = none
    ∧ (let u := pathS fun p => { p with pc := 0x0000700000000000 }
      u.current = some (curOf u) ∧ (curOf u).path.loop = none
      ∧ (match u.fetchInstr (curOf u) (curOf u).path.pc with | .fail _ _ _ => true | _ => false) = true)
    ∧ (let u : State := { base with fab := { base.fab with tlb := [], mem := [] } }
      u.current = some (curOf u) ∧ (match u.fetchInstr (curOf u) (curOf u).path.pc with | .wait _ => true | _ => false) = true)
    ∧ (let u := pathS fun p => { p with loop := some (lbuf0 [(0x080, op3 .i32)]) }
      (curOf u).path.loop = some (lbuf0 [(0x080, op3 .i32)]) ∧ loopInstr (lbuf0 [(0x080, op3 .i32)]) = some (.add (op3 .i32)))
    ∧ (let u := pathS fun p => { p with loop := some (lbuf0 []) }
      (curOf u).path.loop = some (lbuf0 []) ∧ loopInstr (lbuf0 []) = none) := by
  decide +kernel

theorem wit_StepKeepsMemory : State.reset.fab.mem.wf ∧ ∃ t, step State.reset = .next t := ⟨by decide, _, rfl⟩

/-! ### Single steps -/

/-- What a general register holds in a lane after a step. -/
def vAfter (s : State) (reg lane : Nat) : Option Word :=
  match step s with
  | .next t => match t.group? 1 0 with | some g => some (FMap.get 0 g.r.v (32 * reg + lane)) | none => none
  | _ => none

/-- The instruction whose bits are w, fetched with v2 and v3 set. -/
def vStep (nbits w : Nat) (x y : Word) : State :=
  let s := State.reset.withFetchWord nbits w
  { s with cores := { s.cores with blocks := s.cores.blocks.map fun b => { b with groups := b.groups.map fun g =>
      { g with r := { g.r with v := vec 2 x ++ vec 3 y } } } } }

/-- `ADD.I32 v1, v2, v3` wraps modulo 2^32 (R400). -/
theorem test_add_wraps : vAfter (vStep 64 0x0203860204060000 0x7FFFFFFF 1) 1 31 = some 0x80000000 := by decide +kernel
/-- `SUB.I32 v1, v2, v3` takes B from A. -/
theorem test_sub_order : vAfter (vStep 64 0x0207860204060000 5 7) 1 0 = some 0xFFFFFFFE := by decide +kernel
/-- `DIV.I32 v1, v2, v3` truncates towards zero (R401): −7 / 2 = −3. -/
theorem test_div_truncates : vAfter (vStep 64 0x021B860204060000 0xFFFFFFF9 2) 1 0 = some 0xFFFFFFFD := by decide +kernel
/-- `REM.I32 v1, v2, v3` takes the sign of x (R401): −7 rem 2 = −1. -/
theorem test_rem_sign : vAfter (vStep 64 0x021F860204060000 0xFFFFFFF9 2) 1 0 = some 0xFFFFFFFF := by decide +kernel
/-- `FMUL.F32 v1, v2, v3`: 1.5 × 2.0 = 3.0. -/
theorem test_fmul : vAfter (vStep 64 0x040B960204060000 0x3FC00000 0x40000000) 1 0 = some 0x40400000 := by decide +kernel

end Sys2Proof.Tests
end

/-! ## Votes of a face (R388)

A vote reads two words: the active lanes of the lane's face and the predicate. Its result is tied here to the lanes of the
face whose bit is one (`ones` of the statement) and whose bit is zero (`zeros`); the write to the destination is the shared
operation of `issuePred_result` and `issueLanes_result`. -/

namespace Sys2Proof.Machine
open Sys2Proof

/-! ### Lanes of a masked word -/

theorem lanesOf_and (w p : Word) : lanesOf (w &&& p) = (lanesOf w).filter fun k => p.getLsbD k := by
  simp [lanesOf, List.filter_filter, Bool.and_comm]

theorem lanesOf_and_not (w p : Word) : lanesOf (w &&& ~~~p) = (lanesOf w).filter fun k => !p.getLsbD k := by
  rw [lanesOf_and]
  refine List.filter_congr fun k hk => ?_
  have hlt : k < 32 := (mem_lanesOf.mp hk).1
  simp [hlt]

theorem lanesOf_eq_nil {w : Word} : lanesOf w = [] ↔ w = 0 := by
  refine ⟨fun h => BitVec.eq_of_getLsbD_eq fun k hk => ?_, fun h => h ▸ lanesOf_zero⟩
  have hnot : k ∉ lanesOf w := by simp [h]
  simpa [mem_lanesOf, hk] using hnot

theorem beq_zero_eq_isEmpty (w : Word) : (w == 0) = (lanesOf w).isEmpty := by
  rw [Bool.eq_iff_iff, beq_iff_eq, List.isEmpty_iff, lanesOf_eq_nil]

/-! ### What each vote says of a face and a predicate -/

theorem voteAllOf_eq (face p : Word) : voteAllOf face p = ((lanesOf face).filter fun k => !p.getLsbD k).isEmpty := by
  rw [voteAllOf, beq_zero_eq_isEmpty, lanesOf_and_not]

theorem voteSet_beq_zero (face p : Word) : (voteSet face p == 0) = ((lanesOf face).filter fun k => p.getLsbD k).isEmpty := by
  rw [voteSet, beq_zero_eq_isEmpty, lanesOf_and]

theorem voteAnyOf_eq (face p : Word) : voteAnyOf face p = !((lanesOf face).filter fun k => p.getLsbD k).isEmpty := by
  rw [voteAnyOf, bne, voteSet_beq_zero]

theorem voteUniOf_eq (face p : Word) :
    voteUniOf face p = (((lanesOf face).filter fun k => !p.getLsbD k).isEmpty
      || ((lanesOf face).filter fun k => p.getLsbD k).isEmpty) := by
  rw [voteUniOf, voteAllOf_eq, voteSet_beq_zero]

theorem pcntOf_eq (face p : Word) : pcntOf face p = ((lanesOf face).filter fun k => p.getLsbD k).length := by
  rw [pcntOf, voteSet, lanesOf_and]

theorem pfirstOf_eq (face p : Word) : pfirstOf face p = ((lanesOf face).filter fun k => p.getLsbD k).head?.getD 32 := by
  rw [pfirstOf, lowest, voteSet, lanesOf_and]

theorem testBit_voteSet (face p : Word) (k : Nat) : (voteSet face p).toNat.testBit k = (face.getLsbD k && p.getLsbD k) := by
  rw [voteSet, BitVec.testBit_toNat, BitVec.getLsbD_and]

/-! ### Issuing a vote -/

/-- BALLOT, PCNT and PFIRST: the votes that write a general register (R388). -/
abbrev voteValOpcodes : List (BitVec 10) := [0x023, 0x024, 0x025]

theorem voteVal_ne_nop {opc : BitVec 10} (h : opc ∈ voteValOpcodes) : opc ≠ 0x000 := by
  rintro rfl
  exact absurd h (by decide)

/-- A vote into a predicate writes in every active lane what it says of the lane's face and the predicate. -/
theorem answers_votePred {i : Instr} {s : State} {c : Cur} {opc : BitVec 10} {o : Op} {f : Word → Word → Bool} {g : Nat → Bool}
    (hexec : exec i s = issueVotePred opc o s f) (h : Issues s c opc o)
    (hfg : ∀ l, f (faceLanes s c o l) (predOf c.grp (o.a.toNat - 0xE0)) = g l) :
    Answers i s fun t => PredIs s t c o g := by
  obtain rfl := funext hfg
  unfold Answers
  rw [hexec]
  exact issuePred_result h fun c l => f (faceLanes s c o l) (predOf c.grp (o.a.toNat - 0xE0))

/-- A vote into a register does the same; it has no affine result. -/
theorem answers_voteVal {i : Instr} {s : State} {c : Cur} {opc : BitVec 10} {o : Op} {f : Word → Word → Nat} {g : Nat → Nat}
    (hexec : exec i s = issueVoteVal opc o s f) (hopc : opc ∈ voteValOpcodes)
    (h : LaneReady s c opc o none) (hfg : ∀ l, f (faceLanes s c o l) (predOf c.grp (o.a.toNat - 0xE0)) = g l) :
    Answers i s fun t => ResultIs s t c o false g := by
  obtain rfl := funext hfg
  unfold Answers
  rw [hexec]
  exact issueLanes_result (aff := noAff) h (voteVal_ne_nop hopc) false
    (fun c l => f (faceLanes s c o l) (predOf c.grp (o.a.toNat - 0xE0)))
    (fun _ hsh => laneShape_vote (List.mem_cons_of_mem _ hopc) hsh) (by intro x hx; cases hx)

/-- A property of the value that a result gives every lane holds of the lane's register. -/
theorem ResultIs.eachLane {s t : State} {c : Cur} {o : Op} {wide : Bool} {f : Nat → Nat} {P : Nat → Nat → Prop}
    (h : ResultIs s t c o wide f) (hP : ∀ l, P l (f l % 2 ^ (if wide then 64 else 32))) : EachLane s t c o wide P := by
  intro l hl hu
  rw [h l hl hu]
  exact hP l

theorem Answers.mono {i : Instr} {s : State} {P Q : State → Prop} (h : Answers i s P) (hPQ : ∀ t, P t → Q t) : Answers i s Q := by
  obtain ⟨t, ht, hp⟩ := h
  exact ⟨t, ht, hPQ t hp⟩

/-! ### General destinations only (R351, R388) -/

/-- A legal instruction of the class `v` names no affine or uniform register as its destination. -/
theorem vd_general {opc : BitVec 10} {o : Op} (h : checkOp opc o = none) (h0 : opc ≠ 0x000)
    (hvd : ∀ sh, shapeOf opc o = some sh → sh.d = .vd) : isAff o.d = false ∧ isUni o.d = false := by
  obtain ⟨sh, hsh, -, -, hb, -⟩ := checkOp_shape h h0
  have hlt : o.d.toNat < 0x80 := by
    unfold baseFieldsOk at hb
    split at hb
    · simp only [Bool.and_eq_true] at hb
      obtain ⟨⟨⟨⟨⟨hd, -⟩, -⟩, -⟩, -⟩, -⟩ := hb
      rw [hvd sh hsh] at hd
      rcases admits_lane rfl hd with ⟨hlt, -⟩ | ⟨-, ⟨hdst, -⟩ | hvas⟩ | ⟨-, hne, -⟩
      · exact hlt
      · cases hdst
      · cases hvas
      · exact absurd rfl hne
    · simp only [Bool.and_eq_true, beq_iff_eq] at hb
      obtain ⟨⟨⟨hd, -⟩, -⟩, -⟩ := hb
      simp [hd]
  constructor
  · simp [isAff]; omega
  · simp [isUni]; omega

theorem voteVal_class {opc : BitVec 10} {o : Op} {sh : Shape} (hopc : opc ∈ voteValOpcodes)
    (h : shapeOf opc o = some sh) : sh.d = .vd := by
  simp only [voteValOpcodes, List.mem_cons, List.not_mem_nil, or_false] at hopc
  rcases hopc with rfl | rfl | rfl <;>
  · simp [shapeOf, familyOf, ctlShape] at h
    obtain ⟨-, -, rfl⟩ := h
    rfl

/-- BALLOT, PCNT and PFIRST with an affine or uniform destination are refused. -/
theorem checkOp_voteVal {opc : BitVec 10} {o : Op} (hopc : opc ∈ voteValOpcodes)
    (hd : isAff o.d = true ∨ isUni o.d = true) : (checkOp opc o).isSome = true := by
  rw [Option.isSome_iff_ne_none]
  intro hlegal
  obtain ⟨hna, hnu⟩ := vd_general hlegal (voteVal_ne_nop hopc) fun _ => voteVal_class hopc
  simp [hna, hnu] at hd

end Sys2Proof.Machine

section
open Sys2Proof Sys2Proof.Machine

/-- Settles O10: each vote's word is read as the statement's lanes of the face, and its write is that of every predicate or
lane-wise instruction; the class of the destination leaves only general registers. -/
theorem votes : Obligations.Votes := by
  unfold Obligations.Votes
  intro s c o ones zeros
  refine ⟨fun h => ?_, fun h => ?_, fun h => ?_, fun h => ?_, fun h => ?_, fun h => ?_, fun hd => ?_⟩
  · exact answers_votePred (f := voteAllOf) rfl h fun _ => voteAllOf_eq _ _
  · exact answers_votePred (f := voteAnyOf) rfl h fun _ => voteAnyOf_eq _ _
  · exact answers_votePred (f := voteUniOf) rfl h fun _ => voteUniOf_eq _ _
  · have hballot := answers_voteVal (i := .ballot o) (f := fun face p => (voteSet face p).toNat) rfl (by decide) h fun _ => rfl
    refine hballot.mono fun t ht => ht.eachLane fun l k hk => ?_
    rw [if_neg Bool.false_ne_true, Nat.testBit_mod_two_pow, testBit_voteSet, decide_eq_true hk, Bool.true_and]
    rfl
  · exact answers_voteVal (f := pcntOf) rfl (by decide) h fun _ => pcntOf_eq _ _
  · exact answers_voteVal (f := pfirstOf) rfl (by decide) h fun _ => pfirstOf_eq _ _
  · exact ⟨checkOp_voteVal (by decide) hd, checkOp_voteVal (by decide) hd, checkOp_voteVal (by decide) hd⟩

end

/-! ## Integers of a type, and division (R229, R233, R401)

A pattern read in an integer format is the one number of the format that differs from the pattern by a multiple of 2 to the
width. What a register reads of a wrapped or a saturated result follows from that. -/

namespace Sys2Proof

/-! ### Numbers of a format -/

/-- The number lies in the integer format's range. -/
def InFormat (signed : Bool) (w : Nat) (x : Int) : Prop := intMin signed w ≤ x ∧ x ≤ intMax signed w

/-- A format of `w` bits holds `2 ^ w` numbers. -/
theorem intMax_sub_intMin (signed : Bool) {w : Nat} (hw : 0 < w) :
    intMax signed w - intMin signed w = ((2 ^ w : Nat) : Int) - 1 := by
  have hpow : 2 ^ (w - 1) * 2 = 2 ^ w := Nat.two_pow_pred_mul_two hw
  cases signed
  · simp [intMin, intMax]
  · simp only [intMin, intMax, if_true]
    omega

theorem inFormat_zero (signed : Bool) (w : Nat) : InFormat signed w 0 := by
  have hpos (k : Nat) : 0 < 2 ^ k := Nat.two_pow_pos k
  cases signed
  · have := hpos w
    constructor <;> simp only [intMin, intMax, Bool.false_eq_true, if_false] <;> omega
  · have := hpos (w - 1)
    constructor <;> simp only [intMin, intMax, if_true] <;> omega

theorem intMin_le_intMax (signed : Bool) (w : Nat) : intMin signed w ≤ intMax signed w :=
  Int.le_trans (inFormat_zero signed w).1 (inFormat_zero signed w).2

theorem readInt_inFormat (signed : Bool) {w : Nat} (hw : 0 < w) (x : Nat) : InFormat signed w (readInt signed w x) := by
  have hpow : 2 ^ (w - 1) * 2 = 2 ^ w := Nat.two_pow_pred_mul_two hw
  have hlt : x % 2 ^ w < 2 ^ w := Nat.mod_lt _ (Nat.two_pow_pos w)
  cases signed
  · simp only [InFormat, readInt, intMin, intMax, Bool.false_and, Bool.false_eq_true, if_false]
    omega
  · simp only [InFormat, readInt, intMin, intMax, Bool.true_and, decide_eq_true_eq, if_true]
    split <;> omega

theorem dvd_readInt_sub (signed : Bool) (w x : Nat) : ((2 ^ w : Nat) : Int) ∣ readInt signed w x - x := by
  have hmod : ((2 ^ w : Nat) : Int) ∣ ((x % 2 ^ w : Nat) : Int) - x := by
    rw [Int.natCast_emod]
    exact Int.dvd_emod_sub_self
  simp only [readInt]
  split
  · have h := Int.dvd_sub hmod (Int.dvd_refl _)
    rwa [Int.sub_sub, Int.add_comm, ← Int.sub_sub] at h
  · exact hmod

theorem dvd_wrapNat_sub (w : Nat) (x : Int) : ((2 ^ w : Nat) : Int) ∣ (wrapNat w x : Int) - x := by
  have hne : ((2 ^ w : Nat) : Int) ≠ 0 := Int.ne_of_gt (Int.natCast_pos.mpr (Nat.two_pow_pos w))
  rw [wrapNat, Int.toNat_of_nonneg (Int.emod_nonneg x hne)]
  exact Int.dvd_emod_sub_self

/-- A format holds one number of each class modulo 2 to its width. -/
theorem InFormat.eq_of_dvd {signed : Bool} {w : Nat} {x y : Int} (hw : 0 < w) (hx : InFormat signed w x)
    (hy : InFormat signed w y) (hdvd : ((2 ^ w : Nat) : Int) ∣ x - y) : x = y := by
  obtain ⟨hxmin, hxmax⟩ := hx
  obtain ⟨hymin, hymax⟩ := hy
  have hsize := intMax_sub_intMin signed hw
  exact Int.sub_eq_zero.mp (Int.eq_zero_of_dvd_of_natAbs_lt_natAbs hdvd (by omega))

theorem dvd_sub_trans {d x y z : Int} (hxy : d ∣ x - y) (hyz : d ∣ y - z) : d ∣ x - z := by
  have h := Int.dvd_add hxy hyz
  rwa [show x - y + (y - z) = x - z by omega] at h

theorem dvd_readInt_wrapNat_sub (signed : Bool) (w : Nat) (x : Int) :
    ((2 ^ w : Nat) : Int) ∣ readInt signed w (wrapNat w x) - x :=
  dvd_sub_trans (dvd_readInt_sub signed w (wrapNat w x)) (dvd_wrapNat_sub w x)

/-- A number of the format is read back as it was wrapped. -/
theorem readInt_wrapNat {signed : Bool} {w : Nat} {x : Int} (hw : 0 < w) (hx : InFormat signed w x) :
    readInt signed w (wrapNat w x) = x :=
  (readInt_inFormat signed hw _).eq_of_dvd hw hx (dvd_readInt_wrapNat_sub signed w x)

/-- The remainder of a division that truncates lies between 0 and the dividend. -/
theorem InFormat.tmod {signed : Bool} {w : Nat} {x : Int} (hx : InFormat signed w x) (y : Int) :
    InFormat signed w (x.tmod y) := by
  obtain ⟨hmin, hmax⟩ := hx
  obtain ⟨hmin0, hmax0⟩ := inFormat_zero signed w
  have habs : (x.tmod y).natAbs ≤ x.natAbs := by
    rw [Int.natAbs_tmod]
    exact Nat.mod_le _ _
  rcases Int.le_total 0 x with hpos | hneg
  · have hsign : 0 ≤ x.tmod y := Int.tmod_nonneg y hpos
    exact ⟨by omega, by omega⟩
  · have hsign : 0 ≤ -x.tmod y := by
      rw [← Int.neg_tmod]
      exact Int.tmod_nonneg y (Int.neg_nonneg_of_nonpos hneg)
    exact ⟨by omega, by omega⟩

theorem satInt_eq (signed : Bool) (w : Nat) (x : Int) :
    satInt signed w x = max (intMin signed w) (min (intMax signed w) x) := by
  have hle := intMin_le_intMax signed w
  unfold satInt
  split
  · omega
  · split <;> omega

theorem satInt_inFormat (signed : Bool) (w : Nat) (x : Int) : InFormat signed w (satInt signed w x) := by
  have hle := intMin_le_intMax signed w
  rw [satInt_eq]
  exact ⟨by omega, by omega⟩

theorem InFormat.mono {signed : Bool} {w v : Nat} {x : Int} (hwv : w ≤ v) (hx : InFormat signed w x) : InFormat signed v x := by
  have hle (m n : Nat) (h : m ≤ n) : ((2 ^ m : Nat) : Int) ≤ (2 ^ n : Nat) :=
    Int.ofNat_le.mpr (Nat.pow_le_pow_right (by decide) h)
  have hfull := hle w v hwv
  have hhalf := hle (w - 1) (v - 1) (by omega)
  obtain ⟨hmin, hmax⟩ := hx
  cases signed
  · simp only [InFormat, intMin, intMax, Bool.false_eq_true, if_false] at *
    omega
  · simp only [InFormat, intMin, intMax, if_true] at *
    omega

theorem wrapNat_lt (w : Nat) (x : Int) : wrapNat w x < 2 ^ w := by
  have hpos : (0 : Int) < (2 ^ w : Nat) := Int.natCast_pos.mpr (Nat.two_pow_pos w)
  have hlt := Int.emod_lt_of_pos x hpos
  unfold wrapNat
  omega

/-- What a format of the same width reads is wrapped to the pattern again. -/
theorem wrapNat_readInt (signed : Bool) (w x : Nat) : wrapNat w (readInt signed w x) = x % 2 ^ w := by
  rw [wrapNat, Int.emod_eq_emod_iff_emod_sub_eq_zero.mpr (Int.emod_eq_zero_of_dvd (dvd_readInt_sub signed w x))]
  exact Int.toNat_natCast (x % 2 ^ w)

/-- An unsigned number is wrapped to itself by every format that is as wide. -/
theorem wrapNat_readInt_unsigned {w v : Nat} (hwv : w ≤ v) (x : Nat) : wrapNat v (readInt false w x) = x % 2 ^ w := by
  have hlt : x % 2 ^ w < 2 ^ v :=
    Nat.lt_of_lt_of_le (Nat.mod_lt x (Nat.two_pow_pos w)) (Nat.pow_le_pow_right (by decide) hwv)
  exact (Int.toNat_natCast (x % 2 ^ w % 2 ^ v)).trans (Nat.mod_eq_of_lt hlt)

theorem Ty.width_pos (t : Ty) : 0 < t.width := by cases t <;> decide

end Sys2Proof

namespace Sys2Proof.Machine
open Sys2Proof

/-! ### What a register holds of an integer result (R233) -/

/-- The bits of the register, or of the pair, that holds a value of the type. -/
def regBits (t : Ty) : Nat := if t.is64 then 64 else 32

theorem width_le_regBits {t : Ty} (ht : t.isInt = true) : t.width ≤ regBits t := by
  revert ht
  cases t <;> decide

theorem regBits_pos (t : Ty) : 0 < regBits t := by cases t <;> decide

/-- A register keeps the number that a pattern of an integer type reads as, wrapped to all its bits. -/
theorem laneOf_eq_wrapNat {t : Ty} (ht : t.isInt = true) (p : Nat) : laneOf t p = wrapNat (regBits t) (intOf t p) := by
  cases t with
  | i8 | i16 => rfl
  | i32 | i64 => exact (wrapNat_readInt true _ p).symm
  | n8 | n16 | n32 | n64 => exact (wrapNat_readInt_unsigned (by decide) p).symm
  | _ => cases ht

theorem laneOf_lt {t : Ty} (ht : t.isInt = true) (p : Nat) : laneOf t p < 2 ^ regBits t :=
  laneOf_eq_wrapNat ht p ▸ wrapNat_lt _ _

theorem intOf_inFormat (t : Ty) (p : Nat) : InFormat t.isSigned t.width (intOf t p) :=
  readInt_inFormat t.isSigned t.width_pos p

/-- A register that keeps a pattern of an integer type reads as the pattern does. -/
theorem regInt_laneOf {t : Ty} (ht : t.isInt = true) (p : Nat) : regInt t (laneOf t p) = intOf t p := by
  rw [laneOf_eq_wrapNat ht]
  exact readInt_wrapNat (regBits_pos t) ((intOf_inFormat t p).mono (width_le_regBits ht))

theorem inRange_laneOf {t : Ty} (ht : t.isInt = true) (p : Nat) : InRange t (laneOf t p) := by
  unfold InRange
  rw [regInt_laneOf ht]
  exact intOf_inFormat t p

/-- A register keeps a pattern's bits as its low bits, and extends them. -/
theorem laneOf_mod {t : Ty} (ht : t.isInt = true) (p : Nat) : laneOf t p % 2 ^ t.width = p % 2 ^ t.width := by
  have hlane : ((2 ^ t.width : Nat) : Int) ∣ laneOf t p - intOf t p := by
    rw [laneOf_eq_wrapNat ht]
    exact Int.dvd_trans (Int.natCast_dvd_natCast.mpr (Nat.pow_dvd_pow 2 (width_le_regBits ht))) (dvd_wrapNat_sub _ _)
  have hdvd := dvd_sub_trans hlane (dvd_readInt_sub t.isSigned t.width p)
  rw [← Int.ofNat_inj, Int.natCast_emod, Int.natCast_emod, Int.emod_eq_emod_iff_emod_sub_eq_zero]
  exact Int.emod_eq_zero_of_dvd hdvd

/-- A result reduced to an integer type is kept as the exact number reduced (R229, R400). -/
theorem intResult_laneOf {t : Ty} (ht : t.isInt = true) (sat : Bool) (n : Int) :
    IntResult t sat n (laneOf t (reduceInt t sat n)) where
  range := inRange_laneOf ht _
  wrap := by
    rintro rfl
    rw [regInt_laneOf ht]
    exact dvd_readInt_wrapNat_sub t.isSigned t.width n
  clamp := by
    rintro rfl
    rw [regInt_laneOf ht, ← satInt_eq]
    exact readInt_wrapNat t.width_pos (satInt_inFormat t.isSigned t.width n)

/-! ### Issuing an integer instruction -/

/-- The type of an instruction that passes the common checks lies in its opcode's set (R353). -/
theorem tyOk_of_issues {s : State} {c : Cur} {opc : BitVec 10} {o : Op} (h : Issues s c opc o) (h0 : opc ≠ 0x000) :
    tyOk opc o.ty = true := by
  obtain ⟨-, -, hty, -⟩ := checkOp_shape (common_check h.checks) h0
  exact hty

/-- What an instruction on registers answers: its result, where the affine result is the lanes' values. -/
theorem answers_lanes {i : Instr} {s : State} {c : Cur} {opc : BitVec 10} {o : Op} {wide : Bool}
    {aff : Cur → Option (Word × Word)} {f : Cur → Nat → Nat} (hexec : exec i s = issueLanes opc o s wide aff f)
    (h : LaneReady s c opc o (aff c)) (h0 : opc ≠ 0x000) (hsh : ∀ sh, shapeOf opc o = some sh → LaneShape sh wide)
    (haff : ∀ x, aff c = some x → o.twoFaced = false → ∀ l, (x.1 + BitVec.ofNat 32 l * x.2).toNat = f c l % 2 ^ 32) :
    Answers i s fun t => ResultIs s t c o wide (f c) := by
  unfold Answers
  rw [hexec]
  exact issueLanes_result h h0 wide f hsh fun x hx _ hone l _ => haff x hx hone l

/-- An integer instruction without an affine result keeps in every lane the pattern that `r` gives; the bits of the register
beyond the type are the pattern's extension. -/
theorem answers_int {i : Instr} {s : State} {c : Cur} {opc : BitVec 10} {o : Op} {r : Cur → Nat → OpSet → Nat → Nat → Nat → Nat}
    {P : Nat → Nat → Prop} (hexec : exec i s = issueInt opc o s noAff r) (h : LaneReady s c opc o none) (h0 : opc ≠ 0x000)
    (hsh : ∀ sh, shapeOf opc o = some sh → LaneShape sh o.ty.is64) (hty : tyOk opc o.ty = o.ty.isInt)
    (hP : o.ty.isInt = true → ∀ l, let x := setFor s c o l
      P l (laneOf o.ty (r c l x (patA c o x l) (patB c o x l) (patC c o x l)))) :
    Answers i s fun t => EachLane s t c o o.ty.is64 P := by
  have hint : o.ty.isInt = true := hty ▸ tyOk_of_issues h.toIssues h0
  have hres := answers_lanes (aff := noAff) hexec h h0 hsh (by intro x hx; cases hx)
  refine hres.mono fun t ht => ht.eachLane fun l => ?_
  rw [← regBits, Nat.mod_eq_of_lt (laneOf_lt hint _)]
  exact hP hint l

/-! ### Division (R401) -/

theorem exec_div (o : Op) (s : State) :
    exec (.div o) s = issueInt 0x086 o s noAff fun _ _ _ a b _ => divOf o.ty o.sat (intOf o.ty a) (intOf o.ty b) := rfl

theorem exec_rem (o : Op) (s : State) :
    exec (.rem o) s = issueInt 0x087 o s noAff fun _ _ _ a b _ => remOf o.ty (intOf o.ty a) (intOf o.ty b) := rfl

/-- The quotient that a register keeps. -/
theorem divOf_result {t : Ty} (ht : t.isInt = true) (sat : Bool) (x y : Int) :
    if y = 0 then InRange t (laneOf t (divOf t sat x y)) ∧ laneOf t (divOf t sat x y) % 2 ^ t.width = 2 ^ t.width - 1
    else IntResult t sat (x.tdiv y) (laneOf t (divOf t sat x y)) := by
  unfold divOf
  split
  · refine ⟨inRange_laneOf ht _, ?_⟩
    rw [laneOf_mod ht, Nat.mod_eq_of_lt (Nat.sub_one_lt (Nat.ne_of_gt (Nat.two_pow_pos t.width)))]
  · exact intResult_laneOf ht sat _

/-- The remainder that a register keeps, of a dividend of the type: no reduction changes it. -/
theorem regInt_remOf {t : Ty} (ht : t.isInt = true) {x : Int} (hx : InFormat t.isSigned t.width x) (y : Int) :
    regInt t (laneOf t (remOf t x y)) = if y = 0 then x else x - y * x.tdiv y := by
  rw [regInt_laneOf ht]
  unfold remOf
  split
  · exact readInt_wrapNat t.width_pos hx
  · rw [← Int.tmod_def]
    exact readInt_wrapNat t.width_pos (hx.tmod y)

end Sys2Proof.Machine

section
open Sys2Proof Sys2Proof.Machine

/-- Settles O2: the register's content reads as the pattern that was written, which is all ones, or the dividend, for a zero
divisor, and otherwise the quotient reduced, or the remainder, whose magnitude the dividend bounds. -/
theorem division : Obligations.Division := by
  unfold Obligations.Division
  intro s c o
  refine ⟨fun h => ?_, fun h => ?_⟩
  · exact answers_int (exec_div o s) h (by decide) (fun _ => laneShape_int (by decide)) rfl
      fun hint l => divOf_result hint o.sat (intA s c o l) (intB s c o l)
  · exact answers_int (exec_rem o s) h (by decide) (fun _ => laneShape_int (by decide)) rfl
      fun hint l => regInt_remOf hint (intOf_inFormat o.ty _) (intB s c o l)

end

/-! ## Compares, selects and moves (R404)

The three write what the shared operations of `issuePred_result` and `issueLanes_result` write; what is left is the meaning of
CMP's condition codes and, for MOV into an affine register, that base and stride give each lane the value it moves. -/

namespace Sys2Proof.Machine
open Sys2Proof

/-! ### Compares -/

/-- The six conditions of CMP. -/
theorem intCond_eq (x y : Int) :
    intCond 0 x y = decide (x = y) ∧ intCond 1 x y = decide (x ≠ y) ∧ intCond 2 x y = decide (x < y)
      ∧ intCond 3 x y = decide (x ≤ y) ∧ intCond 4 x y = decide (y < x) ∧ intCond 5 x y = decide (y ≤ x) := by
  have hdef : compare x y = if x < y then .lt else if x = y then .eq else .gt := rfl
  have hcmp : x < y ∧ compare x y = .lt ∨ x = y ∧ compare x y = .eq ∨ y < x ∧ compare x y = .gt := by
    rcases Int.lt_trichotomy x y with h | h | h
    · exact .inl ⟨h, by rw [hdef, if_pos h]⟩
    · exact .inr (.inl ⟨h, by rw [hdef, if_neg (by omega), if_pos h]⟩)
    · exact .inr (.inr ⟨h, by rw [hdef, if_neg (by omega), if_neg (by omega)]⟩)
  unfold intCond
  rcases hcmp with ⟨h, hc⟩ | ⟨h, hc⟩ | ⟨h, hc⟩ <;>
  · simp only [hc, condHolds, true_eq_decide_iff, false_eq_decide_iff]
    omega

/-- CMP's condition is one of the six. -/
theorem cmp_cond_le {o : Op} {sh : Shape} (h : shapeOf 0x0A8 o = some sh) : o.kInt.toNat ≤ 5 := by
  simp [shapeOf, familyOf, intShape] at h
  omega

theorem exec_cmp (o : Op) (s : State) :
    exec (.cmp o) s = issuePlain 0x0A8 o s (fun _ => []) fun c s' =>
      s'.modCur c (writePred s c o fun l => intCond o.kInt.toNat (intA s c o l) (intB s c o l)) := rfl

theorem PredIs.congr {s t : State} {c : Cur} {o : Op} {f g : Nat → Bool} (h : PredIs s t c o f) (hfg : ∀ l, f l = g l) :
    PredIs s t c o g := (funext hfg : f = g) ▸ h

/-- CMP writes in every active lane whether its condition holds of the lane's operands. -/
theorem answers_cmp {s : State} {c : Cur} {o : Op} (h : Issues s c 0x0A8 o) :
    Answers (.cmp o) s fun t => PredIs s t c o fun l => intCond o.kInt.toNat (intA s c o l) (intB s c o l) := by
  unfold Answers
  rw [exec_cmp]
  exact issuePred_result h fun c l => intCond o.kInt.toNat (intA s c o l) (intB s c o l)

/-! ### Selects and moves, with an affine result (R397) -/

/-- Base and stride of a source give what every lane reads of it. -/
theorem laneVal_of_affineSrc {c : Cur} {r : BitVec 8} {x : Word × Word} (h : affineSrc c r = some x) (l : Nat) :
    laneVal c r l = x.1 + BitVec.ofNat 32 l * x.2 := by
  cases hr : Reg.ofNum r with
  | none => simp [affineSrc, hr] at h
  | some reg =>
    cases reg with
    | a n | s n | zero | lane | gid | bix =>
      simp only [affineSrc, hr, Option.some.injEq] at h
      subst h
      simp [laneVal, hr]
    | v n | p n | m n | t n | quarter => simp [affineSrc, hr] at h

/-- The types of an affine result are copied as they stand. -/
theorem laneOf_copyTy_of_affOk {o : Op} (h : affOk o = true) (p : Nat) :
    o.ty.is64 = false ∧ laneOf (copyTy o.ty) (p % 2 ^ (copyTy o.ty).width) = p % 2 ^ 32 := by
  simp only [affOk, Bool.and_eq_true, Bool.or_eq_true, beq_iff_eq] at h
  obtain ⟨⟨hty | hty, -⟩, -⟩ := h <;>
  · rw [hty]
    exact ⟨rfl, Nat.mod_mod p (2 ^ 32)⟩

/-- The pattern that MOV keeps of lane l. -/
def movVal (s : State) (o : Op) (c : Cur) (l : Nat) : Nat :=
  laneOf (copyTy o.ty)
    (if o.immBit then immPattern o.ty (setFor s c o l).imm
      else srcNat c o.ty.is64 (setFor s c o l).a l % 2 ^ (copyTy o.ty).width)

/-- Base and stride of MOV's affine source, as MOV writes them. -/
def movAff (o : Op) (c : Cur) : Option (Word × Word) := if affOk o && !o.immBit then affineSrc c o.a else none

theorem exec_mov (o : Op) (s : State) : exec (.mov o) s = issueLanes 0x0AA o s o.ty.is64 (movAff o) (movVal s o) := rfl

theorem movVal_of_movAff {s : State} {c : Cur} {o : Op} {x : Word × Word} (h : movAff o c = some x) (hone : o.twoFaced = false)
    (l : Nat) : (x.1 + BitVec.ofNat 32 l * x.2).toNat = movVal s o c l % 2 ^ 32 := by
  unfold movAff at h
  split at h
  · rename_i hcond
    simp only [Bool.and_eq_true, Bool.not_eq_true'] at hcond
    obtain ⟨haff, himm⟩ := hcond
    have hset : (setFor s c o l).a = o.a := by simp [setFor, hone, setX]
    obtain ⟨hnarrow, hcopy⟩ := laneOf_copyTy_of_affOk haff (laneVal c o.a l).toNat
    simp only [movVal, himm, hnarrow, hset, srcNat, Bool.false_eq_true, if_false]
    rw [hcopy, ← laneVal_of_affineSrc h, Nat.mod_mod, Nat.mod_eq_of_lt (BitVec.isLt _)]
  · cases h

/-- The pattern that SEL keeps of lane l. -/
def selVal (s : State) (o : Op) (c : Cur) (l : Nat) : Nat :=
  let x := setFor s c o l
  laneOf (copyTy o.ty) (srcNat c o.ty.is64 (if predBit c x.c l then x.a else x.b) l)

theorem exec_sel (o : Op) (s : State) : exec (.sel o) s = issueLanes 0x0A9 o s o.ty.is64 noAff (selVal s o) := rfl

/-- The worked encoding of R404. -/
theorem decodeWords_cmpLt :
    decodeWords [0x02A387C204060002] = .ok (.cmp
      { seam := 0, gp := 7, gi := false, ty := .i32, d := 0xE1, a := 2, b := 3, c := 0, mod := 2, ext := .one }, []) := rfl

end Sys2Proof.Machine

section
open Sys2Proof Sys2Proof.Machine

/-- Settles O6: a legal CMP has one of six conditions, each of which is its comparison; SEL and MOV keep the pattern copied,
and MOV's affine result is the value of its affine source in every lane; the worked word decodes by evaluation. -/
theorem compareSelectMove : Obligations.CompareSelectMove := by
  unfold Obligations.CompareSelectMove
  intro s c o
  refine ⟨fun h => ?_, fun h => ?_, fun h => ?_, decodeWords_cmpLt⟩
  · obtain ⟨sh, hsh, -⟩ := checkOp_shape (common_check h.checks) (by decide)
    have hle := cmp_cond_le hsh
    refine (answers_cmp h).mono fun t ht => ht.congr fun l => ?_
    obtain ⟨heq, hne, hlt, hles, hgt, hge⟩ := intCond_eq (intA s c o l) (intB s c o l)
    generalize o.kInt.toNat = cc at hle ⊢
    match cc, hle with
    | 0, _ => exact heq
    | 1, _ => exact hne
    | 2, _ => exact hlt
    | 3, _ => exact hles
    | 4, _ => exact hgt
    | 5, _ => exact hge
  · exact answers_lanes (exec_sel o s) h (by decide) (fun _ => laneShape_int (by decide)) (by intro x hx; cases hx)
  · exact answers_lanes (exec_mov o s) h (by decide) (fun _ => laneShape_int (by decide)) fun _ => movVal_of_movAff

end
